-- ==== Sys2Proof/Word.lean ====
section
/-! DEFINITION. The word types of the model. Register contents and instruction words are bit vectors;
addresses of memory cells and counts are natural numbers. -/

namespace Sys2Proof

/-- A byte of memory or of a message. -/
abbrev Byte := BitVec 8

/-- A 64-bit register or bus word. -/
abbrev Word := BitVec 64

/-- A 32-bit word: a lane of the vector unit, an instruction. -/
abbrev Word32 := BitVec 32

/-- A partition number, R14. -/
abbrev PartIx := Fin 8

/-- A physical core position of the device: 72 × partition + core unit (R22). -/
abbrev CoreIx := Fin 576

/-- A cluster of the device: 8 × partition + cluster (R22). -/
abbrev ClusterIx := Fin 64

/-- A memory channel, and the slice beside it, within its partition (R134). -/
abbrev ChanIx := Fin 32

/-- An optical port of the device (R17). -/
abbrev PortIx := Fin 64

/-- A dispatcher queue of a partition (R207). -/
abbrev QueueIx := Fin 64

/-- A Hurdle of the device (R262). -/
abbrev HurdleIx := Fin 65536

/-- A register number of an instruction field. -/
abbrev RegNum := Fin 32

end Sys2Proof
end

