-- ==== Sys2Proof/Machine/CertTypes.lean ====
section
/-! DEFINITION. Certificates and trust anchors, by the fields the device uses (R315, R427, R429). -/

namespace Sys2Proof.Machine

/-- A certificate by the fields the device uses (R315, R429; the encoding of X.509 is not the manual's, log entry 135): the device
serial its subject names, its own serial number, its public key, the bytes signed and the signature. -/
structure Certificate where
  subject : Word
  serial  : Nat
  key     : List Byte
  signed  : List Byte
  sig     : List Byte
  deriving DecidableEq, Repr, Inhabited

end Sys2Proof.Machine
end

