-- ==== Sys2Proof/Config.lean ====
section
/-! DEFINITION. What the manual leaves open and no rule decides: the free values. A constant here has no
body, so nothing can be proved of its value; a statement about it holds for every value. -/

namespace Sys2Proof

/-- The free value number `n` (log entry 2): every value the manual leaves open is this constant applied
to the counter `freeCtr` of the state, which each use advances. Unwritten memory (R178), old or new content
of a racing sector (R78), the replaced translation (R191), the evicted line (R160), a result within its
bound (R124), a duration within its bound (R449). -/
opaque Config.free : Nat → Word

/-- The device key, a private key generated inside the Vault (R427), and the secret number of its signature of a message, neither of
which the manual gives (log entry 22). -/
opaque Config.deviceKey : Nat
@[inherit_doc Config.deviceKey]
opaque Config.signSecret : List Byte → Nat

/-- The device certificate and its intermediate as CERT carries them (R315, R427), log entry 61. -/
opaque Config.deviceCerts : List Byte

/-- What HKDF names its outputs by, which R315 and R316 leave open: the keys from the lead and from the follower (0, 1), the next
key of a direction (2); log entry 136. -/
opaque Config.keyInfo : Nat → List Byte

/-- The vendor's public key, whose digest stands in the fuses (R427), log entry 61. -/
opaque Config.bootKey : List Byte

/-- The device certificate as entry 0x2800.03 reads (R427), log entry 61. -/
opaque Config.deviceCert : List Byte

/-- What the body of a package of kind 2, 3, 4 or 1 holds (R430, which gives no body format, log entry 61): the trust anchors of
slots 0 … 3, the serial numbers revoked, the owner key, the new MINVER. -/
opaque Config.bodyAnchors : List Byte → List Machine.Certificate
@[inherit_doc Config.bodyAnchors]
opaque Config.bodySerials : List Byte → List Nat
@[inherit_doc Config.bodyAnchors]
opaque Config.bodyKey : List Byte → List Byte
@[inherit_doc Config.bodyAnchors]
opaque Config.bodyMinver : List Byte → Nat

/-- The core runtime a firmware image carries and its SHA-384 digest (R356, which gives the image no layout; log entry 61). -/
opaque Config.bodyRuntime : List Byte → List Byte
@[inherit_doc Config.bodyRuntime]
opaque Config.bodyRuntimeDigest : List Byte → List Byte

/-- The firmware image in slot A of a device as shipped, of which the manual gives nothing (log entry 61): its version, the bytes
signed, its digest, its signature, its body. -/
opaque Config.shippedVersion : Nat
@[inherit_doc Config.shippedVersion]
opaque Config.shippedSigned : List Byte
@[inherit_doc Config.shippedVersion]
opaque Config.shippedDigest : List Byte
@[inherit_doc Config.shippedVersion]
opaque Config.shippedSig : List Byte
@[inherit_doc Config.shippedVersion]
opaque Config.shippedBody : List Byte

/-- The certificate in trust anchor slot 0, the Hysavos root (R427), log entry 61. -/
opaque Config.rootAnchor : Machine.Certificate

/-- The silicon revision (0x1018.03 of R402) and the text of a firmware version (0x100A.00), of which the manual gives no value
and no form (log entry 63). -/
opaque Config.revision : BitVec 32
@[inherit_doc Config.revision]
opaque Config.versionText : Nat → List Byte

/-- The set of a cache share in which the lines of a quad lie (R160 names none), from the number of sets and the number of the
quad's first line: taken modulo the number of sets (log entry 119). -/
opaque Config.cacheSet : Nat → Nat → Nat

end Sys2Proof
end

