-- ==== Sys2Proof/Machine/Bits.lean ====
section
/-! DEFINITION. Bit fields, byte order and small arithmetic used by every chapter. A field [hi:lo] is
written as the manual writes it (R7); words are little-endian in memory (R20, R294). -/

namespace Sys2Proof.Machine

/-- Bits [hi:lo] of a natural number. -/
def nbits (n hi lo : Nat) : Nat := (n >>> lo) % 2 ^ (hi + 1 - lo)

/-- Field [hi:lo] of a register word. -/
def fld (w : Word) (hi lo : Nat) : Nat := nbits w.toNat hi lo

/-- Bit `i` of a register word. -/
def bit (w : Word) (i : Nat) : Bool := w.getLsbD i

/-- The mask of field [hi:lo]. -/
def fmask (hi lo : Nat) : Word := BitVec.ofNat 64 ((2 ^ (hi + 1 - lo) - 1) <<< lo)

/-- `v` at field [hi:lo], cut to the field's width. -/
def fput (hi lo v : Nat) : Word := BitVec.ofNat 64 ((v % 2 ^ (hi + 1 - lo)) <<< lo)

/-- The word with field [hi:lo] replaced by `v`. -/
def setFld (w : Word) (hi lo v : Nat) : Word := (w &&& ~~~(fmask hi lo)) ||| fput hi lo v

/-- The word with bit `i` set to `b`. -/
def setBit (w : Word) (i : Nat) (b : Bool) : Word := setFld w i i b.toNat

/-- Add to a counting field that saturates. -/
def satAdd (w : Word) (hi lo n : Nat) : Word :=
  setFld w hi lo (min (fld w hi lo + n) (2 ^ (hi + 1 - lo) - 1))

/-- Add to a counting field that wraps. -/
def wrapAdd (w : Word) (hi lo n : Nat) : Word := setFld w hi lo (fld w hi lo + n)

/-- The value of an `n`-bit two's complement field. -/
def sint (n v : Nat) : Int := if v % 2 ^ n < 2 ^ (n - 1) then (v % 2 ^ n : Nat) else ((v % 2 ^ n : Nat) : Int) - 2 ^ n

/-- The `n`-bit two's complement field of an integer. -/
def unint (n : Nat) (v : Int) : Nat := (v % (2 ^ n : Int)).toNat

/-- Clamp an integer. -/
def clampI (lo hi v : Int) : Int := max lo (min hi v)

/-- Clamp a natural number. -/
def clampN (lo hi v : Nat) : Nat := max lo (min hi v)

/-- The `n` low bytes of a number, lowest first. -/
def leBytes : Nat → Nat → List Byte
  | 0, _ => []
  | n + 1, v => BitVec.ofNat 8 v :: leBytes n (v / 256)

/-- The number a little-endian run of bytes spells. -/
def ofLe : List Byte → Nat
  | [] => 0
  | b :: r => b.toNat + 256 * ofLe r

/-- The number a big-endian run of bytes spells. -/
def ofBe (l : List Byte) : Nat := ofLe l.reverse

/-- A list cut or filled up to `n` elements. -/
def padTo {α : Type} (n : Nat) (d : α) (l : List α) : List α := (l ++ List.replicate n d).take n

/-- A list without repeats, first occurrences kept. -/
def nub {α : Type} [DecidableEq α] : List α → List α
  | [] => []
  | a :: r => a :: (nub r).filter (fun b => decide (b ≠ a))

/-- Quotient rounded up. -/
def ceilDiv (a b : Nat) : Nat := (a + b - 1) / b

/-- Serial-number comparison of 16-bit tickets: `t` is complete when DONE − t lies in 0 … 32,767 (R70). -/
def ticketDone (done t : Nat) : Bool := decide ((done + 65536 - t % 65536) % 65536 < 32768)

end Sys2Proof.Machine
end

