-- ==== Sys2Proof/Machine/HurdleTypes.lean ====
section
/-! DEFINITION. The parts of the state that belong to Hurdles, span trees and mailboxes (R262 … R291, R452). -/

namespace Sys2Proof.Machine

/-- What holds a Hurdle (R268). A core's task, software and DMA joins share one entry of the core. -/
inductive Holder where
  | task (c : CoreIx) | soft (c : CoreIx) | dma (c : CoreIx) (ch : Nat)
  | anchor (p : PartIx) | link (port : PortIx) (device : Nat)
  deriving DecidableEq, Repr

/-- Who waits at a bank (R266, R271): a core stalled in WAIT, a NOTIFY registration, the head of a queue. An
Anchor sees the releases of its START_H and VOTE_H without registering. -/
inductive WaitFor where
  | core (c : CoreIx) | note (c : CoreIx) | head (p : PartIx) (q : QueueIx)
  deriving DecidableEq, Repr

/-- A wait at a bank; `gen` is the generation g of the form with GV = 1. -/
structure Waiter where
  who : WaitFor
  gen : Option Nat
  deriving DecidableEq, Repr

/-- A Hurdle as its bank holds it: HRD_CFG, the fields of HRD_STATE, the flag, the holders, and the waits and
acquirers in order of arrival; on a spanning Hurdle the hub's part of R277 and R278. -/
structure Hurdle where
  cfg     : Word := 0
  state   : Nat := 0
  result  : Bool := false
  code    : Nat := 0
  orphan  : Bool := false
  gen     : Nat := 0
  count   : Nat := 0
  flag    : Bool := false
  holders : List Holder := []
  waits   : List Waiter := []
  acqs    : List (CoreIx × Nat) := []
  /-- the local flag has gone to the hub in this generation -/
  passed  : Bool := false
  /-- children whose arrival the hub has counted in this generation: port and device -/
  kids    : List (PortIx × Nat) := []
  kidFlag : Bool := false
  /-- this device's arrival has left toward the parent -/
  sent    : Bool := false
  /-- the root's decision of a generation, kept until the Hurdle is armed again: GEN, release with RESULT or failure -/
  decided : Option (Nat × Option Bool) := none
  deriving DecidableEq, Repr

/-- A mailbox channel (R279, R282): the eight words held, and the fields of MBX_CH. -/
structure Chan where
  words     : List Word := []
  /-- BIND as written; none while it is as after reset (R283) -/
  bind      : Option Nat := none
  refused   : Nat := 0
  last      : Nat := 0
  stale     : Bool := false
  discarded : Bool := false
  mask      : Bool := true
  db        : Bool := false
  full      : Bool := false
  deriving DecidableEq, Repr

end Sys2Proof.Machine
end

