-- ==== Sys2Proof/Machine/Table.lean ====
section
/-! DEFINITION. Sparse tables in one canonical form: a list of (number, value) pairs, numbers strictly
rising, and no entry that equals the table's default. -/

namespace Sys2Proof.Machine

/-- A sparse table: a number that is not listed holds the default of the table. -/
abbrev Tbl (α : Type) := List (Nat × α)

namespace Tbl

/-- The value at `k`, `d` where none is listed. -/
def get {α : Type} (d : α) : Tbl α → Nat → α
  | [], _ => d
  | (j, v) :: r, k => if j = k then v else get d r k

/-- Put `(k, v)` before the first larger number. -/
def insert {α : Type} : Tbl α → Nat → α → Tbl α
  | [], k, v => [(k, v)]
  | (j, w) :: r, k, v => if k < j then (k, v) :: (j, w) :: r else (j, w) :: insert r k v

/-- Drop what is listed at `k`. -/
def erase {α : Type} (t : Tbl α) (k : Nat) : Tbl α := t.filter (fun e => decide (e.1 ≠ k))

/-- Store `v` at `k`; storing the default removes the entry. -/
def set {α : Type} [DecidableEq α] (d : α) (t : Tbl α) (k : Nat) (v : α) : Tbl α :=
  if v = d then t.erase k else insert (t.erase k) k v

/-- Store what `f` makes of the value at `k`. -/
def modify {α : Type} [DecidableEq α] (d : α) (t : Tbl α) (k : Nat) (f : α → α) : Tbl α :=
  t.set d k (f (t.get d k))

/-- Keep the entries whose number satisfies `p`. -/
def keep {α : Type} (t : Tbl α) (p : Nat → Bool) : Tbl α := t.filter (fun e => p e.1)

/-- Numbers strictly rising. -/
def sorted {α : Type} : Tbl α → Bool
  | [] => true
  | (j, _) :: r => r.all (fun e => decide (j < e.1)) && sorted r

/-- The canonical form. -/
def wf {α : Type} [DecidableEq α] (d : α) (t : Tbl α) : Bool :=
  sorted t && t.all (fun e => decide (e.2 ≠ d))

end Tbl

end Sys2Proof.Machine
end

