-- ==== Sys2Proof/Machine/Memory.lean ====
section
/-! DEFINITION. Byte memory (R33, R34, R101) with the error state of its protected granules (R176 … R178):
64-bit words for local SRAM, 32-byte sectors for device memory. A byte that is not listed is unwritten:
it has no value, and each read of it is decided anew (R178). A granule listed in `bad` by its first address is uncorrectable;
its Bool is the POISON indication of R177. -/

namespace Sys2Proof.Machine

/-- Memory contents: written bytes in rising order of address, and uncorrectable granules. -/
structure Memory where
  cells : List Host.Cell := []
  bad   : Tbl (Option Bool) := []
  deriving DecidableEq, Repr

namespace Memory

/-- The byte a list of cells holds at `a`. -/
def lookup : List Host.Cell → Nat → Option Byte
  | [], _ => none
  | (j, b) :: r, a => if j = a then some b else lookup r a

/-- The byte listed at `a`; none where nothing has been written. -/
def cell (m : Memory) (a : Nat) : Option Byte := lookup m.cells a

/-- Store one byte. -/
def setCell (cs : List Host.Cell) (a : Nat) (b : Byte) : List Host.Cell := Tbl.insert (Tbl.erase cs a) a b

/-- Write a run of bytes from address `a` upward, touching no granule state. -/
def poke (m : Memory) (a : Nat) : List Byte → Memory
  | [] => m
  | b :: r => Memory.poke ⟨setCell m.cells a b, m.bad⟩ (a + 1) r

/-- The byte range a … a + n − 1 counts as unwritten again, and its granules are no longer uncorrectable. -/
def forget (g : Nat) (m : Memory) (a n : Nat) : Memory :=
  ⟨m.cells.filter (fun c => decide (c.1 < a ∨ a + n ≤ c.1)),
   m.bad.keep (fun k => decide (k + g ≤ a ∨ a + n ≤ k))⟩

/-- Uncorrectable state of the granule that starts at `k`: none where it is sound, else its POISON indication. -/
def badAt (m : Memory) (k : Nat) : Option Bool := m.bad.get none k

/-- Mark the granule that starts at `k` uncorrectable, with the POISON indication `p`, or sound. -/
def setBad (m : Memory) (k : Nat) (p : Option Bool) : Memory := ⟨m.cells, m.bad.set none k p⟩

/-- The canonical form: bytes strictly rising by address, granule marks in the table's form. -/
def wf (m : Memory) : Bool := Tbl.sorted m.cells && m.bad.wf none

/-- Whether every byte of the granule is written. -/
def fullGran (g : Nat) (m : Memory) (k : Nat) : Bool :=
  (List.range g).all (fun i => (m.cell (k * g + i)).isSome)

/-- The cells listed in a … a + n − 1. -/
def slice (m : Memory) (a n : Nat) : List Host.Cell :=
  m.cells.filter (fun c => decide (a ≤ c.1 ∧ c.1 < a + n))

/-- Copy the listed cells and granule marks of a … a + n − 1 from `src` to b … b + n − 1 of `m`
(both granule aligned); what `src` does not list becomes unwritten. -/
def copyRange (g : Nat) (m src : Memory) (a b n : Nat) : Memory :=
  let m := m.forget g b n
  let m : Memory := ⟨(src.slice a n).foldl (fun cs c => setCell cs (c.1 - a + b) c.2) m.cells, m.bad⟩
  (src.bad.filter (fun e => decide (a ≤ e.1 ∧ e.1 < a + n))).foldl
    (fun m e => m.setBad (e.1 - a + b) e.2) m

end Memory

end Sys2Proof.Machine
end

