-- ==== Sys2Proof/Machine/CoreTypes.lean ====
section
/-! DEFINITION. The parts of the state that belong to one core (R92 … R132, R58 … R91) and to its DMA channels
(R217 … R222). -/

namespace Sys2Proof.Machine

/-- A weight bank (R75): its format tag, none when empty; 32 rows of 128 raw elements; 128 scale bytes; the rows
that were read from an uncorrectable word (R88). -/
structure Bank where
  tag    : Option Nat := none
  rows   : List (List Nat) := []
  scales : List Nat := []
  bad    : List Nat := []
  badScales : List Nat := []
  deriving DecidableEq, Repr

/-- A tensor instruction in the queue, with the operands and CSRs it sampled at issue (R68, R116) and local SRAM
as it stood then (R78). -/
structure TensOp where
  tlw    : Bool
  ticket : Nat
  a      : Nat := 0
  scale  : Nat := 0
  acc    : Nat := 0
  m      : Nat := 1
  z      : Bool := false
  swap   : Bool := false
  ctl    : Word := 0
  astride : Nat := 0
  wstride : Nat := 0
  cstride : Nat := 0
  snap   : Memory := {}
  deriving DecidableEq, Repr

/-- The vector arithmetic of R121 by name. -/
inductive VecFn where
  | add | sub | mul | fma | min | max | abs | exp2 | log2 | rcp | sqrt | rsqrt | rsum | rmax
  deriving DecidableEq, Repr

/-- What a queued vector instruction does. -/
inductive VecAct where
  | arith (fn : VecFn) (vd vs1 vs2 : RegNum)
  | splat (vd : RegNum) (bits : Word32)
  | load (fmt : Nat) (vd : RegNum) (addr : Nat)
  | store (fmt : Nat) (vs : RegNum) (addr : Nat)
  | storeMx (fmt : Nat) (vs : RegNum) (addr scale : Nat)
  deriving DecidableEq, Repr

/-- A vector instruction in the queue (R120). -/
structure VecOp where
  ticket : Nat
  act    : VecAct
  ctl    : Word := 0
  /-- VEC_SEED as it stood at issue (R116) -/
  seed   : Nat := 0
  snap   : Memory := {}
  deriving DecidableEq, Repr

/-- The shares of local SRAM that cache read-only lines (R101, R109), and the fetch buffer of uncached code. -/
inductive Share where
  | instr | desc | const | l1 | buffer
  deriving DecidableEq, Repr

/-- A 128-byte line in a cache share, or in a cluster's read-only cache: its place there, the address space and virtual line
it is of. -/
structure CLine where
  share : Share := .l1
  slot  : Nat
  asid  : Nat := 0
  line  : Nat
  data  : List Byte
  deriving DecidableEq, Repr

/-- A read-only region a launch declared (R108). -/
structure Region where
  base   : Nat
  length : Nat
  cls    : Nat := 0
  urgent : Bool := false
  deriving DecidableEq, Repr

/-- The kind of a translated access (R190). -/
inductive Access where
  | fetch | load | store
  deriving DecidableEq, Repr

/-- What the control processor is stalled on (R451 and the rules it names). A stalled instruction has changed
nothing; `load` also keeps where the data goes. -/
inductive Stall where
  | none
  /-- waiting for a device-memory response (R99, R100): request number, destination, form (funct3, and 8 more for a 16-bit
  instruction), f register -/
  | load (id : Nat) (rd : RegNum) (form : Nat) (fp : Bool)
  /-- waiting for an AMO, LR or SC response -/
  | atomic (id : Nat) (rd : RegNum) (dbl : Bool)
  /-- waiting for a translation (R191) or a demand fault (R196) of this virtual address -/
  | xlate (va : Nat) (acc : Access)
  /-- waiting for the line of an instruction fetch (R109, R110): request number -/
  | fill (id : Nat)
  /-- waiting for a free read slot (R114) -/
  | slot
  | tensQueue | vecQueue
  | twait (t : Option Nat) | vwait (t : Option Nat)
  /-- VEXT waiting for a vector register (R121) -/
  | vext (vs : RegNum)
  /-- FENCE waiting for earlier stores -/
  | fence
  /-- HRD_OP ARRIVE waiting for earlier stores (R267): Hurdle, argument, destination register -/
  | arrive (h : HurdleIx) (arg : Nat) (rd : RegNum)
  /-- HRD_OP WAIT or ACQUIRE: Hurdle and destination register -/
  | hurdle (h : HurdleIx) (rd : RegNum)
  /-- a mailbox post or status read of another device: tag and destination register -/
  | remote (tag : Nat) (rd : RegNum)
  deriving DecidableEq, Repr

/-- A running task as the dispatcher assigned it (R210, R214): home partition and queue, address space, branch group,
its 64-byte descriptor, the buffer it recomputes, the handles it holds (R204), why an abort was requested (R216). -/
structure Task where
  part  : PartIx
  queue : QueueIx
  asid  : Nat
  group : Nat
  words : List Word
  recompute : Option Nat := .none
  held  : List Nat := []
  abort : Option Nat := .none
  /-- device time of that request -/
  abortAt : Nat := 0
  deriving DecidableEq, Repr

/-- The phase of a DMA channel (R217 … R221). -/
inductive DmaPhase where
  | idle | begin | running | halted | paused
  deriving DecidableEq, Repr

/-- One DMA channel of a core: what DMA_STATn shows and the chain it runs. -/
structure DmaCh where
  cur     : Nat := 0
  done    : Nat := 0
  status  : Nat := 0
  phase   : DmaPhase := .idle
  /-- the pending START, R221 -/
  pend    : Option Nat := .none
  /-- the descriptor being run, 8 words -/
  desc    : List Word := []
  /-- whether the descriptor's transfer has been made -/
  moved   : Bool := false
  /-- remote source lines asked for, by address (R113), and what has arrived: source address and bytes -/
  asked   : List Nat := []
  got     : List (Nat × List Byte) := []
  deriving DecidableEq, Repr

/-- One core. -/
structure Core where
  x : Tbl Word := []
  f : Tbl Word := []
  pc : Word := 0
  mach : Bool := true
  mstatus : Word := 0x6000
  mtvec : Word := 0
  mscratch : Word := 0
  mepc : Word := 0
  mcause : Word := 0
  mtval : Word := 0
  mie : Word := 0
  mtip : Bool := false
  fcsr : Nat := 0
  instret : Word := 0
  timecmp : Word := 0xFFFFFFFFFFFFFFFF
  trapSeq : Nat := 0
  sram : Memory := {}
  lcfg : Word := 0x00000FFC00000000
  regions : List Region := []
  /-- lines of the cache shares (R108, R109) -/
  lines : List CLine := []
  -- tensor unit
  tctl : Word := 0
  tastride : Word := 0
  twstride : Word := 0
  tcstride : Word := 0
  tstatus : Word := 0
  tdone : Nat := 0
  tissued : Nat := 0
  active : Bank := {}
  shadow : Bank := {}
  tqueue : List TensOp := []
  tunrep : List Nat := []
  -- vector unit
  v : Tbl (List Word32) := []
  vdep : Tbl (List Nat) := []
  vctl : Word := 0
  vstatus : Word := 0
  vseed : Nat := 1
  vdone : Nat := 0
  vissued : Nat := 0
  vqueue : List VecOp := []
  vunrep : List Nat := []
  -- DMA channels 0 … 3
  dma : Tbl DmaCh := []
  -- Hurdles, mailbox, dictionary
  hrdRes : Word := 0
  hrdCfgw : Word := 0
  events : List Word := []
  dictSt : Word := 0
  -- memory accesses
  resv : Option (Nat × Nat) := none
  stall : Stall := .none
  deferred : List (Nat × Nat) := []
  -- running task
  task : Option Task := none
  int17 : Bool := false
  rtStatus : Option Word := none
  endReq : Option Word := none
  submitRes : Word := 0
  sramFix : List (Nat × Nat) := []
  deriving DecidableEq, Repr

end Sys2Proof.Machine
end

