-- ==== Sys2Proof/Machine/ResTypes.lean ====
section
/-! DEFINITION. The parts of the state that belong to translation, paging, allocation and dispatch
(R186 … R222) and to the slices, their channels and the requests in flight (R133 … R185). -/

namespace Sys2Proof.Machine

/-- A translation cache entry (R191): the page, where its page entry lies, and the page entry as read. -/
structure TlbEntry where
  asid : Nat
  vpn  : Nat
  pteAt : Nat
  pte  : Word
  deriving DecidableEq, Repr

/-- Who needs a translation or a page: a control processor, a DMA channel. -/
inductive Requester where
  | core (c : CoreIx) | dma (c : CoreIx) (ch : Nat)
  deriving DecidableEq, Repr

/-- A table walk in progress (R187, R191): the level it reads next and that table's address. A walk that has found its page
in the far tier stands at level 3, with the address of the page entry, until the demand fault is made. -/
structure Walk where
  who   : Requester
  asid  : Nat
  va    : Nat
  acc   : Access
  level : Nat
  table : Nat
  deriving DecidableEq, Repr

/-- The invalidation in progress (R192): the requests and the DMA channels it waits for and whether a merged full one
follows. -/
structure Inval where
  waits  : List Nat := []
  chans  : List (CoreIx × Nat) := []
  merged : Bool := false
  deriving DecidableEq, Repr

/-- Why a page moves (R195, R198). -/
inductive MoveWhy where
  | demand | hint | hintPin | evict | victim
  deriving DecidableEq, Repr

/-- A page move in flight (R195): its direction and reason, the page, its entry's address and value before step 1, the
frame by its physical address ÷ 2 MiB. -/
structure Move where
  inward : Bool
  why    : MoveWhy
  asid   : Nat
  va     : Nat
  pteAt  : Nat
  old    : Word
  frame  : Nat
  deriving DecidableEq, Repr

/-- A demand fault waiting for its page (R196). -/
structure Demand where
  who  : Requester
  asid : Nat
  va   : Nat
  pteAt : Nat
  acc  : Access
  deriving DecidableEq, Repr

/-- The pager of a partition (R194 … R198). -/
structure Pager where
  /-- frame, as DRAM offset ÷ 2 MiB, ↦ address of the page entry that maps it, plus one -/
  frames : Tbl Nat := []
  hand   : Nat := 0
  moves  : List Move := []
  demands : List Demand := []
  /-- waiting hints: the 16-byte descriptor and the pages already handled -/
  hints  : List (Nat × Nat) := []
  deriving DecidableEq, Repr

/-- Where the head task of a queue stands (R213). -/
inductive Stage where
  | fresh | waiting | released (ok : Bool) | slots (n : Nat) | eligible
  deriving DecidableEq, Repr

/-- A dispatcher queue (R207, R213): head position of the ring and the head task's stage, descriptor, declared regions
and holds; `waitFor` names the recomputing buffer it waits for, `space` says that it waits for buffer space. -/
structure Queue where
  head  : Nat := 0
  stage : Stage := .fresh
  desc  : List Word := []
  regions : List Region := []
  held  : List Nat := []
  waitFor : Option Nat := none
  space : Bool := false
  deriving DecidableEq, Repr

/-- A recompute task (R205): the buffer it recomputes, the original consumer's queue, address space and group, its
descriptor and regions, its stage, how deep its chain is. -/
structure Recomp where
  handle : Nat
  part   : PartIx
  queue  : QueueIx
  asid   : Nat
  group  : Nat
  depth  : Nat
  desc   : List Word
  regions : List Region := []
  stage  : Stage := .slots 0
  held   : List Nat := []
  waitFor : Option Nat := none
  space  : Bool := false
  deriving DecidableEq, Repr

/-- A dispatcher (R204, R205, R214): the recompute list; the buffers, by handle, that a sweep drops once USERS reaches 0;
per group, the queue served last (64 × home + queue + 1). -/
structure Dispatcher where
  recomp : List Recomp := []
  drops  : List Nat := []
  last   : Tbl Nat := []
  deriving DecidableEq, Repr

/-- What a device-memory request asks for (R99, R100, R169). -/
inductive ReqOp where
  | read | write | lr | sc | amo (op : Nat)
  deriving DecidableEq, Repr

/-- Whether a request writes (R111, R230): stores, SC and AMOs. -/
def ReqOp.writes : ReqOp → Bool
  | .read | .lr => false
  | _ => true

/-- Whether the adders carry a request out (R168). -/
def ReqOp.atomic : ReqOp → Bool
  | .read | .write => false
  | _ => true

/-- How a request was answered. -/
inductive Resp where
  | ok (v : Nat) | ue | refused | error
  deriving DecidableEq, Repr

/-- Where a request stands: on its way to the slice, queued or held there, waiting for DRAM, at an adder, on its way to
another device, answered. -/
inductive ReqAt where
  | mesh | held | dram | adder | away | done (r : Resp)
  deriving DecidableEq, Repr

/-- Where a window led when an access through it was issued (R36 … R38): the far tier, another device. -/
inductive Aim where
  | far (off : Nat) | remote (dst addr : Nat) | none
  deriving DecidableEq, Repr

/-- A request of a control processor to device memory: `crit` marks a latency-critical read (R165), `fill` the fill of a
cache share or of the fetch buffer (R109). -/
structure Req where
  core : CoreIx
  op   : ReqOp
  va   : Nat
  addr : Nat
  size : Nat
  data : Nat := 0
  /-- order of arrival at its slice, from 1; 0 before -/
  seq  : Nat := 0
  aim  : Aim := .none
  crit : Bool := false
  fill : Option Share := none
  st   : ReqAt := .mesh
  deriving DecidableEq, Repr

/-- FMODE of a frame (R162). -/
inductive FMode where
  | one | pair | quad
  deriving DecidableEq, Repr

/-- A line of a slice's cache share (R160 … R164): the way of its frame within the set, the frame's mode, and what DRAM
holds of the line with its uncorrectable sectors. -/
structure CacheLine where
  way   : Nat := 0
  mode  : FMode := .one
  dirty : Bool := false
  old   : List Host.Cell := []
  oldBad : Tbl (Option Bool) := []
  deriving DecidableEq, Repr

/-- What can wait at a slice: a control processor's request, a DMA channel's transfer, the access at the front of the Host's, a
Partner's message by port and virtual channel, a table walk, a page move by its entry's address, an Anchor's unit of work. -/
inductive Token where
  | req (id : Nat) | dma (c : CoreIx) (n : Nat) | host | link (n : PortIx) (vc : Nat) | walk (r : Requester) | pager (pteAt : Nat)
  | anchor (p : PartIx)
  deriving DecidableEq, Repr

/-- Why it waits: for a grant (R165); held while a channel retrains, or to be resumed after (R151); a write held by a remap copy,
a later read held with one (R181). -/
inductive Hold where
  | grant | retrain | copyWr | copyRd
  deriving DecidableEq, Repr

/-- The source classes of R166, in the order of SLICE_WRR's fields. -/
inductive Class where
  | core | dma | pager | adder | host | link
  deriving DecidableEq, Repr

/-- One access that waits: the slices it needs, by 32 × partition + channel, its lines there, why it waits, its class and source
(R165, R166), the slices that are to answer it with error completions (R152). Sources are numbered cores, then DMA channels, then
optical ports; Host, pagers and Anchors within their own. -/
structure Waiting where
  tok    : Token
  slices : List Nat
  lines  : List Nat := []
  hold   : Hold := .grant
  crit   : Bool := false
  cls    : Class := .core
  src    : Nat := 0
  refused : List Nat := []
  deriving DecidableEq, Repr

/-- The scheduler of a slice (R165, R166): latency-critical grants in a row with bulk waiting, lines left to each class in the
round, the weights of the round, the source served last in each class plus one. -/
structure Arb where
  run  : Nat := 0
  left : Tbl Nat := []
  last : Tbl Nat := []
  deriving DecidableEq, Repr

/-- A slice with its channel (R149 … R152, R165 … R167, R181, R184). -/
structure Slice where
  /-- lines in the write-back buffer, oldest first; the source whose fill was served last from it, plus one -/
  wb      : List Nat := []
  wbLast  : Nat := 0
  arb     : Arb := {}
  /-- remap copy in progress: entry and line address; further candidates -/
  copying : Option (Nat × Nat) := none
  cands   : List Nat := []
  /-- lines whose sectors showed a corrected error and were rewritten; lines rewritten whole after an uncorrectable one -/
  ceSeen  : List Nat := []
  ueSeen  : List Nat := []
  /-- retrain of the channel: attempt 1 … 3 while one runs, when the first request was held plus one, accepted requests to be
  reissued in order (R149) -/
  attempt : Nat := 0
  heldAt  : Nat := 0
  reissue : List Nat := []
  /-- reference via lines, 0 and 1, that failed their last test (R140) -/
  refBad  : List Nat := []
  /-- by 16 × layer + bank: refreshes deferred, the time one last fell due (R150) -/
  deferral : Tbl Nat := []
  dueAt   : Tbl Nat := []
  /-- where the scrubber stands in its part of the Lap -/
  scrubAt : Nat := 0
  deriving DecidableEq, Repr

/-- The Lap of a partition (R184, R185). -/
structure Lap where
  start : Option Nat := none
  ce    : Nat := 0
  ue    : Nat := 0
  slicesDone : List Nat := []
  overdue : Bool := false
  deriving DecidableEq, Repr

/-- A coupling link (R138 … R146): on its vias, spare lines in use, suspect, its confirm test failed so that a retrain moves
it, via lines that failed the last test, via path lost, device times of failed beats within the last millisecond; by lane, the
last 8 beats in order, and the lanes on which a failed beat is awaited again. -/
structure Coupling where
  onVias : Bool := false
  spares : Nat := 0
  suspect : Bool := false
  moves  : Bool := false
  failing : List Nat := []
  lost : Bool := false
  failTimes : List Nat := []
  sent   : Tbl (List Nat) := []
  again  : List Nat := []
  deriving DecidableEq, Repr

end Sys2Proof.Machine
end

