-- ==== Sys2Proof/Machine/LinkTypes.lean ====
section
/-! DEFINITION. The parts of the state that belong to the optical ports (R292 … R329) and to the Anchors
(R227 … R261). -/

namespace Sys2Proof.Machine

/-- A message by the fields of its transaction header (R296) with its data bytes. -/
structure Msg where
  src    : Nat
  dst    : Nat
  op     : Nat
  status : Nat := 0
  tag    : Nat := 0
  param  : Nat := 0
  len    : Nat := 0
  addr   : Nat := 0
  data   : List Byte := []
  deriving DecidableEq, Repr

/-- The form of a flit (R294). -/
inductive FlitKind where
  | header | data | idle | reserved
  deriving DecidableEq, Repr

/-- A flit in clear: the fields of its link header (R295), the transaction header of a header flit, its data. In a port's
queues a data flit keeps the header of its message too. -/
structure Flit where
  seq   : Nat := 0
  ack   : Nat := 0
  nak   : Bool := false
  vc    : Nat := 0
  kind  : FlitKind := .idle
  lastf : Bool := false
  kph   : Bool := false
  bcum  : Nat := 0
  bvc   : Nat := 0
  trans : Option Msg := none
  data  : List Byte := []
  deriving DecidableEq, Repr

/-- A message being sent by a port: its virtual channel, its source (a partition 0 … 7, the hub 8, an ingress
port 16 + n), the flits still to send; `new` until its first flit leaves. -/
structure TxMsg where
  vc    : Nat
  src   : Nat
  msg   : Msg
  flits : List Flit
  deriving DecidableEq, Repr

/-- A message delivered by a port, the virtual channel it came on, the flits of the receive buffer it holds and when its first
one arrived, in ns. -/
structure RxMsg where
  vc    : Nat
  msg   : Msg
  flits : Nat
  came  : Nat := 0
  deriving DecidableEq, Repr

/-- The steps of R315 a port has made. -/
inductive AuthStep where
  | none | hello | cert | verify | finished
  deriving DecidableEq, Repr

/-- How a flit reached the receiver (R293, R301, R316): the symbols in error of the codewords that carry it, bits of its 256 bytes
that stay flipped after FEC, whether it was sealed under the key and counter this end expects. -/
structure FlitCheck where
  symbols : Nat := 0
  flips   : List Nat := []
  keyOk   : Bool := true
  deriving DecidableEq, Repr

/-- What the slow channel and HELLO carry (R310, R315). -/
structure Hello where
  serial   : Word
  device   : Nat
  leadpref : Bool
  /-- 48 random bytes and the ephemeral public key -/
  rand     : List Byte := []
  key      : List Byte := []
  deriving DecidableEq, Repr

/-- A CERT message (R315, R429): its bytes, the device certificate and its intermediates, the trust anchor slot that issued the
last. -/
structure Cert where
  certs  : List Certificate
  anchor : Nat
  der    : List Byte := []
  deriving DecidableEq, Repr

/-- A handshake under way (R315): this end's ephemeral private key and signature, the Partner's public key and certificates, the
messages so far, when HELLO came. -/
structure Handshake where
  secret : Nat := 0
  sig    : List Byte := []
  key    : List Byte := []
  cert   : Cert := { certs := [], anchor := 0 }
  heard  : List Byte := []
  since  : Nat := 0
  deriving DecidableEq, Repr

/-- One optical port: what stands behind its registers. -/
structure Port where
  seqTx   : Nat := 0
  ackRx   : Nat := 4095
  nak     : Bool := false
  /-- a flit is missing: later ones are discarded until it arrives (R301) -/
  await   : Bool := false
  replay  : List Flit := []
  /-- flits of the replay buffer still to send again -/
  resend  : List Flit := []
  replaysRow : Nat := 0
  batons  : Tbl Nat := []
  bcumIn  : Tbl Nat := []
  bcumOut : Tbl Nat := []
  bvc     : Nat := 0
  txq     : List TxMsg := []
  lastSrc : Tbl Nat := []
  redNext : Bool := false
  /-- messages open on a virtual channel, with the flits received -/
  open'   : Tbl (Option RxMsg) := []
  rx      : List RxMsg := []
  /-- place in the order of ports waiting for a turn, none when not waiting -/
  turn    : Option Nat := none
  holdsTurn : Bool := false
  fails   : Nat := 0
  serial  : Word := 0
  peerDev : Nat := 0xFFFF
  auth    : AuthStep := .none
  /-- serial numbers of the Partner's certificate chain (R433) -/
  chain   : List Nat := []
  hs      : Handshake := {}
  /-- AES-256 key and salt of each direction, 36 bytes (R315, R316) -/
  txKey   : List Byte := []
  rxKey   : List Byte := []
  rxCtr   : Nat := 0
  /-- a KEY_UPDATE of this end is queued (R316) -/
  updating : Bool := false
  /-- flits to be sent again after a retrain that take a Baton of the new advertisement, by SEQ (R303, R304) -/
  unpaid  : List Nat := []
  /-- flits as sent, of the pair of codewords under way (R293) -/
  pair    : List (List Byte) := []
  authFails : List Nat := []
  protoTimes : List Nat := []
  /-- an earlier training reached UP: SEQ may be resumed under R312 -/
  known   : Bool := false
  txCtr   : Nat := 0
  kphTx   : Bool := false
  kphRx   : Bool := false
  swapOut : Bool := false
  calib   : Bool := false
  retrainAsk : Bool := false
  timeT1  : Nat := 0
  timeT2  : Nat := 0
  /-- R324: level of the token bucket, negative while it owes, and when it was taken, in ns; Batons withheld while it is empty -/
  bucket  : Int := 65536
  bucketAt : Nat := 0
  owed    : Tbl Nat := []
  /-- the loopback test passed, retries every 10 s (R313) -/
  downOk  : Bool := false
  looping : Bool := false
  dictMs  : Nat := 0
  dictN   : Nat := 0
  deriving DecidableEq, Repr

/-- Who waits for a remote response (R299). -/
inductive RemoteWho where
  | core (req : Nat)
  /-- DMA channel: the source address, in its launch, of the data it reads; none for writes and adds -/
  | dma (c : CoreIx) (ch : Nat) (put : Option Nat)
  | mbx (c : CoreIx) (rd : RegNum) (stat : Bool)
  /-- a BAR2 access; of what a read brings, bytes lo … lo + len − 1 were asked for -/
  | bar2 (fn : Nat) (read : Bool) (lo len : Nat)
  /-- its function has been reset: the completion is discarded (R421) -/
  | gone (fn : Nat)
  deriving DecidableEq, Repr

/-- An outstanding remote request (R325): its message, the address its requester issued, and the port it left through; none
while it is held at its source (R321, R325); whether the egress for its destination has changed since it left. -/
structure Remote where
  who  : RemoteWho
  msg  : Msg
  issued : Nat := 0
  via  : Option PortIx := none
  src  : Nat := 8
  moved : Bool := false
  deriving DecidableEq, Repr

/-- An Anchor: what stands behind its registers (R228, R252). -/
structure Anchor where
  step   : Nat := 0
  t      : Nat := 0
  lsExp  : Int := 0
  hp     : List Word := []
  armed  : Bool := false
  folded : List Nat := []
  /-- the entries have become active (step 3 of R228) -/
  ready  : Bool := false
  /-- g and u of elements of matrix rules, FP32, by 2^28 × rule + element -/
  g      : Tbl Word32 := []
  u      : Tbl Word32 := []
  /-- sum of squares of u, FP32, by rule -/
  sumsq  : Tbl Word32 := []
  voted  : Bool := false
  /-- outcome of VOTE_H not yet acted on: release with RESULT, or failure -/
  outcome : Option (Option Bool) := none
  /-- releases of START_H not yet acted on -/
  trigs  : Nat := 0
  deriving DecidableEq, Repr

end Sys2Proof.Machine
end

