-- ==== Sys2Proof/Machine/DictTypes.lean ====
section
/-! DEFINITION. The parts of the state that belong to the object dictionary, CAN FD, the change journal
(R387 … R410), the far tier, the Vault (R411 … R434) and the Starter (R353 … R369). -/

namespace Sys2Proof.Machine

/-- A journal entry (R407). -/
structure JEntry where
  time   : Word
  origin : Nat
  index  : Nat
  sub    : Nat
  result : Nat
  old    : Word
  new    : Word
  deriving DecidableEq, Repr

/-- A block of journal entries in flash (R409): the sequence of its first entry, the entries, H of its last one. -/
structure JBlock where
  first   : Nat
  entries : List JEntry
  hash    : List Byte
  deriving DecidableEq, Repr

/-- The change journal (R408 … R410): sequence of the next entry, RAM entries (oldest first), flash blocks (oldest
first), entries below `persisted` are in flash, entries dropped, H of the entry before the oldest one in RAM (none before
the first entry of all). -/
structure Journal where
  head  : Nat := 0
  ram   : List JEntry := []
  flash : List JBlock := []
  persisted : Nat := 0
  lost  : Nat := 0
  /-- entries dropped since the last gap entry: first sequence and number -/
  gap   : Option (Nat × Nat) := none
  base  : List Byte := []
  deriving DecidableEq, Repr

/-- Where a dictionary access comes from (R388, R403). -/
inductive DictOrigin where
  | can (node : Nat) | host | firmware | core (c : CoreIx) | partner (n : PortIx)
  deriving DecidableEq, Repr

/-- A segmented USDO transfer (R399). -/
structure Usdo where
  client : Nat
  index  : Nat
  sub    : Nat
  upload : Bool
  data   : List Byte
  size   : Nat
  deriving DecidableEq, Repr

/-- NMT states (R400). -/
inductive Nmt where
  | silent | preop | oper | stopped
  deriving DecidableEq, Repr

/-- A queued EMCY message (R340): error code and the five manufacturer bytes. -/
structure Emcy where
  code  : Nat
  bytes : List Nat
  deriving DecidableEq, Repr

/-- What a CAN FD frame of the device carries (R399). -/
inductive Frame where
  | boot | heartbeat (state : Nat) | emcy (cob code reg : Nat) (bytes : List Nat)
  | usdo (client : Nat) (data : List Byte) (size : Nat) | usdoAbort (client : Nat) (code : Nat)
  | tpdo (j cob : Nat) (data : List Byte)
  deriving DecidableEq, Repr

/-- What has left the device. -/
inductive Output where
  | msix (fn vector addrLo : Nat) (addr data : Word)
  | can (f : Frame)
  | flit (n : PortIx) (f : Flit) (ctr : Nat)
  /-- two codewords of a pair, dealt to the eight wavelengths (R293) -/
  | codewords (n : PortIx) (first second : List (List Nat))
  /-- the slow channel at a first training: serial, DEVID, LEADPREF (R310) -/
  | slow (n : PortIx) (serial : Word) (device : Nat) (leadpref : Bool)
  /-- a message of the handshake by its place in R315's order -/
  | handshake (n : PortIx) (order : Nat) (data : List Byte)
  /-- the sizes of this end's receive buffer: request, response, reduction, management (R303) -/
  | advert (n : PortIx) (req rsp red mgmt : Nat)
  | pcie (fn : Nat) (data : List Byte) (poisoned : Bool)
  | abort (fn : Nat) (off : Nat)
  | advisory (fn : Nat) (off : Nat)
  | read (fn : Nat) (off : Nat) (v : Word)
  | vid (rail vset : Nat)
  | cxl (port exp : Nat) (dec : Nat)
  /-- the answer of a dictionary access that leaves neither on CAN, nor in a mailbox, register or flit: abort code, value -/
  | dict (d : DictOrigin) (abort : Nat) (data : List Byte)
  deriving DecidableEq, Repr

/-- A host access that waits for earlier ones (R37, R322, R416): a BAR2 read or posted write at its physical address, a write
of MAP_FARWIN, a write of LINK_SLOT. -/
inductive HostOp where
  | read (a len : Nat) | write (a : Nat) (data : List Byte) (poisoned : Bool)
  /-- a write of MAP_FARWIN, and the requests through the window that were issued before it (R37) -/
  | farwin (v : Word) (ids : List Nat)
  /-- a write of LINK_SLOT, and the requests and remote requests through the slot that were issued before it (R322) -/
  | slot (i : Fin 4096) (v : Word) (ids tags : List Nat)
  deriving DecidableEq, Repr

/-- A package (R430): its kind, signer and version, the 64 bytes its signature covers, its digest, the signature, the body. -/
structure Staged where
  kind    : Nat
  signer  : Nat
  version : Nat
  signed  : List Byte
  digest  : List Byte
  sig     : List Byte
  body    : List Byte
  deriving DecidableEq, Repr

/-- The firmware image the device is shipped with. -/
def shippedImage : Staged :=
  { kind := 1, signer := 0, version := Config.shippedVersion, signed := Config.shippedSigned, digest := Config.shippedDigest
    sig := Config.shippedSig, body := Config.shippedBody }

/-- The Vault (R427); trust anchors of slots 1 … 3; the firmware image in each slot of the package flash (R356), none where the slot
holds no whole one. -/
structure Vault where
  anchors : List Certificate := []
  revoked : List Nat := []
  revVer  : Nat := 0
  owner   : Option (List Byte) := none
  minver  : Nat := 0
  slotA   : Option Staged := some shippedImage
  slotB   : Option Staged := none
  deriving DecidableEq, Repr

/-- A sequence the Starter runs, one step of its table at a time (R354, R362, R363, R366). -/
inductive SeqKind where
  | cold | warm | partition (p : PartIx) | cluster (k : ClusterIx) | core (c : CoreIx)
  deriving DecidableEq, Repr

end Sys2Proof.Machine
end

