-- ==== Sys2Proof/Syntax.lean ====
section
/-! DEFINITION. The commands the block takes (the rows of the opcode table) and the shapes of their operands. -/

namespace Sys2Proof

open Sys2Proof.Machine

/-- Who makes a register access (R6, R414): Host function 0, Host function 1, Firmware. -/
inductive Origin where
  | fn0 | fn1 | firmware
  deriving DecidableEq, Repr

/-- Who orders a core reset (R360): a command, or the dispatcher under R216. -/
inductive ResetBy where
  | cmd (o : Origin) | dispatcher
  deriving DecidableEq, Repr

/-- What has changed in the stored bits that one access reads (R164, R176): nothing; symbols of the granule, by number,
XORed with masks (bytes 0 … 7 of an SRAM word and its check byte 8; data bytes 0 … 31 of a DRAM sector and its check symbols
32 … 34); bits of the frame that holds the line, unseen by SECDED; bits 0 … 71 of a remap entry of the channel. -/
inductive Upset where
  | none | hit (masks : List (Nat × Byte)) | frame (flips : List Nat) | table (i : Fin 8) (flips : List Nat)
  deriving DecidableEq, Repr

/-- How a request finds its slice (R165, R176): whether it is busy with others, and what has changed in the word or sector it reads. -/
structure SliceTurn where
  busy  : Bool := false
  upset : Upset := .none
  deriving DecidableEq, Repr

/-- The lookup that missed (R191): the access, and an entry of the translation cache in which it met a changed word (R345). -/
structure Lookup where
  acc  : Access
  hurt : Option (Fin 256 × Upset) := none
  deriving DecidableEq, Repr

/-- What the exchange of R54 and R328 says of the path through a port: the hops to the master it leads to, 0xFFFF where it leads to
none, and that master's serial number. -/
structure TimePath where
  hops   : Nat
  master : Word
  deriving DecidableEq, Repr

/-- The outcome of one coupling-link test (R144, R145): the link's unit number, failing coils, data via lines and reference
lines (0 and 1) at the operating point, GUARD bits 20 … 17, eye height and width of the worst lane. -/
structure LinkTest where
  unit  : Nat
  coils : List Nat := []
  vias  : List Nat := []
  refs  : List Nat := []
  guard : Nat := 0
  eyeH  : Nat := 0
  eyeW  : Nat := 0
  deriving DecidableEq, Repr

/-- What a bring-up finds (R144, R354, R358, R363): core units and clusters of the partition that fail, per
cluster the byte positions damaged in the copies of the core runtime sent to all and to it alone, link tests that are not clean, the
measured V0 in mV. -/
structure BringUp where
  cores    : List Nat := []
  clusters : List Nat := []
  copies   : List (Nat × List Nat × List Nat) := []
  links    : List LinkTest := []
  v0       : Nat := 0
  deriving DecidableEq, Repr

/-- What enumeration of a CXL port finds (R423). -/
structure FarEnv where
  up      : Bool := false
  flit256 : Bool := false
  rate    : Nat := 0
  present : Nat := 0
  cap0    : Nat := 0
  cap1    : Nat := 0
  deriving DecidableEq, Repr

/-- What a boot finds (R354, R356, R438): the straps, whether the flash returns each firmware slot as it was written, the bring-up of each
partition, each CXL port, flash offsets whose stored copy is damaged. -/
structure BootEnv where
  nodeId : Nat := 0
  split0 : Bool := false
  split1 : Bool := false
  slotAok : Bool := true
  slotBok : Bool := true
  parts  : List BringUp := []
  far0   : FarEnv := {}
  far1   : FarEnv := {}
  flashBad : List Nat := []
  deriving DecidableEq, Repr

/-- Who submits a task or a hint (R198, R208): a window write of its last word, or a core's control area. -/
inductive Submitter where
  | window (o : Origin) (last : Word) | core (c : CoreIx)
  deriving DecidableEq, Repr

/-- A task at the head of a queue, or an entry of a recompute list (R205, R213). -/
inductive HeadRef where
  | queue (p : PartIx) (q : QueueIx) | recomp (p : PartIx) (i : Nat)
  deriving DecidableEq, Repr

/-- Where a START of an Anchor comes from (R260). -/
inductive StartBy where
  | cmd (o : Origin) | release
  deriving DecidableEq, Repr

/-- Who performs a Hurdle operation (R271, R273): a core through HRD_OP with a destination register, or the Host
or Firmware through HRD_HOP. -/
inductive HAgent where
  | core (c : CoreIx) (rd : RegNum) | hop (o : Origin)
  deriving DecidableEq, Repr

/-- One Pacer interval's inputs (R373, R43): per partition the activity counts 0x05 … 0x0C (those of the arrays the model
counts itself) and the mean step rate of its issuing cores in MHz (0 when none issued); the estimates in W of the rails that are
not limited; partitions whose activity of VIO, VSTACK … is included there. -/
structure Activity where
  counts : List (List Nat)
  rates  : List Nat
  rails  : List Nat
  deriving DecidableEq, Repr

/-- A temperature input (R383), in 1/16 °C. -/
inductive Sense where
  | temp (t : Int) | opened | short
  deriving DecidableEq, Repr

/-- A place of R337 other than a port: a mesh edge with its direction, a memory channel. -/
inductive SatPlace where
  | edge (e : Fin 10) (up : Bool) | channel (p : PartIx) (ch : ChanIx)
  deriving DecidableEq, Repr

/-- The commands of the block, one constructor per row of the opcode table. A row's operands are what its
governing rule needs; a fact of the outside world (a reading, a test outcome, an upset) is an operand. -/
inductive Instr where
  /-- POWER_GOOD, R354 -/
  | powerGood (e : BootEnv)
  /-- POWER_FAIL, R442 -/
  | powerFail
  /-- RESET_N_ASSERT, R367 -/
  | resetNAssert (e : BootEnv)
  /-- CORE_RESET, R362 -/
  | coreReset (r : ResetBy) (c : CoreIx)
  /-- CLUSTER_RESET, R362 -/
  | clusterReset (o : Origin) (k : ClusterIx) (b : BringUp)
  /-- PARTITION_RESET, R363 -/
  | partitionReset (o : Origin) (p : PartIx) (b : BringUp)
  /-- WARM_DEVICE_RESET, R366 -/
  | warmDeviceReset (o : Origin) (e : BootEnv)
  /-- STRT_CMD_BADCMD, R369 -/
  | strtCmdBadcmd (o : Origin) (v : Word)
  /-- FUNCTION_LEVEL_RESET, R421 -/
  | functionLevelReset (fn : Fin 2)
  /-- PCIE_FUNDAMENTAL_RESET, R360 -/
  | pcieFundamentalReset
  /-- REF_LOSS_SWITCH, R52 -/
  | refLossSwitch
  /-- REF_RETURN, R53 -/
  | refReturn (diff : Int)
  /-- TIME_EXCHANGE, R54 -/
  | timeExchange
  /-- TIME_FLIT_RECEIVE, R328 -/
  | timeFlitReceive (n : PortIx) (path : TimePath)
  /-- PARENT_LOST, R56 -/
  | parentLost (path : Option (PortIx × Word))
  /-- TIMING_RATE_READ, R43 -/
  | timingRateRead (o : Origin) (p : PartIx)
  /-- REGISTER_WRITE, R8 -/
  | registerWrite (o : Origin) (off : Nat) (v : Word)
  /-- MAP_FARWIN_WRITE, R37 -/
  | mapFarwinWrite (o : Origin) (v : Word)
  /-- HOST_B2MAP_WRITE, R415 -/
  | hostB2mapWrite (o : Origin) (s : Fin 16) (v : Word)
  /-- TMMA, R61 -/
  | tmma (c : CoreIx) (rd : RegNum) (rs1 : RegNum) (rs2 : RegNum) (rs3 : RegNum) (z : Bool) (w : Bool) (funct2 : Fin 4) (f3 : Bool)
  /-- TLW, R73 -/
  | tlw (c : CoreIx) (rd : RegNum) (rs1 : RegNum) (rs2 : RegNum)
  /-- TWAIT, R73 -/
  | twait (c : CoreIx) (rd : RegNum) (rs1 : RegNum) (rs2 : RegNum)
  /-- TPOLL, R73 -/
  | tpoll (c : CoreIx) (rd : RegNum) (rs1 : RegNum) (rs2 : RegNum)
  /-- TFENCE, R73 -/
  | tfence (c : CoreIx) (rd : RegNum) (rs1 : RegNum) (rs2 : RegNum)
  /-- TENSOR_TICKET_COMPLETE, R80 -/
  | tensorTicketComplete (c : CoreIx)
  /-- VADD, R121 -/
  | vadd (c : CoreIx) (rd : RegNum) (rs1 : RegNum) (rs2 : RegNum)
  /-- VSUB, R121 -/
  | vsub (c : CoreIx) (rd : RegNum) (rs1 : RegNum) (rs2 : RegNum)
  /-- VMUL, R121 -/
  | vmul (c : CoreIx) (rd : RegNum) (rs1 : RegNum) (rs2 : RegNum)
  /-- VFMA, R121 -/
  | vfma (c : CoreIx) (rd : RegNum) (rs1 : RegNum) (rs2 : RegNum)
  /-- VMIN, R121 -/
  | vmin (c : CoreIx) (rd : RegNum) (rs1 : RegNum) (rs2 : RegNum)
  /-- VMAX, R121 -/
  | vmax (c : CoreIx) (rd : RegNum) (rs1 : RegNum) (rs2 : RegNum)
  /-- VABS, R121 -/
  | vabs (c : CoreIx) (rd : RegNum) (rs1 : RegNum) (rs2 : RegNum)
  /-- VEXP2, R124 -/
  | vexp2 (c : CoreIx) (rd : RegNum) (rs1 : RegNum) (rs2 : RegNum)
  /-- VLOG2, R124 -/
  | vlog2 (c : CoreIx) (rd : RegNum) (rs1 : RegNum) (rs2 : RegNum)
  /-- VRCP, R124 -/
  | vrcp (c : CoreIx) (rd : RegNum) (rs1 : RegNum) (rs2 : RegNum)
  /-- VSQRT, R124 -/
  | vsqrt (c : CoreIx) (rd : RegNum) (rs1 : RegNum) (rs2 : RegNum)
  /-- VRSQRT, R124 -/
  | vrsqrt (c : CoreIx) (rd : RegNum) (rs1 : RegNum) (rs2 : RegNum)
  /-- VRSUM, R125 -/
  | vrsum (c : CoreIx) (rd : RegNum) (rs1 : RegNum) (rs2 : RegNum)
  /-- VRMAX, R121 -/
  | vrmax (c : CoreIx) (rd : RegNum) (rs1 : RegNum) (rs2 : RegNum)
  /-- VMVS, R121 -/
  | vmvs (c : CoreIx) (rd : RegNum) (rs1 : RegNum) (rs2 : RegNum)
  /-- VEXT, R121 -/
  | vext (c : CoreIx) (rd : RegNum) (rs1 : RegNum) (rs2 : RegNum)
  /-- VWAIT, R121 -/
  | vwait (c : CoreIx) (rd : RegNum) (rs1 : RegNum) (rs2 : RegNum)
  /-- VPOLL, R121 -/
  | vpoll (c : CoreIx) (rd : RegNum) (rs1 : RegNum) (rs2 : RegNum)
  /-- VFENCE, R121 -/
  | vfence (c : CoreIx) (rd : RegNum) (rs1 : RegNum) (rs2 : RegNum)
  /-- VLD, R122 -/
  | vld (c : CoreIx) (fmt : Fin 32) (vreg : RegNum) (rs1 : RegNum) (rs2 : RegNum)
  /-- VST, R126 -/
  | vst (c : CoreIx) (fmt : Fin 32) (vreg : RegNum) (rs1 : RegNum) (rs2 : RegNum)
  /-- VSTX, R127 -/
  | vstx (c : CoreIx) (fmt : Fin 32) (vreg : RegNum) (rs1 : RegNum) (rs2 : RegNum)
  /-- VECTOR_TICKET_COMPLETE, R120 -/
  | vectorTicketComplete (c : CoreIx)
  /-- VEC_SEED_WRITE, R119 -/
  | vecSeedWrite (c : CoreIx) (v : Word)
  /-- INSTRUCTION, R92 -/
  | instruction (c : CoreIx) (w : Word32)
  /-- LOAD, R99 -/
  | load (c : CoreIx) (w : Word32) (u : Upset)
  /-- STORE, R99 -/
  | store (c : CoreIx) (w : Word32)
  /-- AMO, R100 -/
  | amo (c : CoreIx) (w : Word32) (u : Upset)
  /-- LR, R100 -/
  | lr (c : CoreIx) (w : Word32) (u : Upset)
  /-- SC, R100 -/
  | sc (c : CoreIx) (w : Word32)
  /-- RESERVATION_TIMEOUT, R100 -/
  | reservationTimeout (c : CoreIx)
  /-- FENCE, R99 -/
  | fence (c : CoreIx) (w : Word32)
  /-- FENCE_I, R110 -/
  | fenceI (c : CoreIx) (w : Word32)
  /-- ENVIRONMENT_CALL, R450 -/
  | environmentCall (c : CoreIx)
  /-- MEMORY_RESPONSE, R99 -/
  | memoryResponse (id : Nat)
  /-- INTERRUPT_TAKE, R131 -/
  | interruptTake (c : CoreIx)
  /-- TIMECMP_MATCH, R131 -/
  | timecmpMatch (c : CoreIx)
  /-- TASK_ASSIGN, R214 -/
  | taskAssign (c : CoreIx)
  /-- TASK_SUBMIT, R208 -/
  | taskSubmit (s : Submitter) (p : PartIx) (q : QueueIx)
  /-- BUFFER_SLOT_RESOLVE, R204 -/
  | bufferSlotResolve (h : HeadRef)
  /-- ALLOC_WAIT_TIMEOUT, R203 -/
  | allocWaitTimeout (h : HeadRef)
  /-- TASK_END_STORE, R209 -/
  | taskEndStore (c : CoreIx) (v : Word)
  /-- TASK_END_EFFECTIVE, R215 -/
  | taskEndEffective (c : CoreIx)
  /-- FWD_END_SWEEP, R204 -/
  | fwdEndSweep (o : Origin) (p : PartIx)
  /-- STEP_END_SWEEP, R204 -/
  | stepEndSweep (o : Origin) (p : PartIx)
  /-- QUEUE_RESUME, R215 -/
  | queueResume (o : Origin) (p : PartIx) (q : QueueIx)
  /-- QUEUE_FLUSH, R216 -/
  | queueFlush (o : Origin) (p : PartIx) (q : QueueIx)
  /-- QUEUE_ABORT, R216 -/
  | queueAbort (o : Origin) (p : PartIx) (q : QueueIx)
  /-- ABORT_TIMEOUT, R216 -/
  | abortTimeout (c : CoreIx)
  /-- QUEUE_CONFIG_WRITE, R207 -/
  | queueConfigWrite (o : Origin) (p : PartIx) (q : QueueIx) (v : Word)
  /-- RES_ROOT_WRITE, R187 -/
  | resRootWrite (o : Origin) (a : Fin 16) (v : Word)
  /-- ALLOCATOR_ENABLE, R200 -/
  | allocatorEnable (o : Origin) (p : PartIx) (v : Word)
  /-- ALLOCATOR_CONFIG_WRITE, R201 -/
  | allocatorConfigWrite (o : Origin) (p : PartIx) (i : Option (Fin 4)) (v : Word)
  /-- PAGER_POOL_WRITE, R194 -/
  | pagerPoolWrite (o : Origin) (p : PartIx) (v : Word)
  /-- TRANSLATION_MISS, R191 -/
  | translationMiss (r : Requester) (va : Nat) (look : Lookup)
  /-- TABLE_WALK_RESPONSE, R187 -/
  | tableWalkResponse (k : ClusterIx) (u : Upset)
  /-- INVALIDATE, R192 -/
  | invalidate (o : Origin) (v : Word)
  /-- INVALIDATE_DONE, R192 -/
  | invalidateDone
  /-- DEMAND_FAULT, R196 -/
  | demandFault (r : Requester) (va : Nat) (acc : Access)
  /-- PAGE_MOVE_START, R195 -/
  | pageMoveStart (p : PartIx)
  /-- PAGE_COPY_DONE, R195 -/
  | pageCopyDone (p : PartIx) (i : Fin 2) (farErr : Bool)
  /-- HINT_SUBMIT, R198 -/
  | hintSubmit (s : Submitter) (p : PartIx)
  /-- HINT_PREFETCH, R198 -/
  | hintPrefetch (p : PartIx)
  /-- HINT_EVICT, R198 -/
  | hintEvict (p : PartIx)
  /-- HINT_PREFETCH_PIN, R198 -/
  | hintPrefetchPin (p : PartIx)
  /-- HINT_UNPIN, R198 -/
  | hintUnpin (p : PartIx)
  /-- DMA_START, R221 -/
  | dmaStart (c : CoreIx) (n : Fin 4) (chain : Nat)
  /-- DMA_RESUME, R221 -/
  | dmaResume (c : CoreIx) (n : Fin 4)
  /-- DMA_ABANDON, R221 -/
  | dmaAbandon (c : CoreIx) (n : Fin 4)
  /-- DMA_DESCRIPTOR_BEGIN, R219 -/
  | dmaDescriptorBegin (c : CoreIx) (n : Fin 4)
  /-- DMA_COPY, R172 -/
  | dmaCopy (c : CoreIx) (n : Fin 4)
  /-- DMA_TR8, R173 -/
  | dmaTr8 (c : CoreIx) (n : Fin 4)
  /-- DMA_TR16, R173 -/
  | dmaTr16 (c : CoreIx) (n : Fin 4)
  /-- DMA_TR32, R173 -/
  | dmaTr32 (c : CoreIx) (n : Fin 4)
  /-- DMA_FILL, R174 -/
  | dmaFill (c : CoreIx) (n : Fin 4)
  /-- DMA_ADD, R175 -/
  | dmaAdd (c : CoreIx) (n : Fin 4)
  /-- DMA_DESCRIPTOR_COMPLETE, R219 -/
  | dmaDescriptorComplete (c : CoreIx) (n : Fin 4)
  /-- SLICE_REQUEST, R160 -/
  | sliceRequest (id : Nat) (turn : SliceTurn)
  /-- DRAM_RESPONSE, R160 -/
  | dramResponse (id : Nat) (u : Upset)
  /-- WRITEBACK_ACK, R167 -/
  | writebackAck (p : PartIx) (ch : ChanIx)
  /-- ADDER_OPERATION, R170 -/
  | adderOperation (id : Nat) (u : Upset)
  /-- SLICE_CFG_WRITE, R161 -/
  | sliceCfgWrite (o : Origin) (p : PartIx) (v : Word)
  /-- LIVE_WRITE, R180 -/
  | liveWrite (o : Origin) (p : PartIx) (i : Fin 390) (v : Word)
  /-- REFRESH_DUE, R150 -/
  | refreshDue (p : PartIx) (ch : ChanIx) (layer : Fin 6) (bank : Fin 16) (busy : Bool)
  /-- SCRUB_READ, R184 -/
  | scrubRead (p : PartIx) (ch : ChanIx) (u : Upset)
  /-- LAP_OVERDUE, R185 -/
  | lapOverdue (p : PartIx)
  /-- REMAP_COPY_DONE, R181 -/
  | remapCopyDone (p : PartIx) (ch : ChanIx)
  /-- COUPLING_BEAT_RECEIVE, R138 -/
  | couplingBeatReceive (p : PartIx) (unit : Fin 224) (lane : Fin 64) (payload : Nat) (check : Nat)
  /-- PERIODIC_TEST_SLOT, R145 -/
  | periodicTestSlot (p : PartIx) (t : LinkTest)
  /-- CONFIRM_TEST, R146 -/
  | confirmTest (p : PartIx) (t : LinkTest)
  /-- STACK_RETRAIN, R151 -/
  | stackRetrain (o : Origin) (p : PartIx) (ch : ChanIx)
  /-- PLL_LOCK_LOSS, R149 -/
  | pllLockLoss (p : PartIx) (ch : ChanIx) (layer : Fin 7)
  /-- CHANNEL_RETRAIN_END, R151 -/
  | channelRetrainEnd (p : PartIx) (ch : ChanIx) (trained : Bool)
  /-- RETRAIN_HOLD_TIMEOUT, R152 -/
  | retrainHoldTimeout (p : PartIx) (ch : ChanIx)
  /-- STACK_OFFLINE_WRITE, R152 -/
  | stackOfflineWrite (o : Origin) (p : PartIx) (ch : ChanIx) (v : Word)
  /-- MARGIN_SWEEP_START, R153 -/
  | marginSweepStart (o : Origin) (p : PartIx) (v : Word)
  /-- MARGIN_SWEEP_DONE, R154 -/
  | marginSweepDone (p : PartIx) (points : List Word32)
  /-- STACK_CHSTAT_READ, R152 -/
  | stackChstatRead (o : Origin) (p : PartIx) (ch : ChanIx)
  /-- RES_PSTAT_READ, R199 -/
  | resPstatRead (o : Origin) (p : PartIx)
  /-- RES_QSTAT_READ, R216 -/
  | resQstatRead (o : Origin) (p : PartIx) (q : QueueIx)
  /-- TRAIN_WRITE, R224 -/
  | trainWrite (o : Origin) (ls : Bool) (v : Word)
  /-- ANCHOR_START, R260 -/
  | anchorStart (s : StartBy) (p : PartIx)
  /-- ANCHOR_ABANDON, R259 -/
  | anchorAbandon (o : Origin) (p : PartIx)
  /-- ANCHOR_RESOLVE_CLEAN, R258 -/
  | anchorResolveClean (o : Origin) (p : PartIx) (v : Word)
  /-- ANCHOR_RESOLVE_SKIP, R258 -/
  | anchorResolveSkip (o : Origin) (p : PartIx) (v : Word)
  /-- ANCH_CMD_BADCMD, R259 -/
  | anchCmdBadcmd (o : Origin) (p : PartIx) (v : Word)
  /-- ANCH_CTL_WRITE, R236 -/
  | anchCtlWrite (o : Origin) (p : PartIx) (v : Word)
  /-- ANCH_CONFIG_WRITE, R236 -/
  | anchConfigWrite (o : Origin) (p : PartIx) (off : Nat) (v : Word)
  /-- RELAY_ARMED, R228 -/
  | relayArmed (p : PartIx)
  /-- RELAY_CONTRIBUTION, R229 -/
  | relayContribution (p : PartIx) (addr : Nat) (op : Nat) (fmt : Nat) (data : List Byte)
  /-- RULE_FOLDED, R240 -/
  | ruleFolded (p : PartIx) (rule : Nat)
  /-- FOLD_TIMEOUT, R252 -/
  | foldTimeout (p : PartIx)
  /-- VOTE_CLEAN, R255 -/
  | voteClean
  /-- VOTE_SKIP, R256 -/
  | voteSkip
  /-- VOTE_LOST, R257 -/
  | voteLost
  /-- VOTE_TIMEOUT, R252 -/
  | voteTimeout (p : PartIx)
  /-- APPLY_DONE, R255 -/
  | applyDone (p : PartIx)
  /-- ANCH_STAT_READ, R259 -/
  | anchStatRead (o : Origin) (p : PartIx)
  /-- ANCH_CLAMP_READ, R250 -/
  | anchClampRead (o : Origin) (p : PartIx)
  /-- ARRIVE, R263 -/
  | arrive (a : HAgent) (h : HurdleIx) (arg : Nat)
  /-- WAIT, R266 -/
  | wait (a : HAgent) (h : HurdleIx) (g : Option Nat)
  /-- PEEK, R272 -/
  | peek (a : HAgent) (h : HurdleIx)
  /-- JOIN, R268 -/
  | join (a : HAgent) (h : HurdleIx)
  /-- ACQUIRE, R263 -/
  | acquire (a : HAgent) (h : HurdleIx) (n : Nat)
  /-- NOTIFY, R273 -/
  | notify (a : HAgent) (h : HurdleIx) (g : Option Nat)
  /-- ARM, R272 -/
  | arm (a : HAgent) (h : HurdleIx)
  /-- CONFIG, R265 -/
  | config (a : HAgent) (h : HurdleIx)
  /-- FAIL, R272 -/
  | fail (a : HAgent) (h : HurdleIx)
  /-- HRD_HOP_RESERVED, R273 -/
  | hrdHopReserved (o : Origin) (v : Word)
  /-- HRD_EVENT_READ, R271 -/
  | hrdEventRead (c : CoreIx) (rd : RegNum)
  /-- HRD_CFG_WRITE, R265 -/
  | hrdCfgWrite (o : Origin) (h : HurdleIx) (v : Word)
  /-- SPAN_ENTRY_WRITE, R275 -/
  | spanEntryWrite (o : Origin) (s : Fin 256) (half : Fin 2) (v : Word)
  /-- SPAN_ARRIVAL, R277 -/
  | spanArrival (n : PortIx)
  /-- SPAN_FAILURE_REPORT, R278 -/
  | spanFailureReport (n : PortIx)
  /-- SPAN_RELEASE, R277 -/
  | spanRelease (n : PortIx)
  /-- SPAN_FAILURE_DECISION, R278 -/
  | spanFailureDecision (n : PortIx)
  /-- MBX_SEND, R284 -/
  | mbxSend (c : CoreIx) (rd : RegNum) (v : Word)
  /-- MBX_RECV, R285 -/
  | mbxRecv (c : CoreIx) (rd : RegNum) (v : Word)
  /-- MBX_STAT, R287 -/
  | mbxStat (c : CoreIx) (rd : RegNum) (v : Word)
  /-- MBX_DB_WRITE, R287 -/
  | mbxDbWrite (c : CoreIx) (v : Word)
  /-- MBX_MASK_WRITE, R287 -/
  | mbxMaskWrite (c : CoreIx) (v : Word)
  /-- HOST_MAILBOX_POST, R290 -/
  | hostMailboxPost (fn : Fin 2) (k : Fin 4) (ch : ChanIx) (w7 : Word)
  /-- HOST_MAILBOX_TAKE, R285 -/
  | hostMailboxTake (o : Origin) (line : Nat) (word : Fin 8)
  /-- MBX_BIND_WRITE, R282 -/
  | mbxBindWrite (o : Origin) (n : Fin 1024) (ch : ChanIx) (v : Word)
  /-- MBX_CH_READ, R282 -/
  | mbxChRead (o : Origin) (n : Fin 1024) (ch : ChanIx)
  /-- FLIT_RECEIVE, R301 -/
  | flitReceive (n : PortIx) (clear : List Byte) (k : FlitCheck)
  /-- FLIT_TRANSMIT, R305 -/
  | flitTransmit (n : PortIx)
  /-- NAK_REPEAT_TIMEOUT, R301 -/
  | nakRepeatTimeout (n : PortIx)
  /-- REPLAY_TIMEOUT, R302 -/
  | replayTimeout (n : PortIx)
  /-- VC_SATURATION, R307 -/
  | vcSaturation (n : PortIx) (vc : Fin 4)
  /-- REMOTE_READ, R297 -/
  | remoteRead (n : PortIx) (u : Upset)
  /-- REMOTE_WRITE, R297 -/
  | remoteWrite (n : PortIx)
  /-- REMOTE_ADD, R297 -/
  | remoteAdd (n : PortIx) (u : Upset)
  /-- REMOTE_AMO, R297 -/
  | remoteAmo (n : PortIx) (u : Upset)
  /-- REMOTE_MBX_POST, R297 -/
  | remoteMbxPost (n : PortIx)
  /-- REMOTE_MBX_STAT, R297 -/
  | remoteMbxStat (n : PortIx)
  /-- REMOTE_RESPONSE, R299 -/
  | remoteResponse (n : PortIx)
  /-- REMOTE_REQUEST_TIMEOUT, R325 -/
  | remoteRequestTimeout (tag : Nat)
  /-- NOTICE_RECEIVE, R327 -/
  | noticeReceive (n : PortIx)
  /-- DICT_FLIT_READ, R395 -/
  | dictFlitRead (n : PortIx)
  /-- DICT_FLIT_ANSWER, R395 -/
  | dictFlitAnswer (n : PortIx)
  /-- SWAP_REQ, R314 -/
  | swapReq (n : PortIx)
  /-- SWAP_ACK, R314 -/
  | swapAck (n : PortIx)
  /-- RETRAIN_REQ, R313 -/
  | retrainReq (n : PortIx)
  /-- KEY_UPDATE, R316 -/
  | keyUpdate (n : PortIx)
  /-- TRAINING_TURN, R309 -/
  | trainingTurn (n : PortIx)
  /-- TURN_TIMEOUT, R309 -/
  | turnTimeout (n : PortIx) (light : Bool)
  /-- ABSENT_RETRY, R309 -/
  | absentRetry (n : PortIx)
  /-- AUTH_HELLO, R315 -/
  | authHello (n : PortIx) (h : Hello)
  /-- AUTH_CERT, R315 -/
  | authCert (n : PortIx) (k : Cert)
  /-- AUTH_VERIFY, R315 -/
  | authVerify (n : PortIx) (sig : List Byte)
  /-- AUTH_FINISHED, R315 -/
  | authFinished (n : PortIx) (tagOk : Bool) (req : Nat) (rsp : Nat) (red : Nat)
  /-- TRAINING_COMPLETE, R311 -/
  | trainingComplete (n : PortIx)
  /-- TRAINING_FAILURE, R311 -/
  | trainingFailure (n : PortIx)
  /-- LOOPBACK_TEST_DONE, R313 -/
  | loopbackTestDone (n : PortIx) (pass : Bool)
  /-- DOWN_RETRY, R313 -/
  | downRetry (n : PortIx)
  /-- CODEWORD_LOCK_LOSS, R313 -/
  | codewordLockLoss (n : PortIx)
  /-- LINK_RETRAIN_CMD, R313 -/
  | linkRetrainCmd (o : Origin) (n : PortIx)
  /-- LINK_SWAP_CMD, R314 -/
  | linkSwapCmd (o : Origin) (n : PortIx)
  /-- LINK_RELEASE_CMD, R317 -/
  | linkReleaseCmd (o : Origin) (n : PortIx)
  /-- LINK_LOOPTEST_CMD, R329 -/
  | linkLooptestCmd (o : Origin) (n : PortIx)
  /-- LINK_PCMD_BADCMD, R329 -/
  | linkPcmdBadcmd (o : Origin) (n : PortIx) (v : Word)
  /-- PORT_CONFIG_WRITE, R329 -/
  | portConfigWrite (o : Origin) (n : PortIx) (v : Word)
  /-- DEVID_WRITE, R318 -/
  | devidWrite (o : Origin) (v : Word)
  /-- VCBUF_WRITE, R329 -/
  | vcbufWrite (o : Origin) (n : PortIx) (v : Word)
  /-- WINDOW_WRITE, R323 -/
  | windowWrite (o : Origin) (w : Fin 64) (half : Fin 2) (v : Word)
  /-- SLOT_WRITE, R322 -/
  | slotWrite (o : Origin) (s : Fin 4096) (v : Word)
  /-- LINK_PERR_READ, R329 -/
  | linkPerrRead (o : Origin) (n : PortIx)
  /-- LINK_PFEC_READ, R329 -/
  | linkPfecRead (o : Origin) (n : PortIx)
  /-- ERR_STAT_WRITE, R333 -/
  | errStatWrite (o : Origin) (s : Fin 64) (v : Word)
  /-- ERR_CLRCNT, R331 -/
  | errClrcnt (o : Origin) (s : Fin 64)
  /-- EMCY_TRANSMIT, R342 -/
  | emcyTransmit
  /-- REPLACEMENT_EVENT, R351 -/
  | replacementEvent
  /-- PACER_INTERVAL, R379 -/
  | pacerInterval (a : Activity)
  /-- ALLOWANCE_REACHED, R374 -/
  | allowanceReached (p : PartIx)
  /-- VID_FRAME, R443 -/
  | vidFrame (p : PartIx)
  /-- DROOP_DETECT, R381 -/
  | droopDetect (k : ClusterIx) (mv : Nat)
  /-- DROOP_RECOVER, R381 -/
  | droopRecover (k : ClusterIx) (mv : Nat)
  /-- GUARD_UPDATE, R382 -/
  | guardUpdate (p : PartIx) (v0 : Nat)
  /-- DIODE_SAMPLE, R383 -/
  | diodeSample (l : List Sense)
  /-- THERMISTOR_SAMPLE, R383 -/
  | thermistorSample (l : List Sense)
  /-- DRAM_SENSOR_SAMPLE, R383 -/
  | dramSensorSample (l : List (List Int)) (hub : Sense)
  /-- THERMAL_CONTROL, R384 -/
  | thermalControl
  /-- OSCILLATOR_COMPENSATION, R385 -/
  | oscillatorCompensation
  /-- PACE_GSTAT_READ, R386 -/
  | paceGstatRead (o : Origin)
  /-- PACE_PSTAT_READ, R386 -/
  | pacePstatRead (o : Origin) (p : PartIx)
  /-- USDO_UPLOAD, R399 -/
  | usdoUpload (client : Nat) (index : Nat) (sub : Nat)
  /-- USDO_DOWNLOAD, R399 -/
  | usdoDownload (client : Nat) (index : Nat) (sub : Nat) (data : List Byte) (size : Nat)
  /-- USDO_SEGMENT, R399 -/
  | usdoSegment (client : Nat) (data : List Byte)
  /-- USDO_TIMEOUT, R399 -/
  | usdoTimeout (client : Nat)
  /-- NMT_START, R400 -/
  | nmtStart
  /-- NMT_STOP, R400 -/
  | nmtStop
  /-- NMT_ENTER_PREOPERATIONAL, R400 -/
  | nmtEnterPreoperational
  /-- NMT_RESET_NODE, R400 -/
  | nmtResetNode (e : BootEnv)
  /-- NMT_RESET_COMMUNICATION, R400 -/
  | nmtResetCommunication
  /-- HEARTBEAT, R399 -/
  | heartbeat
  /-- TPDO_TRANSMIT, R401 -/
  | tpdoTransmit (j : Fin 16)
  /-- RPDO_RECEIVE, R401 -/
  | rpdoReceive (i : Fin 4) (data : List Byte)
  /-- DICT_READ, R393 -/
  | dictRead (ch : Fin 16)
  /-- DICT_WRITE, R393 -/
  | dictWrite (ch : Fin 16)
  /-- DICT_READ_SEGMENT, R393 -/
  | dictReadSegment (ch : Fin 16)
  /-- DICT_RD, R394 -/
  | dictRd (c : CoreIx) (rd : RegNum) (rs1 : RegNum)
  /-- STORE_PARAMETERS, R402 -/
  | storeParameters (d : DictOrigin)
  /-- RESTORE_DEFAULTS, R402 -/
  | restoreDefaults (d : DictOrigin)
  /-- JOURNAL_FLUSH, R409 -/
  | journalFlush
  /-- AUTO_PERSIST, R405 -/
  | autoPersist
  /-- JOURNAL_READ, R410 -/
  | journalRead (d : DictOrigin)
  /-- JOURNAL_SIGNED_HEAD, R410 -/
  | journalSignedHead (d : DictOrigin)
  /-- BAR2_READ, R416 -/
  | bar2Read (x : Nat) (len : Nat)
  /-- BAR2_WRITE, R416 -/
  | bar2Write (x : Nat) (data : List Byte) (poisoned : Bool)
  /-- BAR0_DENIED_WRITE, R418 -/
  | bar0DeniedWrite (o : Origin) (off : Nat) (v : Word)
  /-- HOST_STAT_READ, R418 -/
  | hostStatRead (o : Origin)
  /-- FAR_ENABLE, R425 -/
  | farEnable (o : Origin) (v : Word)
  /-- FAR_DEC_WRITE, R425 -/
  | farDecWrite (o : Origin) (d : Fin 4) (v : Word)
  /-- CXL_PORT_EVENT, R426 -/
  | cxlPortEvent (q : Fin 2) (down : Bool)
  /-- VAULT_COMMIT, R431 -/
  | vaultCommit (o : Origin)
  /-- VAULT_CLEAR, R431 -/
  | vaultClear (o : Origin)
  /-- VAULT_BADCMD, R431 -/
  | vaultBadcmd (o : Origin) (v : Word)
  /-- VAULT_COMMIT_DONE, R431 -/
  | vaultCommitDone (flashOk : Bool)
  /-- RELAY_ENTRY_CONSUMED, R232 -/
  | relayEntryConsumed (p : PartIx) (i : Nat)
  /-- MESH_OR_CHANNEL_SATURATED, R337 -/
  | meshOrChannelSaturated (s : SatPlace)
  /-- CXL_PORT_RETRAINED, R426 -/
  | cxlPortRetrained (q : Fin 2)
  /-- PCIE_AER_UNCORRECTABLE, R421 -/
  | pcieAerUncorrectable (fn : Fin 2) (bit : Nat)
  /-- WAVELENGTH_CALIBRATION, R310 -/
  | wavelengthCalibration (n : PortIx) (start : Bool)
  deriving DecidableEq, Repr

end Sys2Proof
end

