-- ==== Sys2Proof/Machine/Crypto.lean ====
section
/-! DEFINITION. SHA-256, which chains the journal (R408), SHA-384, which the Vault's packages carry (R430), both of FIPS 180-4;
HKDF with SHA-384, which derives the keys of a link (R315, R316). -/

namespace Sys2Proof.Machine

/-- The highest r below r + 2^b whose k-th power is at most n, bit by bit from 2^(b − 1) down. -/
def rootFrom (k n : Nat) : Nat → Nat → Nat
  | 0, r => r
  | b + 1, r => rootFrom k n b (if (r + 2 ^ b) ^ k ≤ n then r + 2 ^ b else r)

/-- The first 64 bits of the fractional part of the k-th root of a number below 512. -/
def rootFraction (k p : Nat) : Nat := rootFrom k (p * 2 ^ (64 * k)) 69 0 % 2 ^ 64

/-- The primes below 410: the first 80. -/
def shaPrimes : List Nat := (List.range 410).filter fun p => decide (2 ≤ p) && (List.range 21).all fun q => q < 2 || q == p || p % q != 0

/-- The constants of SHA-384: the first 64 bits of the fractional parts of the cube roots of the first 80 primes. -/
def sha5K : List Word := shaPrimes.map fun p => BitVec.ofNat 64 (rootFraction 3 p)

/-- The constants of SHA-256: the first 32 bits of the first 64 of them. -/
def shaK : List Word32 := (sha5K.take 64).map fun w => BitVec.ofNat 32 (w.toNat / 2 ^ 32)

/-- The initial values of SHA-256: the first 32 bits of the fractional parts of the square roots of the first 8 primes. -/
def shaInit : List Word32 := (shaPrimes.take 8).map fun p => BitVec.ofNat 32 (rootFraction 2 p / 2 ^ 32)

/-- The initial values of SHA-384: the first 64 bits of those of the ninth to sixteenth primes. -/
def sha384Init : List Word := ((shaPrimes.drop 8).take 8).map fun p => BitVec.ofNat 64 (rootFraction 2 p)

/-- The message schedule: the newest word first; `n` words are still to be made. -/
def shaExpand : Nat → List Word32 → List Word32
  | 0, w => w
  | n + 1, w =>
    let x := w.getD 1 0
    let y := w.getD 14 0
    let s1 := x.rotateRight 17 ^^^ x.rotateRight 19 ^^^ (x >>> 10)
    let s0 := y.rotateRight 7 ^^^ y.rotateRight 18 ^^^ (y >>> 3)
    shaExpand n ((s1 + w.getD 6 0 + s0 + w.getD 15 0) :: w)

/-- One round on the eight working words. -/
def shaRound (v : List Word32) (kw : Word32) : List Word32 :=
  match v with
  | [a, b, c, d, e, f, g, h] =>
    let t1 := h + (e.rotateRight 6 ^^^ e.rotateRight 11 ^^^ e.rotateRight 25) + ((e &&& f) ^^^ (~~~e &&& g)) + kw
    let t2 := (a.rotateRight 2 ^^^ a.rotateRight 13 ^^^ a.rotateRight 22) + ((a &&& b) ^^^ (a &&& c) ^^^ (b &&& c))
    [t1 + t2, a, b, c, d + t1, e, f, g]
  | v => v

/-- One block of 64 bytes. -/
def shaBlock (h : List Word32) (b : List Byte) : List Word32 :=
  let w := ((List.range 16).map fun i => BitVec.ofNat 32 (ofBe ((b.drop (4 * i)).take 4))).reverse
  let v := ((shaK.zip (shaExpand 48 w).reverse).map fun p => p.1 + p.2).foldl shaRound h
  (h.zip v).map fun p => p.1 + p.2

/-- The blocks of a padded message. -/
def shaRun : Nat → List Word32 → List Byte → List Word32
  | 0, h, _ => h
  | n + 1, h, l => shaRun n (shaBlock h (l.take 64)) (l.drop 64)

/-- SHA-256 of a message. -/
def sha256 (l : List Byte) : List Byte :=
  let z := (119 - l.length % 64) % 64
  let m := l ++ 0x80 :: List.replicate z 0 ++ (leBytes 8 (8 * l.length)).reverse
  (shaRun (m.length / 64) shaInit m).flatMap fun w => (leBytes 4 w.toNat).reverse

-- SHA-384 (FIPS 180-4)

/-- The message schedule of SHA-384: the newest word first; `n` words are still to be made. -/
def sha5Expand : Nat → List Word → List Word
  | 0, w => w
  | n + 1, w =>
    let x := w.getD 1 0
    let y := w.getD 14 0
    let s1 := x.rotateRight 19 ^^^ x.rotateRight 61 ^^^ (x >>> 6)
    let s0 := y.rotateRight 1 ^^^ y.rotateRight 8 ^^^ (y >>> 7)
    sha5Expand n ((s1 + w.getD 6 0 + s0 + w.getD 15 0) :: w)

/-- One round of SHA-384 on the eight working words. -/
def sha5Round (v : List Word) (kw : Word) : List Word :=
  match v with
  | [a, b, c, d, e, f, g, h] =>
    let t1 := h + (e.rotateRight 14 ^^^ e.rotateRight 18 ^^^ e.rotateRight 41) + ((e &&& f) ^^^ (~~~e &&& g)) + kw
    let t2 := (a.rotateRight 28 ^^^ a.rotateRight 34 ^^^ a.rotateRight 39) + ((a &&& b) ^^^ (a &&& c) ^^^ (b &&& c))
    [t1 + t2, a, b, c, d + t1, e, f, g]
  | v => v

/-- One 128-byte block. -/
def sha5Block (h : List Word) (b : List Byte) : List Word :=
  let w := (List.range 16).map fun i => BitVec.ofNat 64 (ofBe ((b.drop (8 * i)).take 8))
  let w := (sha5Expand 64 w.reverse).reverse
  let v := ((sha5K.zip w).map fun x => x.1 + x.2).foldl sha5Round h
  h.zipWith (· + ·) v

/-- The blocks of a padded message. -/
def sha5Blocks : Nat → List Word → List Byte → List Word
  | 0, h, _ => h
  | n + 1, h, l => sha5Blocks n (sha5Block h (l.take 128)) (l.drop 128)

/-- SHA-384 of a run of bytes: 48 bytes. -/
def sha384 (l : List Byte) : List Byte :=
  let pad := (112 + 128 - (l.length + 1) % 128) % 128
  let m := l ++ [0x80] ++ List.replicate pad 0 ++ (leBytes 16 (8 * l.length)).reverse
  ((sha5Blocks (m.length / 128) sha384Init m).take 6).flatMap fun w => (leBytes 8 w.toNat).reverse

-- key derivation (R315, R316): RFC 5869

/-- HMAC with SHA-384; keys of this model are at most 128 bytes long. -/
def hmac384 (key msg : List Byte) : List Byte :=
  let k := padTo 128 0 key
  sha384 ((k.map (· ^^^ 0x5C)) ++ sha384 ((k.map (· ^^^ 0x36)) ++ msg))

/-- HKDF-SHA-384 for at most 48 bytes: the secret, the salt, what the output is for. -/
def hkdf384 (secret salt info : List Byte) (n : Nat) : List Byte := (hmac384 (hmac384 salt secret) (info ++ [1])).take n

end Sys2Proof.Machine
end

