-- ==== Sys2Proof/Machine/PaceTypes.lean ====
section
/-! DEFINITION. The parts of the state that belong to the Pacer and to device time (R50 … R56, R371 … R385). -/

namespace Sys2Proof.Machine

/-- Device time (R50 … R55): picoseconds from power good to the last reference edge, the nanoseconds the hub clock has counted
since, and the corrections still to be slewed away, in ps: of pod synchronisation and of the reference's return. -/
structure Clock where
  ps   : Nat := 0
  sub  : Nat := 0
  slew : Int := 0
  refSlew : Int := 0
  deriving DecidableEq, Repr

/-- Enforcement of one rail's limits (R374, R375, R376), in intervals of 2 µs. -/
structure Enforce where
  ovf   : Nat := 0
  under  : Nat := 0
  hold   : Bool := false
  demand : Nat := 0
  fallT  : Nat := 0
  riseT  : Nat := 0
  /-- intervals since enforcement last ended; none before the first enforcement -/
  quiet  : Option Nat := none
  on     : Bool := false
  deriving DecidableEq, Repr

/-- The Pacer's state of a partition (R374 … R384); voltages in mV, temperatures in 1/16 °C. -/
structure Pace where
  vCur   : Nat := 750
  vPkg   : Nat := 750
  vPace  : Nat := 750
  vTherm : Nat := 750
  restCur : Nat := 0
  restTherm : Nat := 0
  cur    : Enforce := {}
  closed : List Nat := []
  rested : Bool := false
  tCrit  : Bool := false
  floorHalt : Bool := false
  tj     : Int := 0
  tdram  : Int := 0
  /-- each DRAM layer, in 1/16 °C (R150, R383) -/
  layers : List Int := []
  slackSum : Nat := 0
  slackN : Nat := 0
  slackMin : Nat := 0
  paceAt : Nat := 0
  reference : Int := 0
  deriving DecidableEq, Repr

/-- The Pacer's state of the package: enforcement, common rest, the pacing window in progress, thermal
conditions (0 never seen, 1 present, else 2 above the time they ended), the temperature of the hub. -/
structure Package where
  enf     : Enforce := {}
  restPkg : Nat := 0
  releases : Nat := 0
  first   : Nat := 0
  lastRel : Nat := 0
  hubHot  : Bool := false
  hub     : Int := 0
  conds   : Tbl Nat := []
  oscTrim : Int := 0
  /-- temperature inputs whose break has been recorded -/
  broken  : List Nat := []
  deriving DecidableEq, Repr

end Sys2Proof.Machine
end

