-- ==== Sys2Proof/Machine/Reg.lean ====
section
/-! DEFINITION. The registers of BAR0 by name: where each lies (R413 and the block tables of its chapter),
its value after reset, and which of its bits are RW, W1C and RC under R8. Bits of no such mask read their
hardware value and ignore writes (RO, WO, reserved: R8, R9). -/

namespace Sys2Proof.Machine

/-- A register of BAR0. 128-bit registers are two 64-bit halves, low half first. -/
inductive Reg where
  | desc (i : Fin 3080)
  | timingNow | timingStatus | timingRate (p : PartIx)
  | stackStest (p : PartIx) (i : Fin 128) | stackStptr (p : PartIx) | stackMctl (p : PartIx)
  | stackMrange (p : PartIx) | stackMstat (p : PartIx) | stackChctl (p : PartIx) (c : ChanIx)
  | stackChstat (p : PartIx) (c : ChanIx) | stackEye (p : PartIx) (i : Fin 2048)
  | sliceCfg (p : PartIx) | sliceWrr (p : PartIx) | sliceRmctl (p : PartIx) | sliceScrub (p : PartIx)
  | sliceLap (p : PartIx) | sliceRemap (p : PartIx) (i : Fin 256) | sliceLive (p : PartIx) (i : Fin 390)
  | resRoot (a : Fin 16) | resInval | resGroup (g : Fin 16)
  | resQcfg (p : PartIx) (q : QueueIx) | resQstat (p : PartIx) (q : QueueIx) | resQfail (p : PartIx) (q : QueueIx)
  | resCtl (p : PartIx) | resBuft (p : PartIx) | resApool (p : PartIx) (i : Fin 4) | resPpool (p : PartIx)
  | resPstat (p : PartIx) | resSubmit (p : PartIx) (q : QueueIx) (w : Fin 8) | resHint (p : PartIx) (w : Fin 2)
  | trainStep | trainLs
  | anchCtl (p : PartIx) | anchCmd (p : PartIx) | anchStat (p : PartIx) | anchClamp (p : PartIx)
  | anchRules (p : PartIx) | anchRelay (p : PartIx) | anchVote (p : PartIx) | anchSeed (p : PartIx)
  | anchHp (p : PartIx) (s w : Fin 16)
  | hrdCfg (h : HurdleIx) | hrdState (h : HurdleIx)
  | mbxCh (n : Fin 1024) (c : ChanIx) | span (s : Fin 256) (half : Fin 2) | hrdHop | hrdHcfg | hrdHstat
  | linkPcfg (n : PortIx) | linkPcmd (n : PortIx) | linkPstat (n : PortIx) | linkPeer (n : PortIx)
  | linkPerr (n : PortIx) | linkPfec (n : PortIx) | linkRcap (n : PortIx) | linkVcbuf (n : PortIx)
  | linkGcfg | linkRoute (i : Fin 512) (half : Fin 2) | linkWin (w : PortIx) (half : Fin 2) | linkSlot (s : Fin 4096)
  | errStat (s : Fin 64) | errAddr (s : Fin 64) | errId (s : Fin 64) | errTime (s : Fin 64)
  | errSummary | errEmcyen | errIrqen | health
  | strtStatus | strtCmd | strtCstat | strtReadyNs | strtPart (p : PartIx)
  | paceGcfg | paceGstat | pacePhrd (i : Fin 4) | pacePcfg (p : PartIx) | pacePstat (p : PartIx)
  | paceMargin (p : PartIx) | paceSlack (p : PartIx)
  | thermCfg | thermRead (i : Fin 28) | thermPart (p : PartIx) | thermHub
  | b2map (s : Fin 16) | mapFarwin | hostStat | farCtl | farPort (q : Fin 2) | farDec (d : Fin 4)
  | vaultCmd | vaultStat
  | msixTable (i : Fin 16) | msixPba
  | staging (i : Fin 2097152)
  deriving DecidableEq, Repr

namespace Reg

/-- BAR0 offset of a register. -/
def offset : Reg → Nat
  | .desc i => 0x10000 + 8 * i.val
  | .timingNow => 0x20000
  | .timingStatus => 0x20008
  | .timingRate p => 0x20040 + 8 * p.val
  | .stackStest p i => 0x30000 + 0x8000 * p.val + 8 * i.val
  | .stackStptr p => 0x30400 + 0x8000 * p.val
  | .stackMctl p => 0x30800 + 0x8000 * p.val
  | .stackMrange p => 0x30808 + 0x8000 * p.val
  | .stackMstat p => 0x30810 + 0x8000 * p.val
  | .stackChctl p c => 0x30C00 + 0x8000 * p.val + 8 * c.val
  | .stackChstat p c => 0x30D00 + 0x8000 * p.val + 8 * c.val
  | .stackEye p i => 0x34000 + 0x8000 * p.val + 8 * i.val
  | .sliceCfg p => 0x80000 + 0x10000 * p.val
  | .sliceWrr p => 0x80008 + 0x10000 * p.val
  | .sliceRmctl p => 0x80010 + 0x10000 * p.val
  | .sliceScrub p => 0x80018 + 0x10000 * p.val
  | .sliceLap p => 0x80020 + 0x10000 * p.val
  | .sliceRemap p i => 0x80800 + 0x10000 * p.val + 8 * i.val
  | .sliceLive p i => 0x81000 + 0x10000 * p.val + 8 * i.val
  | .resRoot a => 0x110000 + 8 * a.val
  | .resInval => 0x110080
  | .resGroup g => 0x110100 + 8 * g.val
  | .resQcfg p q => 0x140000 + 0x10000 * p.val + 8 * q.val
  | .resQstat p q => 0x140200 + 0x10000 * p.val + 8 * q.val
  | .resQfail p q => 0x140400 + 0x10000 * p.val + 8 * q.val
  | .resCtl p => 0x140600 + 0x10000 * p.val
  | .resBuft p => 0x140608 + 0x10000 * p.val
  | .resApool p i => 0x140620 + 0x10000 * p.val + 8 * i.val
  | .resPpool p => 0x140640 + 0x10000 * p.val
  | .resPstat p => 0x140648 + 0x10000 * p.val
  | .resSubmit p q w => 0x141000 + 0x10000 * p.val + 64 * q.val + 8 * w.val
  | .resHint p w => 0x142000 + 0x10000 * p.val + 8 * w.val
  | .trainStep => 0x1F0000
  | .trainLs => 0x1F0008
  | .anchCtl p => 0x200000 + 0x10000 * p.val
  | .anchCmd p => 0x200008 + 0x10000 * p.val
  | .anchStat p => 0x200010 + 0x10000 * p.val
  | .anchClamp p => 0x200018 + 0x10000 * p.val
  | .anchRules p => 0x200020 + 0x10000 * p.val
  | .anchRelay p => 0x200028 + 0x10000 * p.val
  | .anchVote p => 0x200030 + 0x10000 * p.val
  | .anchSeed p => 0x200038 + 0x10000 * p.val
  | .anchHp p s w => 0x201000 + 0x10000 * p.val + 0x80 * s.val + 8 * w.val
  | .hrdCfg h => 0x300000 + 0x20000 * (h.val / 8192) + 16 * (h.val % 8192)
  | .hrdState h => 0x300008 + 0x20000 * (h.val / 8192) + 16 * (h.val % 8192)
  | .mbxCh n c => 0x400000 + 0x100 * n.val + 8 * c.val
  | .span s half => 0x450000 + 16 * s.val + 8 * half.val
  | .hrdHop => 0x451000
  | .hrdHcfg => 0x451008
  | .hrdHstat => 0x451010
  | .linkPcfg n => 0x500000 + 0x40 * n.val
  | .linkPcmd n => 0x500008 + 0x40 * n.val
  | .linkPstat n => 0x500010 + 0x40 * n.val
  | .linkPeer n => 0x500018 + 0x40 * n.val
  | .linkPerr n => 0x500020 + 0x40 * n.val
  | .linkPfec n => 0x500028 + 0x40 * n.val
  | .linkRcap n => 0x500030 + 0x40 * n.val
  | .linkVcbuf n => 0x500038 + 0x40 * n.val
  | .linkGcfg => 0x501000
  | .linkRoute i half => 0x504000 + 16 * i.val + 8 * half.val
  | .linkWin w half => 0x508000 + 16 * w.val + 8 * half.val
  | .linkSlot s => 0x510000 + 8 * s.val
  | .errStat s => 0x600000 + 32 * s.val
  | .errAddr s => 0x600008 + 32 * s.val
  | .errId s => 0x600010 + 32 * s.val
  | .errTime s => 0x600018 + 32 * s.val
  | .errSummary => 0x600800
  | .errEmcyen => 0x600808
  | .errIrqen => 0x600810
  | .health => 0x600818
  | .strtStatus => 0x700000
  | .strtCmd => 0x700008
  | .strtCstat => 0x700010
  | .strtReadyNs => 0x700018
  | .strtPart p => 0x700040 + 8 * p.val
  | .paceGcfg => 0x800000
  | .paceGstat => 0x800008
  | .pacePhrd i => 0x800010 + 8 * i.val
  | .pacePcfg p => 0x800100 + 0x20 * p.val
  | .pacePstat p => 0x800108 + 0x20 * p.val
  | .paceMargin p => 0x800110 + 0x20 * p.val
  | .paceSlack p => 0x800118 + 0x20 * p.val
  | .thermCfg => 0x810000
  | .thermRead i => 0x810100 + 8 * i.val
  | .thermPart p => 0x810200 + 8 * p.val
  | .thermHub => 0x810240
  | .b2map s => 0x900000 + 8 * s.val
  | .mapFarwin => 0x900080
  | .hostStat => 0x900088
  | .farCtl => 0x900100
  | .farPort q => 0x900108 + 8 * q.val
  | .farDec d => 0x900120 + 8 * d.val
  | .vaultCmd => 0x900200
  | .vaultStat => 0x900208
  | .msixTable i => 0xF00000 + 8 * i.val
  | .msixPba => 0xF01000
  | .staging i => 0x1000000 + 8 * i.val

/-- An index below `n`, when it is one. -/
def ix (n k : Nat) : Option (Fin n) := if h : k < n then some ⟨k, h⟩ else none

/-- The registers of one partition's blocks, by offset within the block. -/
def ofStack (p : PartIx) (o : Nat) : Option Reg :=
  if o < 0x400 then (ix 128 (o / 8)).map (.stackStest p)
  else if o = 0x400 then some (.stackStptr p)
  else if o = 0x800 then some (.stackMctl p)
  else if o = 0x808 then some (.stackMrange p)
  else if o = 0x810 then some (.stackMstat p)
  else if 0xC00 ≤ o ∧ o < 0xD00 then (ix 32 ((o - 0xC00) / 8)).map (.stackChctl p)
  else if 0xD00 ≤ o ∧ o < 0xE00 then (ix 32 ((o - 0xD00) / 8)).map (.stackChstat p)
  else if 0x4000 ≤ o then (ix 2048 ((o - 0x4000) / 8)).map (.stackEye p)
  else none

@[inherit_doc ofStack]
def ofSlice (p : PartIx) (o : Nat) : Option Reg :=
  if o = 0 then some (.sliceCfg p) else if o = 8 then some (.sliceWrr p)
  else if o = 0x10 then some (.sliceRmctl p) else if o = 0x18 then some (.sliceScrub p)
  else if o = 0x20 then some (.sliceLap p)
  else if 0x800 ≤ o ∧ o < 0x1000 then (ix 256 ((o - 0x800) / 8)).map (.sliceRemap p)
  else if 0x1000 ≤ o then (ix 390 ((o - 0x1000) / 8)).map (.sliceLive p)
  else none

@[inherit_doc ofStack]
def ofRes (p : PartIx) (o : Nat) : Option Reg :=
  if o < 0x200 then (ix 64 (o / 8)).map (.resQcfg p)
  else if o < 0x400 then (ix 64 ((o - 0x200) / 8)).map (.resQstat p)
  else if o < 0x600 then (ix 64 ((o - 0x400) / 8)).map (.resQfail p)
  else if o = 0x600 then some (.resCtl p) else if o = 0x608 then some (.resBuft p)
  else if 0x620 ≤ o ∧ o < 0x640 then (ix 4 ((o - 0x620) / 8)).map (.resApool p)
  else if o = 0x640 then some (.resPpool p) else if o = 0x648 then some (.resPstat p)
  else if 0x1000 ≤ o ∧ o < 0x2000 then
    (ix 64 ((o - 0x1000) / 64)).bind fun q => (ix 8 (o % 64 / 8)).map (.resSubmit p q)
  else if 0x2000 ≤ o then (ix 2 ((o - 0x2000) / 8)).map (.resHint p)
  else none

@[inherit_doc ofStack]
def ofAnch (p : PartIx) (o : Nat) : Option Reg :=
  if o = 0 then some (.anchCtl p) else if o = 8 then some (.anchCmd p) else if o = 0x10 then some (.anchStat p)
  else if o = 0x18 then some (.anchClamp p) else if o = 0x20 then some (.anchRules p)
  else if o = 0x28 then some (.anchRelay p) else if o = 0x30 then some (.anchVote p)
  else if o = 0x38 then some (.anchSeed p)
  else if 0x1000 ≤ o then
    (ix 16 ((o - 0x1000) / 0x80)).bind fun s => (ix 16 (o % 0x80 / 8)).map (.anchHp p s)
  else none

/-- The registers of one port. -/
def ofPort (n : PortIx) (o : Nat) : Reg :=
  if o = 0 then .linkPcfg n else if o = 8 then .linkPcmd n else if o = 0x10 then .linkPstat n
  else if o = 0x18 then .linkPeer n else if o = 0x20 then .linkPerr n else if o = 0x28 then .linkPfec n
  else if o = 0x30 then .linkRcap n else .linkVcbuf n

/-- The register at a BAR0 offset; offsets outside the blocks hold none (R413). Accesses are aligned
8-byte words. -/
def ofOffset (o : Nat) : Option Reg :=
  if o % 8 ≠ 0 then none
  else if 0x10000 ≤ o ∧ o < 0x16040 then (ix 3080 ((o - 0x10000) / 8)).map .desc
  else if o = 0x20000 then some .timingNow
  else if o = 0x20008 then some .timingStatus
  else if 0x20040 ≤ o ∧ o < 0x20080 then (ix 8 ((o - 0x20040) / 8)).map .timingRate
  else if 0x30000 ≤ o ∧ o < 0x70000 then (ix 8 ((o - 0x30000) / 0x8000)).bind fun p => ofStack p ((o - 0x30000) % 0x8000)
  else if 0x80000 ≤ o ∧ o < 0x100000 then (ix 8 ((o - 0x80000) / 0x10000)).bind fun p => ofSlice p (o % 0x10000)
  else if 0x110000 ≤ o ∧ o < 0x110080 then (ix 16 ((o - 0x110000) / 8)).map .resRoot
  else if o = 0x110080 then some .resInval
  else if 0x110100 ≤ o ∧ o < 0x110180 then (ix 16 ((o - 0x110100) / 8)).map .resGroup
  else if 0x140000 ≤ o ∧ o < 0x1C0000 then (ix 8 ((o - 0x140000) / 0x10000)).bind fun p => ofRes p (o % 0x10000)
  else if o = 0x1F0000 then some .trainStep
  else if o = 0x1F0008 then some .trainLs
  else if 0x200000 ≤ o ∧ o < 0x280000 then (ix 8 ((o - 0x200000) / 0x10000)).bind fun p => ofAnch p (o % 0x10000)
  else if 0x300000 ≤ o ∧ o < 0x400000 then
    (ix 65536 ((o - 0x300000) / 16)).map (if o % 16 = 0 then .hrdCfg else .hrdState)
  else if 0x400000 ≤ o ∧ o < 0x440000 then
    (ix 1024 ((o - 0x400000) / 0x100)).bind fun n => (ix 32 (o % 0x100 / 8)).map (.mbxCh n)
  else if 0x450000 ≤ o ∧ o < 0x451000 then
    (ix 256 ((o - 0x450000) / 16)).bind fun s => (ix 2 (o % 16 / 8)).map (.span s)
  else if o = 0x451000 then some .hrdHop
  else if o = 0x451008 then some .hrdHcfg
  else if o = 0x451010 then some .hrdHstat
  else if 0x500000 ≤ o ∧ o < 0x501000 then (ix 64 ((o - 0x500000) / 0x40)).map fun n => ofPort n (o % 0x40)
  else if o = 0x501000 then some .linkGcfg
  else if 0x504000 ≤ o ∧ o < 0x506000 then
    (ix 512 ((o - 0x504000) / 16)).bind fun i => (ix 2 (o % 16 / 8)).map (.linkRoute i)
  else if 0x508000 ≤ o ∧ o < 0x508400 then
    (ix 64 ((o - 0x508000) / 16)).bind fun i => (ix 2 (o % 16 / 8)).map (.linkWin i)
  else if 0x510000 ≤ o ∧ o < 0x518000 then (ix 4096 ((o - 0x510000) / 8)).map .linkSlot
  else if 0x600000 ≤ o ∧ o < 0x600800 then
    (ix 64 ((o - 0x600000) / 32)).map fun s =>
      if o % 32 = 0 then .errStat s else if o % 32 = 8 then .errAddr s else if o % 32 = 16 then .errId s else .errTime s
  else if o = 0x600800 then some .errSummary
  else if o = 0x600808 then some .errEmcyen
  else if o = 0x600810 then some .errIrqen
  else if o = 0x600818 then some .health
  else if o = 0x700000 then some .strtStatus
  else if o = 0x700008 then some .strtCmd
  else if o = 0x700010 then some .strtCstat
  else if o = 0x700018 then some .strtReadyNs
  else if 0x700040 ≤ o ∧ o < 0x700080 then (ix 8 ((o - 0x700040) / 8)).map .strtPart
  else if o = 0x800000 then some .paceGcfg
  else if o = 0x800008 then some .paceGstat
  else if 0x800010 ≤ o ∧ o < 0x800030 then (ix 4 ((o - 0x800010) / 8)).map .pacePhrd
  else if 0x800100 ≤ o ∧ o < 0x800200 then
    (ix 8 ((o - 0x800100) / 0x20)).map fun p =>
      if o % 0x20 = 0 then .pacePcfg p else if o % 0x20 = 8 then .pacePstat p
      else if o % 0x20 = 16 then .paceMargin p else .paceSlack p
  else if o = 0x810000 then some .thermCfg
  else if 0x810100 ≤ o ∧ o < 0x8101E0 then (ix 28 ((o - 0x810100) / 8)).map .thermRead
  else if 0x810200 ≤ o ∧ o < 0x810240 then (ix 8 ((o - 0x810200) / 8)).map .thermPart
  else if o = 0x810240 then some .thermHub
  else if 0x900000 ≤ o ∧ o < 0x900080 then (ix 16 ((o - 0x900000) / 8)).map .b2map
  else if o = 0x900080 then some .mapFarwin
  else if o = 0x900088 then some .hostStat
  else if o = 0x900100 then some .farCtl
  else if 0x900108 ≤ o ∧ o < 0x900118 then (ix 2 ((o - 0x900108) / 8)).map .farPort
  else if 0x900120 ≤ o ∧ o < 0x900140 then (ix 4 ((o - 0x900120) / 8)).map .farDec
  else if o = 0x900200 then some .vaultCmd
  else if o = 0x900208 then some .vaultStat
  else if 0xF00000 ≤ o ∧ o < 0xF00080 then (ix 16 ((o - 0xF00000) / 8)).map .msixTable
  else if o = 0xF01000 then some .msixPba
  else if 0x1000000 ≤ o ∧ o < 0x2000000 then (ix 2097152 ((o - 0x1000000) / 8)).map .staging
  else none

/-- The value a register holds after reset, from the "After reset" column of its table. -/
def reset : Reg → Word
  | .timingStatus => 0x0000_FFFF_0000_0000
  | .timingRate _ => 0x0000_FFFF_0000_0000
  | .stackMctl _ => 0x0000_0014_0000_0000
  | .stackMrange _ => 0x0420_E000_0220_E000
  | .sliceCfg _ => 0x0000_0001_0000_0000
  | .sliceWrr _ => 0x0000_0000_0021_4244
  | .sliceRmctl _ => 0x6
  | .sliceScrub _ => 0x0000_0000_003C_0001
  | .resCtl _ => 0x0064_03E8_0000_0000
  | .resQcfg _ _ => 0x0010_0000_0000_0000
  | .resGroup _ => 0x01FF_4800_0000_0000
  | .trainLs => 0x8000_0000_1800_0010
  | .anchCtl _ => 0x2BC
  | .anchSeed _ => 1
  | .span _ half => if half.val = 0 then 0x0000_7F00_0000_0000 else 0
  | .mbxCh _ _ => 0x4
  | .linkPstat _ => 0x0000_FFFF_0000_0000
  | .linkRcap _ => 0x0064_0040_0000_0000
  | .linkVcbuf _ => 0x0000_0400_0400_03C0
  | .linkGcfg => 0xFFFF_0064_0000_0000
  | .linkRoute _ half => if half.val = 0 then 0x00FF_FC00_0000_0000 else 0
  | .linkWin _ half => if half.val = 0 then 0 else 0xC
  | .errEmcyen => 0x1CF7EFD47B4
  | .errIrqen => 0xFFFF_FFFF_FFFF_FFFE
  | .strtPart _ => 0x4000_0000_0000_0000
  | .paceGcfg => 0xAF0C_8040_D050_0000
  | .pacePcfg _ => 0xBBA5_8A06_4000_0001
  | .pacePstat _ => 0xBB80_0000_0000_0000
  | .thermCfg => 0x5F5A_1000_0000_0000
  | .msixTable i => if i.val % 2 = 1 then 0x0000_0001_0000_0000 else 0
  | _ => 0

/-- The RW bits. -/
def rw : Reg → Word
  | .stackChctl _ _ => 0x4
  | .stackMctl _ => 0x0000_003F_0000_1F1F
  | .stackMrange _ => 0xFFFF_FF00_FFFF_FF00
  | .sliceCfg _ => 0xFFFF_FFFF_0000_010F
  | .sliceWrr _ => 0xFF_FFFF
  | .sliceRmctl _ => 0xF
  | .sliceScrub _ => 0xFFFF_0001
  | .resRoot _ => 0xC00F_FFFF_FFFF_0000
  | .resInval => 0x18FF_FFFF_FFE0_0000
  | .resGroup _ => 0xFFFF_7F00_0000_0000
  | .resQcfg _ _ => 0xBFFC_000F_FFFF_FFFF
  | .resCtl _ => 0xFFFF_FFFF_0000_0001
  | .resBuft _ => 0x000F_FFFF_FFF0_0000
  | .resApool _ _ => 0xC000_0000_7FFF_7FFF
  | .resPpool _ => 0xFFFF_7FFF
  | .trainStep => 0xFFFF_FFFF_FFFF_FFFF
  | .trainLs => 0xFFFF_0000_FFFF_00FF
  | .anchCtl _ => 0xFFFF_FFFF_FFFF_FFFF
  | .anchRules _ => 0xFFFF_FFFF_FFFF_FF81
  | .anchRelay _ => 0xFFFF_FFFF_FFFF_FF81
  | .anchSeed _ => 0xFFFF_FFFF
  | .anchHp _ _ w => if 14 ≤ w.val then 0 else 0xFFFF_FFFF
  | .hrdCfg _ => 0xFCFF_0000_FFFF_0000
  | .hrdHcfg => 0xFCFF_0000_FFFF_0000
  | .mbxCh _ _ => 0xFFFF_FFFF_0000_0006
  | .span _ half => if half.val = 0 then 0xFFFF_FF00_0FFF_0000 else 0xFFFF_FFFF_FFFF_FFFF
  | .linkPcfg _ => 0x3
  | .linkRcap _ => 0xFFFF_FFFF_0000_0000
  | .linkVcbuf _ => 0x0000_FFFF_FFFF_FFFF
  | .linkGcfg => 0xFFFF_FFFF_0000_0000
  | .linkRoute _ half => if half.val = 0 then 0xF8FF_FC00_FFFF_FFFF else 0xFFFF_FFFF_FFFF_FFFF
  | .linkWin _ half => if half.val = 0 then 0xF80F_FFFF_FFFF_F000 else 0xFFFF_FFFF_0000_003F
  | .linkSlot s => if s.val = 0 then 0 else 0x8000_0000_0000_FFFF
  | .errEmcyen => 0x1CF7EFD47B4
  | .errIrqen => 0xFFFF_FFFF_FFFF_FFFE
  | .paceGcfg => 0xFFFF_FFFF_FFF0_0000
  | .pacePhrd _ => 0x8000_0000_0000_FFFF
  | .pacePcfg _ => 0xFFFF_FFFF_FC00_0001
  | .thermCfg => 0xFFFF_FF00_0000_0000
  | .b2map _ => 0x800F_FFFF_0000_0000
  | .mapFarwin => 0x0000_03C0_0000_0001
  | .farCtl => 0x8000_0000_0000_0000
  | .farDec _ => 0xF000_1FFF_0FFF_0FFF
  | .msixTable i => if i.val % 2 = 1 then 0x0000_0001_FFFF_FFFF else 0xFFFF_FFFF_FFFF_FFFC
  | .staging _ => 0xFFFF_FFFF_FFFF_FFFF
  | _ => 0

/-- The W1C bits: each 1 written clears its bit. -/
def w1c : Reg → Word
  | .timingStatus => 0x84
  | .stackMctl _ => 0x3000_0000_0000_0000
  | .sliceCfg _ => 0x10
  | .sliceScrub _ => 0x4
  | .resPstat _ => 0x3
  | .resCtl _ => 0x10
  | .trainLs => 0x100
  | .anchStat _ => 0x01C0_0000_0000_0000
  | .hrdHstat => 0x3
  | .mbxCh _ _ => 0x8
  | .linkPstat _ => 0x009C_0000_0000_0000
  | .linkGcfg => 0x1
  | .errStat _ => 0xC000_0000_0000_0000
  | .farCtl => 0x4000_0000_0000_0000
  | .vaultStat => 0x7000_0000_0000_0000
  | _ => 0

/-- The RC bits: a read returns them and then sets them to their after-reset value. -/
def rc : Reg → Word
  | .timingRate _ => 0xFFFF_FFFF_0000_0000
  | .stackChstat _ _ => 0xFFFF_0000
  | .resPstat _ => 0xFFFF_FFFF_0000_0000
  | .resQstat _ _ => 0x07FF_FFFF_FFFF_0000
  | .anchClamp _ => 0xFFFF_FFFF_0000_0000
  | .anchStat _ => 0x0000_FFFF_FFFF_0000
  | .mbxCh _ _ => 0xFF00
  | .linkPerr _ => 0xFFFF_FFFF_FFFF_FF00
  | .linkPfec _ => 0xFFFF_FFFF_FFFF_000F
  | .paceGstat => 0x000F_FF00_FFFF_FFFF
  | .pacePstat _ => 0x0000_0007_FC00_FFFF
  | .hostStat => 0xFFFF_FFFF_0000_0000
  | _ => 0

/-- The partition whose block a register lies in, where it lies in one. -/
def part : Reg → Option PartIx
  | .timingRate p | .stackStest p _ | .stackStptr p | .stackMctl p | .stackMrange p | .stackMstat p
  | .stackChctl p _ | .stackChstat p _ | .stackEye p _ | .sliceCfg p | .sliceWrr p | .sliceRmctl p
  | .sliceScrub p | .sliceLap p | .sliceRemap p _ | .sliceLive p _ | .resQcfg p _ | .resQstat p _
  | .resQfail p _ | .resCtl p | .resBuft p | .resApool p _ | .resPpool p | .resPstat p | .resSubmit p _ _
  | .resHint p _ | .anchCtl p | .anchCmd p | .anchStat p | .anchClamp p | .anchRules p | .anchRelay p
  | .anchVote p | .anchSeed p | .anchHp p _ _ | .pacePcfg p | .pacePstat p | .paceMargin p | .paceSlack p
  | .thermPart p => some p
  | .hrdCfg h | .hrdState h => ix 8 (h.val / 8192)
  | _ => none

/-- Which host functions may write a register (R147, R186, R224, R235, R265, R273, R275, R282, R329, R335,
R369, R386, R414, R430): bit 0 function 0, bit 1 function 1. The MSI-X table belongs to each function. -/
def writers : Reg → Nat
  | .resSubmit _ _ _ | .resHint _ _ | .anchCmd _ | .b2map _ | .mapFarwin => 1
  | .hrdHop | .linkWin _ _ | .linkSlot _ | .msixTable _ | .msixPba => 3
  | _ => 2

end Reg

end Sys2Proof.Machine
end

