-- ==== Sys2Proof/Machine/State.lean ====
section
/-! DEFINITION. The state of the block: the queue of waiting commands, device time, memory, what survives power
loss, and everything else the manual gives the device; the reasons a step can stop; the state after reset. -/

namespace Sys2Proof.Machine

/-- The part as manufactured (R2, R3, R13, R21): serial, enabled partitions (one bit each), enabled DRAM layers,
grade E, core positions (72 × partition + unit) that were bad at shipment; the calibrated power weights of each partition, in
the order of R373: twelve in 0.01 pJ, the leakage in 0.1 W. -/
structure Part where
  serial : Word
  parts  : Nat
  layers : Nat
  gradeE : Bool
  bad    : List Nat
  weights : List (List Nat)
  deriving DecidableEq, Repr

/-- What survives power loss (R21, R29, R318, R350, R382, R405, R409, R427): the part, descriptor entries that
differ from the shipment state, GEN, LAST_CHANGE, HEALTH, the journal, persisted register words by BAR0 offset,
stored communication parameters, the Vault and the firmware slots. -/
structure Nv where
  part   : Part
  gen    : Nat
  lastChange : Word
  desc   : Tbl Word
  health : Word
  /-- for the causes of HEALTH that change no entry, the unit their last EMCY named: 512 × partition + k (R340) -/
  causeAt : Tbl Nat
  journal : Journal
  regs   : Tbl (Option Word)
  saved  : Tbl Nat
  vault  : Vault
  deriving DecidableEq, Repr

/-- A change Firmware has still to enter in the descriptor or in HEALTH (R29, R142, R143, R181, R345, R350). -/
inductive Change where
  | core (c : CoreIx) | cluster (k : ClusterIx) | port (n : PortIx)
  | vias (p : PartIx) (u : Nat) | spare (p : PartIx) (u n : Nat) | viaLost (p : PartIx) (u : Nat)
  | chanDown (p : PartIx) (c : ChanIx) | remap (p : PartIx) (c : ChanIx) (used : Nat)
  | sensor (p : PartIx) | margin (p : PartIx)
  deriving DecidableEq, Repr

/-- A sequence of the Starter in progress: the table, the next step of it, the facts its steps meet, the device
time of its acceptance. -/
structure Sequence where
  kind  : SeqKind
  step  : Nat
  env   : BootEnv
  bring : BringUp
  t0    : Nat
  deriving DecidableEq, Repr

/-- A cluster: the core runtime that its runtime store holds, checked (R358); the lines of its read-only cache (R112); the words of
that cache that erred before (R345). -/
structure Cluster where
  runtime : Option (List Byte) := none
  lines : List CLine := []
  fix : List (Nat × Nat) := []
  deriving DecidableEq, Repr

/-- Everything of the device that is lost with power. -/
structure Dev where
  regs     : Tbl Word
  freeCtr  : Nat
  out      : List Output
  -- Starter, pads
  powered  : Bool
  seqs     : List Sequence
  strtRes  : Tbl Nat
  nodeHeld : Option BootEnv
  /-- full hub mailbox channels, by 32 × (mailbox − 0x3F8) + channel, that Firmware takes first, in this order (R357) -/
  early    : List Nat
  bootEnv  : BootEnv
  replaceN : Bool
  thermN   : Bool
  optEn    : Bool
  -- time
  parent   : Option PortIx
  /-- serial number of the time master the election names, another device's; none on the master itself (R54) -/
  master   : Option Word
  /-- device time has been locked to the pod since the last cold boot or warm reset (R55) -/
  locked   : Bool
  /-- the last value each partition's copy of device time has shown (R51) -/
  timeCopy : Tbl Nat
  -- cores, Hurdles, mailboxes
  cores    : Tbl Core
  clusters : Tbl Cluster
  hurdles  : Tbl Hurdle
  phArr    : Tbl Nat
  chans    : Tbl Chan
  epochs   : Tbl Nat
  bar4     : Tbl Word
  hopRes   : Tbl Word
  -- translation, paging, dispatch
  tlb      : Tbl (Option TlbEntry)
  walks    : List Walk
  inval    : Option Inval
  pagers   : Tbl Pager
  queues   : Tbl Queue
  disp     : Tbl Dispatcher
  submStage : Tbl Word
  submRes  : Tbl Nat
  hintStage : Tbl Word
  -- memory system
  reqs     : Tbl (Option Req)
  /-- what waits at the slices, in order of arrival (R151, R165, R181) -/
  waits    : List Waiting
  /-- slices that answer the access under way with error completions (R152); empty between commands -/
  refusing : List Nat
  nextReq  : Nat
  arrivals : Nat
  cache    : Tbl (Option CacheLine)
  slices   : Tbl Slice
  laps     : Tbl Lap
  coupling : Tbl Coupling
  /-- by partition: the link whose test slot comes next (R145); STACK_MRANGE of the sweep that runs (R153) -/
  testAt   : Tbl Nat
  sweeps   : Tbl Word
  -- Anchors
  anchors  : Tbl Anchor
  -- links
  ports    : Tbl Port
  turnCtr  : Nat
  remotes  : Tbl (Option Remote)
  withheld : List (Nat × Nat)
  nextTag  : Nat
  -- errors, dictionary, CAN
  emcy     : List Emcy
  emcyAt   : Nat
  /-- changes not yet entered, each with the device time it was found at (R29) -/
  updates  : List (Nat × Change)
  /-- a descriptor update is under way: GEN shows the odd value (R29) -/
  genOpen  : Bool
  nmt      : Nmt
  comm     : Tbl Nat
  rate     : Nat
  restore  : Bool
  /-- the running firmware image, and its version -/
  image    : Option Staged
  fwVer    : Nat
  usdo     : List Usdo
  /-- the snapshot each origin reads a text or DOMAIN entry from, segment by segment (R27, R390) -/
  snaps    : List (DictOrigin × Nat × List Byte)
  cursors  : Tbl Nat
  dirty    : List Nat
  tpdoAt   : Tbl Nat
  -- Pacer
  pace     : Tbl Pace
  package  : Package
  /-- array cell-steps of each partition since the last interval: counters 0x01 … 0x04 of R373 -/
  acts     : Tbl (List Nat)
  -- host accesses that wait, oldest first; the function whose Vault command runs
  hostWait : List HostOp
  vaultFn  : Option Nat
  deriving DecidableEq, Repr

/-- The block. -/
structure State where
  pending : List Instr
  clk     : Clock
  mem     : Memory
  nv      : Nv
  dev     : Dev
  deriving DecidableEq, Repr

/-- Reasons to stop with a fault: the manual stops the device nowhere (P7: every request completes or is answered
with an error completion), so there is none. -/
inductive Fault where
  deriving DecidableEq, Repr

/-- Reasons a command has no meaning. -/
inductive Refusal where
  /-- raised by an arm of `exec` whose command is not modelled; safe, since nothing can be proved to follow -/
  | notModelled (mnemonic : String)
  deriving DecidableEq, Repr

/-- The part of log entry 3: ZD1-8P-6L-C, serial 1, position 8 of every cluster bad at shipment. -/
def Part.shipped : Part where
  serial := 1
  parts := 0xFF
  layers := 6
  gradeE := false
  bad := (List.range 64).map (fun k => 9 * k + 8)
  weights := List.replicate 8 [30, 28, 32, 2, 120, 400, 15, 20, 1500, 50, 35, 120, 180]

/-- The shipment state of what survives power loss (R21, R350, R382, R408, R427). GUARD is 40 mV. -/
def Nv.shipped : Nv where
  part := Part.shipped
  gen := 0
  lastChange := 0
  desc := []
  health := 0
  causeAt := []
  journal := {}
  regs := (List.range 8).map (fun p => (0x800110 + 0x20 * p, some 0x0028000000000000))
  saved := []
  vault := {}

/-- The device without power: every register at its value after reset, nothing in flight. -/
def Dev.reset : Dev where
  regs := []
  freeCtr := 0
  out := []
  powered := false
  seqs := []
  strtRes := []
  nodeHeld := none
  early := []
  bootEnv := {}
  replaceN := false
  thermN := false
  optEn := false
  parent := none
  master := none
  locked := false
  timeCopy := []
  cores := []
  clusters := []
  hurdles := []
  phArr := []
  chans := []
  epochs := []
  bar4 := []
  hopRes := []
  tlb := []
  walks := []
  inval := none
  pagers := []
  queues := []
  disp := []
  submStage := []
  submRes := []
  hintStage := []
  reqs := []
  waits := []
  refusing := []
  nextReq := 0
  arrivals := 0
  cache := []
  slices := []
  laps := []
  coupling := []
  testAt := []
  sweeps := []
  anchors := []
  ports := []
  turnCtr := 0
  remotes := []
  withheld := []
  nextTag := 0
  emcy := []
  emcyAt := 0
  updates := []
  genOpen := false
  nmt := .silent
  comm := []
  rate := 2
  restore := false
  image := none
  fwVer := 0
  usdo := []
  snaps := []
  cursors := []
  dirty := []
  tpdoAt := []
  pace := []
  package := {}
  acts := []
  hostWait := []
  vaultFn := none

/-- The device after manufacture, before the first rising edge of PWRGD: what an unpowered part is. A cold boot
(POWER_GOOD) starts from here. -/
def State.reset : State where
  pending := []
  clk := {}
  mem := {}
  nv := Nv.shipped
  dev := Dev.reset

end Sys2Proof.Machine
end

