-- ==== Sys2Proof/Machine/Ops.lean ====
section
/-! DEFINITION. The operations every chapter shares: registers, free values, the floor plan, identities, the error
record, EMCY and MSI-X messages, what leaves the device. -/

namespace Sys2Proof.Machine

/-- What a command answers. -/
abbrev Ans := Host.Outcome State Fault Refusal

/-- Change the volatile part of the state. -/
def State.onDev (s : State) (f : Dev → Dev) : State := { s with dev := f s.dev }

/-- Change what survives power loss. -/
def State.onNv (s : State) (f : Nv → Nv) : State := { s with nv := f s.nv }

/-- Device time in ns (R50). -/
def State.now (s : State) : Nat := s.clk.ps / 1000 + s.clk.sub

/-- A command whose cause is absent changes nothing (log entry 6). -/
def State.when (s : State) (b : Bool) (t : State) : State := if b then t else s

/-- The raw word of a register. -/
def Dev.reg (d : Dev) (r : Reg) : Word := d.regs.get r.reset r.offset

/-- Store the raw word of a register. -/
def Dev.setReg (d : Dev) (r : Reg) (w : Word) : Dev := { d with regs := d.regs.set r.reset r.offset w }

/-- Change the raw word of a register. -/
def Dev.modReg (d : Dev) (r : Reg) (f : Word → Word) : Dev := d.setReg r (f (d.reg r))

/-- A register at its value after reset. -/
def Dev.clearReg (d : Dev) (r : Reg) : Dev := { d with regs := d.regs.erase r.offset }

/-- Every register of BAR0 offsets lo … hi − 1 at its value after reset. -/
def Dev.clearRegs (d : Dev) (lo hi : Nat) : Dev :=
  { d with regs := d.regs.keep (fun k => decide (k < lo ∨ hi ≤ k)) }

/-- The next free value (log entry 2). -/
def Dev.free (d : Dev) : Word := Config.free d.freeCtr

/-- Advance past a free value. -/
def Dev.spend (d : Dev) (n : Nat := 1) : Dev := { d with freeCtr := d.freeCtr + n }

/-- Append to what the device has sent. -/
def Dev.emit (d : Dev) (o : Output) : Dev := { d with out := d.out ++ [o] }

-- numbering (R22)

/-- The partition of a core position. -/
def corePart (c : CoreIx) : PartIx := ⟨c.val / 72, by omega⟩

/-- The core unit within its partition. -/
def coreUnit (c : CoreIx) : Nat := c.val % 72

/-- The cluster of a core position. -/
def coreCluster (c : CoreIx) : ClusterIx := ⟨c.val / 9, by omega⟩

/-- The partition of a cluster. -/
def clusterPart (k : ClusterIx) : PartIx := ⟨k.val / 8, by omega⟩

/-- The home partition of a Hurdle (R262). -/
def hurdlePart (h : HurdleIx) : PartIx := ⟨h.val / 8192, by omega⟩

/-- The partition of a port (R17). -/
def portPart (n : PortIx) : PartIx := ⟨n.val / 8, by omega⟩

/-- Core positions of a partition, in order. -/
def partCores (p : PartIx) : List CoreIx := (List.finRange 576).filter (fun c => decide (c.val / 72 = p.val))

/-- Core positions of a cluster, in order. -/
def clusterCores (k : ClusterIx) : List CoreIx := (List.finRange 576).filter (fun c => decide (c.val / 9 = k.val))

-- the floor plan (R20 … R25)

/-- Whether a partition is enabled. -/
def Part.enabled (pt : Part) (p : PartIx) : Bool := pt.parts.testBit p.val

/-- Whether a core was good at shipment. -/
def Part.coreGood (pt : Part) (c : Nat) : Bool := pt.parts.testBit (c / 72) && !pt.bad.contains c

/-- The logical number of a core good at shipment (R25). -/
def Part.logical (pt : Part) (c : Nat) : Nat := ((List.range c).filter pt.coreGood).length

/-- The core with a logical number. -/
def Part.coreOf (pt : Part) (n : Nat) : Option CoreIx :=
  (List.finRange 576).find? (fun c => pt.coreGood c.val && pt.logical c.val == n)

/-- Good cores among the positions lo … hi − 1 at shipment. -/
def Part.countGood (pt : Part) (lo hi : Nat) : Nat :=
  ((List.range (hi - lo)).filter (fun i => pt.coreGood (lo + i))).length

/-- The KIND code and unit of descriptor number k (R22). -/
def descKind (k : Nat) : Nat × Nat :=
  if k = 0 then (0, 0) else if k < 9 then (1, k - 1) else if k < 81 then (2, k - 9)
  else if k < 113 then (3, k - 81) else if k < 145 then (4, k - 113) else if k < 369 then (5, k - 145)
  else if k < 377 then (6, k - 369) else (7, k - 377)

/-- The shipment state of a descriptor entry (R22 … R24). -/
def Part.entry (pt : Part) (p k : Nat) : Word :=
  let (kind, u) := descKind k
  let on := pt.parts.testBit p
  let fused := !on || (kind == 2 && !pt.coreGood (72 * p + u)) ||
    (kind == 5 && decide (pt.layers = 4 ∧ 5 ≤ u % 7)) || (kind == 7 && decide (pt.layers = 4 ∧ 5 ≤ u))
  let detail :=
    if kind = 0 then pt.countGood (72 * p) (72 * p + 72)
    else if kind = 1 then pt.countGood (72 * p + 9 * u) (72 * p + 9 * u + 9)
    else if kind = 7 ∧ 1 ≤ u then 1 else 0
  let logical := if kind = 2 ∧ pt.coreGood (72 * p + u) then pt.logical (72 * p + u) else 0xFFF
  fput 63 60 kind ||| fput 59 57 p ||| fput 56 48 u ||| fput 47 46 fused.toNat ||| fput 39 32 detail |||
    fput 31 20 logical

/-- A descriptor entry as it now reads. -/
def Nv.entry (nv : Nv) (p k : Nat) : Word := nv.desc.get (nv.part.entry p k) (384 * p + k)

/-- STATE of an entry: 0 good, 1 fused, 2 failed in the field. -/
def Nv.entryState (nv : Nv) (p k : Nat) : Nat := fld (nv.entry p k) 47 46

/-- Whether a core's entry reads good. -/
def Nv.coreGood (nv : Nv) (c : CoreIx) : Bool := nv.entryState (corePart c).val (9 + coreUnit c) == 0

/-- Whether a cluster's entry reads good. -/
def Nv.clusterGood (nv : Nv) (k : ClusterIx) : Bool := nv.entryState (clusterPart k).val (1 + k.val % 8) == 0

/-- Whether a port's entry reads good. -/
def Nv.portGood (nv : Nv) (n : PortIx) : Bool := nv.entryState (portPart n).val (369 + n.val % 8) == 0

-- what is up (R369)

/-- The device identifier (R318). -/
def Dev.devId (d : Dev) : Nat := fld (d.reg .linkGcfg) 63 48

/-- STRT_PART.STATE of a partition reads up. -/
def Dev.partUp (d : Dev) (p : PartIx) : Bool := fld (d.reg (.strtPart p)) 63 62 == 3

/-- Boot phase (R354). -/
def Dev.phase (d : Dev) : Nat := fld (d.reg .strtStatus) 3 0

/-- READY. -/
def Dev.ready (d : Dev) : Bool := bit (d.reg .strtStatus) 9

/-- The dictionary is up (step 4 of R354, step 5 of R366). -/
def Dev.dictUp (d : Dev) : Bool := d.powered && decide (3 ≤ d.phase ∧ d.phase ≠ 15)

/-- The hub blocks of BAR0 and BAR4 answer (step 5 of R354). -/
def Dev.hubUp (d : Dev) : Bool := d.powered && decide (4 ≤ d.phase ∧ d.phase ≠ 15)

/-- A core under a reset of its own or of its cluster, partition or device. -/
def Dev.coreResetting (d : Dev) (c : CoreIx) : Bool :=
  d.seqs.any fun q => match q.kind with
    | .core x => x == c
    | .cluster k => k == coreCluster c
    | .partition p => p == corePart c
    | _ => true

/-- A core's state. -/
def Dev.core (d : Dev) (c : CoreIx) : Core := d.cores.get {} c.val

/-- A core that runs code: its partition up, no reset of it under way, and itself good, or retired while its task has not yet
ended (R31, R216). -/
def State.coreUp (s : State) (c : CoreIx) : Bool :=
  s.dev.partUp (corePart c) && (s.nv.coreGood c || (s.dev.core c).task.isSome) && !s.dev.coreResetting c

/-- Store a core's state. -/
def Dev.setCore (d : Dev) (c : CoreIx) (k : Core) : Dev := { d with cores := d.cores.set {} c.val k }

/-- Change a core's state. -/
def Dev.modCore (d : Dev) (c : CoreIx) (f : Core → Core) : Dev := d.setCore c (f (d.core c))

-- identities (R280, R332)

/-- Identity of a core. -/
def idCore (dev : Nat) (c : CoreIx) : Nat :=
  0x10000000 + 4096 * (dev % 65536) + 512 * (corePart c).val + 64 * (coreUnit c / 9) + 4 * (c.val % 9)

/-- Identity of a Host function. -/
def idHost (dev fn : Nat) : Nat := 0x20000000 + 4096 * (dev % 65536) + fn % 4

/-- Identity of Firmware. -/
def idFirmware (dev : Nat) : Nat := 0x30000000 + 4096 * (dev % 65536)

/-- Identity of a unit of this device: its partition and its k, 0x1FF for the hub. -/
def idUnit (dev p k : Nat) : Nat := 0x40000000 + 4096 * (dev % 65536) + 512 * (p % 8) + k % 512

/-- Identity of the hub. -/
def idHub (dev : Nat) : Nat := idUnit dev 0 0x1FF

/-- Identity of a Partner or remote device. -/
def idRemote (dev : Nat) : Nat := 0x50000000 + 4096 * (dev % 65536)

/-- Identity of a Hurdle; its index is in SUBJ. -/
def idHurdle (dev : Nat) : Nat := 0x70000000 + 4096 * (dev % 65536)

/-- Identity of a register access's origin. -/
def idOrigin (dev : Nat) : Origin → Nat
  | .fn0 => idHost dev 0
  | .fn1 => idHost dev 1
  | .firmware => idFirmware dev

-- messages to the Host (R417 … R420)

/-- Where the table word `i` and the pending bits of a function's MSI-X structure are kept. -/
def msixKey (fn i : Nat) : Nat := 0x100000000 * (fn + 1) + 0xF00000 + 8 * i

/-- Word `i` of a function's MSI-X table; the mask bit of each vector is set after reset (log entry 20). -/
def Dev.msixWord (d : Dev) (fn i : Nat) : Word :=
  d.regs.get (if i % 2 = 1 then 0x0000000100000000 else 0) (msixKey fn i)

/-- Store a word of a function's MSI-X table. -/
def Dev.setMsix (d : Dev) (fn i : Nat) (w : Word) : Dev :=
  { d with regs := d.regs.set (if i % 2 = 1 then 0x0000000100000000 else 0) (msixKey fn i) w }

/-- Pending bits of a function. -/
def Dev.pba (d : Dev) (fn : Nat) : Word := d.regs.get 0 (msixKey fn 0x200)

/-- Store a function's pending bits. -/
def Dev.setPba (d : Dev) (fn : Nat) (w : Word) : Dev := { d with regs := d.regs.set 0 (msixKey fn 0x200) w }

/-- Send a vector; a masked one sets its pending bit instead (R420). -/
def Dev.msix (d : Dev) (fn v : Nat) : Dev :=
  let hi := d.msixWord fn (2 * v + 1)
  if bit hi 32 then d.setPba fn (setBit (d.pba fn) v true)
  else d.emit (.msix fn v 0 (d.msixWord fn (2 * v)) (hi &&& 0xFFFFFFFF))

-- EMCY (R340 … R342)

/-- Queue an EMCY: only in the NMT states pre-operational and operational, and at most 16 wait. -/
def Dev.pushEmcy (d : Dev) (e : Emcy) : Dev :=
  if (d.nmt = .preop ∨ d.nmt = .oper) ∧ d.emcy.length < 16 then { d with emcy := d.emcy ++ [e] } else d

/-- Keep a register word across power loss (R318, R382, R405). -/
def Nv.keepReg (nv : Nv) (r : Reg) (w : Word) : Nv := { nv with regs := nv.regs.set none r.offset (some w) }

/-- The kept word of a register, where one has been set. -/
def Nv.keptReg (nv : Nv) (r : Reg) : Option Word := nv.regs.get none r.offset

-- the error record (R330 … R339)

/-- The error sources of R336. -/
inductive Src where
  | memCeSram | memUeSram | memCeDram | memUeDram | frameCrc | remap | remapFull | scrubOverdue | walkBad | farErr
  | coupling | viaLost | chanDown | chanHold | viaSpare | abortTimeout | retired | falseStart | multiMatch | saturated
  | hurdleLost | voteAttn | relayStray | anchClamp | linkDown | linkAuth | linkProto | linkIngress | linkWindow
  | linkTimeout | linkUncorr | refLost | timeHoldover | sensorBroken | thermal | currentLimit | marginLow | pcieErr
  | cxlErr | flashErr
  deriving DecidableEq, Repr

/-- The code of a source. -/
def Src.code : Src → Fin 64
  | .memCeSram => 1 | .memUeSram => 2 | .memCeDram => 3 | .memUeDram => 4 | .frameCrc => 5 | .remap => 6
  | .remapFull => 7 | .scrubOverdue => 8 | .walkBad => 9 | .farErr => 10 | .coupling => 11 | .viaLost => 12
  | .chanDown => 13 | .chanHold => 14 | .viaSpare => 15 | .abortTimeout => 16 | .retired => 17 | .falseStart => 18
  | .multiMatch => 19 | .saturated => 20 | .hurdleLost => 21 | .voteAttn => 22 | .relayStray => 23 | .anchClamp => 24
  | .linkDown => 25 | .linkAuth => 26 | .linkProto => 27 | .linkIngress => 28 | .linkWindow => 29 | .linkTimeout => 30
  | .linkUncorr => 31 | .refLost => 32 | .timeHoldover => 33 | .sensorBroken => 34 | .thermal => 35
  | .currentLimit => 36 | .marginLow => 37 | .pcieErr => 38 | .cxlErr => 39 | .flashErr => 40

/-- The sources whose EMCY column reads "yes" (R336): the writable bits of ERR_EMCYEN. -/
def emcyYes : Word := Reg.reset .errEmcyen

/-- The EMCY of a source (R340): PART from WHO and SUBJ[15:0]. A diode's SENSOR_BROKEN is signalled by its
replacement cause only (R335). -/
def srcEmcy (s subj who : Nat) : Emcy :=
  { code := 0xFF00 + s,
    bytes := [s, if nbits who 31 28 = 1 ∨ nbits who 31 28 = 4 then nbits who 11 9 else 0, subj % 256, nbits subj 15 8, 0] }

/-- Whether an event of a source calls for an EMCY of its own. -/
def Dev.emcyOn (d : Dev) (s : Fin 64) (subj : Nat) : Bool :=
  bit (d.reg .errEmcyen) s.val && bit emcyYes s.val && !(s.val == 34 && decide (subj % 32 < 24))

/-- One event of a source (R333): the first since the last clear captures and signals, a later one sets OVER;
COUNT advances in either case. -/
def Dev.record (d : Dev) (now : Nat) (src : Src) (addr subj who : Nat) : Dev :=
  let s := src.code
  let st := satAdd (d.reg (.errStat s)) 31 0 1
  if bit st 63 then d.setReg (.errStat s) (setBit st 62 true)
  else
    let d := d.setReg (.errStat s) (setBit st 63 true)
    let d := d.setReg (.errAddr s) (BitVec.ofNat 64 addr)
    let d := d.setReg (.errId s) (fput 55 32 subj ||| fput 31 0 who)
    let d := d.setReg (.errTime s) (BitVec.ofNat 64 now)
    let d := if d.emcyOn s subj then d.pushEmcy (srcEmcy s.val subj who) else d
    if bit (d.reg .errIrqen) s.val then d.msix 1 2 else d

/-- Record an event on the state. -/
def State.record (s : State) (src : Src) (addr subj who : Nat) : State :=
  s.onDev fun d => d.record s.now src addr subj who

/-- Leave a change for Firmware's next descriptor update (R29, R351). -/
def Dev.change (d : Dev) (now : Nat) (c : Change) : Dev :=
  if d.updates.any fun e => e.2 == c then d else { d with updates := d.updates ++ [(now, c)] }

/-- A False start (R338): kind 1 task queue, 2 DMA channel, 3 Anchor; the target's number; the trigger's source. -/
def Dev.falseStart (d : Dev) (now kind target subj who : Nat) : Dev :=
  d.record now .falseStart (4096 * kind + target % 4096) subj who

-- access rules (R8, R418)

/-- Whether an origin may write a register (R418): Firmware writes every register. -/
def originMayWrite (o : Origin) (r : Reg) : Bool :=
  match o with
  | .firmware => true
  | .fn0 => r.writers.testBit 0
  | .fn1 => r.writers.testBit 1

/-- The PCIe function of an origin. -/
def originFn : Origin → Nat
  | .fn0 => 0
  | _ => 1

/-- A write by the type of each bit (R8): RW bits stored, W1C bits cleared where 1 is written. -/
def storeTyped (r : Reg) (old v : Word) : Word :=
  (((old &&& ~~~(r.rw)) ||| (v &&& r.rw)) &&& ~~~(r.w1c &&& v))

/-- A BAR0 write from a function that may not make it (R418): nothing is written, DENIED advances, its offset is
kept, and it is reported as an advisory error. -/
def Dev.deny (d : Dev) (o : Origin) (off : Nat) : Dev :=
  (d.modReg .hostStat fun w => setFld (satAdd w 63 48 1) 25 0 off).emit (.advisory (originFn o) off)

/-- Whether the block of a register answers: hub blocks once the hub is up, a partition's block while it is up
(R357, R363); with both firmware slots failed only STRT, HOST and staging through function 1 (R434). -/
def Dev.answers (d : Dev) (o : Origin) (r : Reg) : Bool :=
  if d.phase = 15 then
    d.powered && (o != .fn0) && decide ((0x700000 ≤ r.offset ∧ r.offset < 0x700080) ∨ (0x900000 ≤ r.offset ∧ r.offset < 0x900210) ∨ 0x1000000 ≤ r.offset)
  else match r.part with
    | none => d.hubUp
    | some p =>
      if r.offset < 0x30000 ∨ (0x700000 ≤ r.offset ∧ r.offset < 0x900000) then d.hubUp
      else d.partUp p

/-- Whether a partition's block is that of a fused partition: it reads as zero and ignores writes (R147, R186). -/
def Nv.fusedReg (nv : Nv) (r : Reg) : Bool :=
  match r.part with
  | some p => !nv.part.enabled p
  | none => match r with
    | .linkPcfg n | .linkPcmd n | .linkPstat n | .linkPeer n | .linkPerr n | .linkPfec n | .linkRcap n | .linkVcbuf n =>
      !nv.part.enabled (portPart n)
    | _ => false

end Sys2Proof.Machine
end

