-- ==== Sys2Proof/Machine/Journal.lean ====
section
/-! DEFINITION. The change journal (R406 … R410), the dictionary entries that mirror register fields (R389, R404), and
the common course of register writes and reads (R8, R357, R396, R418). -/

namespace Sys2Proof.Machine

/-- The 32 bytes of an entry (R407). -/
def JEntry.bytes (e : JEntry) : List Byte :=
  leBytes 8 e.time.toNat ++ leBytes 4 e.origin ++ leBytes 2 e.index ++ leBytes 1 e.sub ++ leBytes 1 e.result ++
    leBytes 8 e.old.toNat ++ leBytes 8 e.new.toNat

/-- H of the entry before the oldest one in RAM; H(−1) is the digest of SERIAL (R408). -/
def Nv.jBase (nv : Nv) : List Byte :=
  if nv.journal.base = [] then sha256 (leBytes 8 nv.part.serial.toNat) else nv.journal.base

/-- The chain over a run of entries (R408). -/
def chain (h : List Byte) (l : List JEntry) : List Byte := l.foldl (fun h e => sha256 (h ++ e.bytes)) h

/-- H(HEAD_SEQ − 1). -/
def Nv.jHead (nv : Nv) : List Byte := chain nv.jBase nv.journal.ram

/-- Entries that wait to be written to flash. -/
def Journal.waiting (j : Journal) : Nat := j.head - j.persisted

/-- Sequence of the oldest entry in RAM. -/
def Journal.oldestRam (j : Journal) : Nat := j.head - j.ram.length

/-- Sequence of the oldest entry in flash. -/
def Journal.oldestFlash (j : Journal) : Nat := match j.flash with
  | b :: _ => b.first
  | [] => j.persisted

/-- 16,128 entries wait: dictionary writes are refused (R409). -/
def Journal.full (j : Journal) : Bool := decide (16128 ≤ j.waiting)

/-- The oldest RAM entry gives up its place; one that has not been written to flash is dropped (R409). -/
def Nv.jShift (nv : Nv) : Nv :=
  match nv.journal.ram with
  | [] => nv
  | e :: r =>
    let j := nv.journal
    let q := j.oldestRam
    let base := sha256 (nv.jBase ++ e.bytes)
    if q < j.persisted then { nv with journal := { j with ram := r, base := base } }
    else
      let gap := match j.gap with
        | some (f, n) => some (f, n + 1)
        | none => some (q, 1)
      { nv with journal := { j with ram := r, base := base, persisted := q + 1, lost := min (2 ^ 32 - 1) (j.lost + 1), gap := gap } }

/-- Append an entry (R406, R409): RAM holds 16,384. -/
def Nv.jAppend (nv : Nv) (e : JEntry) : Nv :=
  let nv := if 16384 ≤ nv.journal.ram.length then nv.jShift else nv
  { nv with journal := { nv.journal with ram := nv.journal.ram ++ [e], head := nv.journal.head + 1 } }

/-- Origin of a device-originated change: class 0x4, the hub (log entry 50). -/
def Dev.selfOrigin (d : Dev) : Nat := idHub d.devId

/-- Journal an event at the present moment. -/
def State.journal (s : State) (origin index sub result old new : Nat) : State :=
  s.onNv fun nv => nv.jAppend
    { time := BitVec.ofNat 64 s.now, origin := origin, index := index, sub := sub, result := result
      old := BitVec.ofNat 64 old, new := BitVec.ofNat 64 new }

/-- Journal a device-originated change (R406). -/
def State.journalSelf (s : State) (index sub old new : Nat) : State := s.journal s.dev.selfOrigin index sub 4 old new

/-- The newest blocks that together hold at most 262,144 entries; the oldest are overwritten. -/
def trimBlocks : List JBlock → List JBlock
  | [] => []
  | b :: r => if 262144 < ((b :: r).map fun x => x.entries.length).sum then trimBlocks r else b :: r

/-- The bytes of a flash block (R409). -/
def JBlock.bytes (b : JBlock) : List Byte :=
  leBytes 8 b.first ++ leBytes 2 b.entries.length ++ List.replicate 6 0 ++ (b.entries.map JEntry.bytes).flatten ++ b.hash

/-- Write one block of up to 64 waiting entries to flash (R409). -/
def Nv.jFlush (nv : Nv) : Nv :=
  let j := nv.journal
  let n := min 64 j.waiting
  if n = 0 then nv
  else
    let at' := j.ram.length - j.waiting
    let es := (j.ram.drop at').take n
    let b : JBlock := { first := j.persisted, entries := es, hash := chain nv.jBase (j.ram.take (at' + n)) }
    { nv with journal := { j with flash := trimBlocks (j.flash ++ [b]), persisted := j.persisted + n } }

/-- Flush until nothing waits; `k` bounds the number of blocks. -/
def Nv.jFlushAll : Nat → Nv → Nv
  | 0, nv => nv
  | k + 1, nv => if nv.journal.waiting = 0 then nv else Nv.jFlushAll k nv.jFlush

/-- Once space returns, entries that were dropped are journalled as a gap (R406, R409). -/
def State.jGap (s : State) : State :=
  match s.nv.journal.gap with
  | some (f, n) =>
    (s.onNv fun nv => { nv with journal := { nv.journal with gap := none } }).journal s.dev.selfOrigin 0x2700 0xFF 5 f n
  | none => s

/-- Power is lost: entries not in flash are lost with it (R405). -/
def Nv.jLose (nv : Nv) : Nv :=
  let j := nv.journal
  { nv with journal := { j with
      base := chain nv.jBase (j.ram.take (j.ram.length - j.waiting)), ram := [], head := j.persisted, gap := none } }

-- mirrored register fields (R389, R404)

/-- Parts of a register, low part first, as [hi:lo] pairs. -/
abbrev Parts := List (Nat × Nat)

/-- The value of the parts of a word, one above the other. -/
def partsGet (w : Word) : Parts → Nat
  | [] => 0
  | (hi, lo) :: r => fld w hi lo + 2 ^ (hi + 1 - lo) * partsGet w r

/-- A word with a value put into its parts. -/
def partsPut (w : Word) : Parts → Nat → Word
  | [], _ => w
  | (hi, lo) :: r, v => partsPut (setFld w hi lo v) r (v / 2 ^ (hi + 1 - lo))

/-- The writable entries that mirror fields of a register: index, subindex, parts (R404). -/
def mirrorsOf : Reg → List (Nat × Nat × Parts)
  | .linkGcfg => [(0x2000, 3, [(63, 48)]), (0x2400, 1, [(47, 32)])]
  | .paceGcfg => [(0x2100, 1, [(63, 52)]), (0x2100, 2, [(51, 40)]), (0x2100, 3, [(39, 36)]), (0x2100, 4, [(35, 28)]),
      (0x2100, 5, [(27, 20)])]
  | .pacePhrd i => [(0x2101, i.val + 1, [(15, 0), (63, 63)])]
  | .pacePcfg p => [(0x2120 + p.val, 1, [(63, 54)]), (0x2120 + p.val, 2, [(53, 44)]), (0x2120 + p.val, 3, [(43, 35)]),
      (0x2120 + p.val, 4, [(34, 26)]), (0x2120 + p.val, 5, [(0, 0)])]
  | .thermCfg => [(0x2200, 1, [(63, 56)]), (0x2200, 2, [(55, 48)]), (0x2200, 3, [(47, 40)])]
  | .errStat s => [(0x2300 + s.val, 1, [(63, 0)])]
  | .errEmcyen => [(0x2381, 0, [(63, 0)])]
  | .errIrqen => [(0x2382, 0, [(63, 0)])]
  | .linkPcfg n => [(0x2410 + n.val, 1, [(0, 0), (1, 1)])]
  | .linkRcap n => [(0x2410 + n.val, 7, [(63, 48)]), (0x2410 + n.val, 8, [(47, 32)])]
  | .sliceCfg p => [(0x2500 + p.val, 1, [(3, 0)]), (0x2500 + p.val, 2, [(8, 8)])]
  | .sliceRmctl p => [(0x2500 + p.val, 3, [(3, 0)])]
  | .sliceScrub p => [(0x2500 + p.val, 4, [(31, 16)]), (0x2500 + p.val, 5, [(0, 0)])]
  | .trainStep => [(0x2600, 1, [(31, 0)]), (0x2600, 2, [(63, 32)])]
  | .trainLs => [(0x2600, 3, [(7, 0)]), (0x2600, 4, [(63, 63)]), (0x2600, 5, [(62, 48)]), (0x2600, 6, [(23, 16)]),
      (0x2600, 7, [(31, 24)])]
  | _ => []

/-- Whether an entry's persistence class is auto (R404). -/
def autoEntry (index sub : Nat) : Bool :=
  (decide (0x2100 ≤ index ∧ index < 0x2300)) || index == 0x2381 || index == 0x2382 ||
    decide (0x2400 ≤ index ∧ index < 0x2500) || (decide (0x2500 ≤ index ∧ index < 0x2600) && sub != 3) ||
    (index == 0x2000 && sub == 6)

/-- A key for entry values that no register holds: 2^40 + 256 × index + subindex. -/
def entryKey (index sub : Nat) : Nat := 2 ^ 40 + 256 * index + sub

/-- Remember that an auto entry has changed (R405). -/
def Dev.touchAuto (d : Dev) (key : Nat) : Dev := if d.dirty.contains key then d else { d with dirty := d.dirty ++ [key] }

/-- After a write of a register, the auto entries it changed await their flash update (R405). -/
def State.markAuto (s t : State) (r : Reg) : State :=
  if (mirrorsOf r).any fun m => autoEntry m.1 m.2.1 && partsGet (s.dev.reg r) m.2.2 != partsGet (t.dev.reg r) m.2.2 then
    t.onDev fun d => d.touchAuto r.offset
  else t

/-- Journal what a BAR0 write from a Host function did to the fields that writable entries mirror (R396, R406): applied
changes, and attempts the register's rules refused. `s` is the state before the write, `v` the word written. -/
def State.journalWrite (s t : State) (o : Origin) (r : Reg) (v : Word) (denied : Bool) : State :=
  if o = .firmware then t
  else (mirrorsOf r).foldl (fun t m =>
    let old := partsGet (s.dev.reg r) m.2.2
    let new := partsGet (t.dev.reg r) m.2.2
    let want := partsGet v m.2.2
    let own := match r with
      | .errStat _ | .errEmcyen | .errIrqen => true
      | _ => false
    if s.nv.journal.full || (old == new && (want == old || own)) then t
    else t.journal (idOrigin s.dev.devId o) m.1 m.2.1 (if denied then 1 else if old == new then 2 else 0) old (if old == new then want else new)) t

-- the common course of register accesses

/-- The common course of a register write (R357, R418): answered with Completer Abort while its block is not up,
denied to the wrong function, ignored in a fused partition's block, and otherwise `f`. -/
def State.regWrite (s : State) (o : Origin) (r : Reg) (f : State → State) : State :=
  if s.nv.fusedReg r then s
  else if !s.dev.answers o r then s.onDev fun d => d.emit (.abort (originFn o) r.offset)
  else if !originMayWrite o r then s.onDev fun d => d.deny o r.offset
  else f s

/-- The course of a write of `v` to a register whose fields dictionary entries mirror: as `regWrite`, journalled (R396). -/
def State.regWriteV (s : State) (o : Origin) (r : Reg) (v : Word) (f : State → State) : State :=
  if s.nv.fusedReg r then s
  else if !s.dev.answers o r then s.onDev fun d => d.emit (.abort (originFn o) r.offset)
  else if !originMayWrite o r then s.journalWrite (s.onDev fun d => d.deny o r.offset) o r v true
  else s.journalWrite (s.markAuto (f s) r) o r v false

/-- A read of a register with RC fields (R8): they are returned and then set to their after-reset value. -/
def State.readClear (s : State) (o : Origin) (r : Reg) (w : Word) : State :=
  if s.nv.fusedReg r then s.onDev fun d => d.emit (.read (originFn o) r.offset 0)
  else if !s.dev.answers o r then s.onDev fun d => d.emit (.abort (originFn o) r.offset)
  else s.onDev fun d =>
    (d.modReg r fun x => (x &&& ~~~r.rc) ||| (r.reset &&& r.rc)).emit (.read (originFn o) r.offset w)

end Sys2Proof.Machine
end

