-- ==== Sys2Proof/Machine/Messages.lean ====
section
/-! DEFINITION. Sending messages through the ports: the flits of a message (R294, R296) and the queues of a
port (R305); the route to a device (R319). -/

namespace Sys2Proof.Machine

/-- A port's state behind its registers. -/
def Dev.port (d : Dev) (n : PortIx) : Port := d.ports.get {} n.val

/-- Store a port's state. -/
def Dev.setPort (d : Dev) (n : PortIx) (p : Port) : Dev := { d with ports := d.ports.set {} n.val p }

/-- Change a port's state. -/
def Dev.modPort (d : Dev) (n : PortIx) (f : Port → Port) : Dev := d.setPort n (f (d.port n))

/-- LINK_PSTAT.STATE (R308). -/
def Dev.portState (d : Dev) (n : PortIx) : Nat := fld (d.reg (.linkPstat n)) 63 60

/-- The port with a number 0 … 63. -/
def portIx (n : Nat) : Option PortIx := if h : n < 64 then some ⟨n, h⟩ else none

/-- Data flits of a message after its header flit: 232 bytes each (R294). Each remembers the header of its message, which it
does not carry. -/
def dataFlits (vc : Nat) (m : Msg) : Nat → List Byte → List Flit
  | 0, _ => []
  | k + 1, l => { vc := vc, kind := .data, lastf := k == 0, trans := some m, data := padTo 232 0 l } :: dataFlits vc m k (l.drop 232)

/-- The flits of a message (R296): 1 + ceil(max(0, B − 216) ÷ 232). -/
def msgFlits (vc : Nat) (m : Msg) : List Flit :=
  let k := ceilDiv (m.data.length - 216) 232
  { vc := vc, kind := .header, lastf := k == 0, trans := some { m with data := [] }, data := padTo 216 0 m.data }
    :: dataFlits vc { m with data := [] } k (m.data.drop 216)

/-- Queue a message on a port's virtual channel for source `src` (R305). -/
def Dev.enqueue (d : Dev) (n : PortIx) (vc src : Nat) (m : Msg) : Dev :=
  d.modPort n fun p => { p with txq := p.txq ++ [{ vc := vc, src := src, msg := m, flits := msgFlits vc m }] }

/-- The source number of the hub at a port. -/
def hubSrc : Nat := 8

/-- A management message of one header flit (R300) to the Partner of a port that is UP or retraining; to any other
port nothing is sent. -/
def Dev.manage (d : Dev) (n : PortIx) (op : Nat) (data : List Byte) : Dev :=
  if d.portState n = 5 ∨ d.portState n = 6 then
    d.enqueue n 3 hubSrc { src := d.devId, dst := (d.port n).peerDev, op := op, data := padTo 32 0 data }
  else d

/-- A HURDLE message (R300): KIND 0 arrival, 1 failure report, 2 release, 3 failure decision. -/
def Dev.sendHurdle (d : Dev) (n : PortIx) (h gen kind : Nat) (flag : Bool) (code : Nat) : Dev :=
  d.manage n 0x10 (leBytes 2 h ++ leBytes 2 gen ++ leBytes 1 kind ++ leBytes 1 flag.toNat ++ leBytes 1 code)

/-- Free Batons of the receive buffer (R304); those of the request and reduction channels are withheld while the token
bucket is empty (R324), so they wait in `owed`. -/
def Port.freeBatons (p : Port) (vc n : Nat) : Port :=
  if vc = 0 ∨ vc = 2 then { p with owed := p.owed.modify 0 vc (· + n) }
  else { p with bcumOut := p.bcumOut.modify 0 vc fun b => (b + n) % 4096 }

/-- The oldest message a port has delivered on a virtual channel. -/
def Port.oldest (p : Port) (vc : Nat) : Option RxMsg := p.rx.find? fun m => m.vc == vc

/-- When the oldest message of a virtual channel arrived. -/
def Port.oldestCame (p : Port) (vc : Nat) : Nat := ((p.oldest vc).map (·.came)).getD 0

/-- The oldest message of a virtual channel leaves the receive buffer (R304). -/
def Port.take (p : Port) (vc : Nat) : Port :=
  match p.oldest vc with
  | none => p
  | some m => { p with rx := p.rx.eraseP fun m => m.vc == vc }.freeBatons m.vc m.flits

/-- Carry out `f` on the oldest message of a virtual channel of a port when it is of this kind; the message is consumed.
Messages of one channel are taken in order, those of different channels in any. -/
def State.withMsg (s : State) (n : PortIx) (vc : Nat) (p : Msg → Bool) (f : Msg → State → State) : State :=
  match (s.dev.port n).oldest vc with
  | some m => if p m.msg then f m.msg (s.onDev fun d => d.modPort n fun x => x.take vc) else s
  | none => s

/-- Byte `i` of a message's data. -/
def Msg.byte (m : Msg) (i : Nat) : Nat := (m.data.getD i 0).toNat

/-- The 16-bit field at byte `i` of a message's data. -/
def Msg.half (m : Msg) (i : Nat) : Nat := m.byte i + 256 * m.byte (i + 1)

/-- Route entry `i` (R319, R329): V, PRIO, PORT, ALT, MASK, MATCH, INGRESS. -/
def Dev.routeLo (d : Dev) (i : Fin 512) : Word := d.reg (.linkRoute i 0)

/-- Whether route entry `i` matches a destination. -/
def Dev.routeMatches (d : Dev) (i : Fin 512) (dst : Nat) : Bool :=
  let w := d.routeLo i
  bit w 63 && decide (dst &&& fld w 31 16 = fld w 15 0 &&& fld w 31 16)

/-- The winning entries for a destination: those of the highest PRIO, lowest index first. -/
def Dev.routeWinners (d : Dev) (dst : Nat) : List (Fin 512) :=
  let l := (List.finRange 512).filter (fun i => d.routeMatches i dst)
  let best := l.foldl (fun b i => max b (fld (d.routeLo i) 62 59)) 0
  l.filter (fun i => fld (d.routeLo i) 62 59 == best)

/-- Where a message goes. -/
inductive Egress where
  | port (n : PortIx) | down | none
  deriving DecidableEq, Repr

/-- A port a route may use: UP, or RETRAIN where the message waits in order; a retired port never. -/
def Dev.usable (d : Dev) (n : Nat) : Option PortIx :=
  match portIx n with
  | some n => if d.portState n = 5 ∨ d.portState n = 6 then some n else none
  | none => none

/-- The egress for a destination as it stands, with nothing recorded. -/
def Dev.egress (d : Dev) (dst : Nat) : Egress :=
  match d.routeWinners dst with
  | [] => .none
  | i :: _ =>
    let w := d.routeLo i
    match (d.usable (fld w 55 49)).orElse fun _ => d.usable (fld w 48 42) with
    | some n => .port n
    | none => .down

/-- Requests of this device whose destination has another egress now than the one they left through are marked: new requests to that
destination wait for them (R321). -/
def Dev.markEgress (d : Dev) : Dev :=
  { d with remotes := d.remotes.map fun e => (e.1, e.2.map fun r => match r.via with
      | some n => if d.egress r.msg.dst = .port n then r else { r with moved := true }
      | none => r) }

/-- The egress for a destination (R319); several winners of one PRIO record MULTI_MATCH with the index that wins. -/
def Dev.route (d : Dev) (now dst : Nat) : Egress × Dev :=
  match d.routeWinners dst with
  | [] => (.none, d)
  | i :: more =>
    let d := if more.isEmpty then d else
      d.record now .multiMatch dst (0x100000 + i.val) (idHub d.devId)
    (d.egress dst, d)

end Sys2Proof.Machine
end

