-- ==== Sys2Proof/Machine/Banks.lean ====
section
/-! DEFINITION. The Hurdle banks and the hub's part of spanning Hurdles (R262 … R278): arrivals, releases,
failures, waits and acquirers as operations on one Hurdle at a time. -/

namespace Sys2Proof.Machine

/-- Read an x register; x0 reads 0. -/
def Core.getX (k : Core) (r : RegNum) : Word := if r.val = 0 then 0 else k.x.get 0 r.val

/-- Write an x register; a write of x0 is discarded. -/
def Core.setX (k : Core) (r : RegNum) (v : Word) : Core :=
  if r.val = 0 then k else { k with x := k.x.set 0 r.val v }

/-- An instruction of `len` bytes has completed: the pc moves past it and instret advances. -/
def Core.retire (k : Core) (len : Nat := 4) : Core :=
  { k with pc := k.pc + BitVec.ofNat 64 len, instret := k.instret + 1 }

/-- A Hurdle's state. -/
def Dev.hurdle (d : Dev) (h : Nat) : Hurdle := d.hurdles.get {} h

/-- Store a Hurdle's state. -/
def Dev.setHurdle (d : Dev) (h : Nat) (x : Hurdle) : Dev := { d with hurdles := d.hurdles.set {} h x }

/-- Change a Hurdle's state. -/
def Dev.modHurdle (d : Dev) (h : Nat) (f : Hurdle → Hurdle) : Dev := d.setHurdle h (f (d.hurdle h))

/-- MODE of HRD_CFG. -/
def Hurdle.mode (x : Hurdle) : Nat := fld x.cfg 63 60
/-- REARM. -/
def Hurdle.rearm (x : Hurdle) : Bool := bit x.cfg 59
/-- SPAN. -/
def Hurdle.span (x : Hurdle) : Bool := bit x.cfg 58
/-- SLOT: the span table entry. -/
def Hurdle.slot (x : Hurdle) : Fin 256 := Fin.ofNat 256 (fld x.cfg 55 48)
/-- TARGET. -/
def Hurdle.target (x : Hurdle) : Nat := fld x.cfg 31 16
/-- The flag's identity value: 1 for FLAG_AND. -/
def flagIdentity (mode : Nat) : Bool := mode == 5
/-- Combine a flag by mode. -/
def flagOp (mode : Nat) (a b : Bool) : Bool := if mode = 5 then a && b else if mode = 4 then a || b else false

/-- The entry a holder takes: joins of one core share one. -/
def Holder.key : Holder → Nat
  | .task c | .soft c | .dma c _ => c.val
  | .anchor p => 1000 + p.val
  | .link n dev => 2000 + 65536 * n.val + dev

/-- HOLDERS: participants holding the Hurdle. -/
def Hurdle.holderCount (x : Hurdle) : Nat := (nub (x.holders.map Holder.key)).length

/-- HRD_STATE as read (R265). -/
def Hurdle.stateWord (x : Hurdle) : Word :=
  fput 63 62 x.state ||| fput 61 61 x.result.toNat ||| fput 60 56 x.code ||| fput 55 55 x.orphan.toNat |||
    fput 47 32 x.gen ||| fput 31 16 x.holderCount ||| fput 15 0 x.count

/-- Codes of a result word (R271). -/
abbrev HCode := Nat

/-- The result word of an operation (R271). -/
def Hurdle.resultWord (x : Hurdle) (h : Nat) (code : HCode) : Word :=
  fput 63 62 x.state ||| fput 61 61 x.result.toNat ||| fput 60 56 code ||| fput 47 32 x.gen ||| fput 31 16 h |||
    fput 15 0 x.count

/-- HRD_OP completes on a core: the result word reaches rd and stays the last result. -/
def Core.hrdDone (k : Core) (rd : RegNum) (w : Word) : Core :=
  { (k.setX rd w).retire with hrdRes := w, stall := .none }

/-- A core stalled at Hurdle `h` resumes with a result word. -/
def Dev.wakeCore (d : Dev) (c : CoreIx) (h : Nat) (w : Word) : Dev :=
  match (d.core c).stall with
  | .hurdle h' rd => if h'.val = h then d.modCore c fun k => k.hrdDone rd w else d
  | _ => d

/-- A queue's state. -/
def Dev.queue (d : Dev) (p : PartIx) (q : QueueIx) : Queue := d.queues.get {} (64 * p.val + q.val)

/-- Change a queue's state. -/
def Dev.modQueue (d : Dev) (p : PartIx) (q : QueueIx) (f : Queue → Queue) : Dev :=
  { d with queues := d.queues.modify {} (64 * p.val + q.val) f }

/-- A wait ends (R266): a stalled core resumes, a registration posts its event and is freed, a queue's head goes on. -/
def Dev.endWait (d : Dev) (h : Nat) (word : Word) (ok : Bool) (w : Waiter) : Dev :=
  match w.who with
  | .core c => d.wakeCore c h word
  | .note c => d.modCore c fun k => { k with events := k.events ++ [word] }
  | .head p q => d.modQueue p q fun x => { x with stage := .released ok }

/-- Every waiting acquirer ends failed. -/
def Dev.endAcqs (d : Dev) (h : Nat) (word : Word) (l : List (CoreIx × Nat)) : Dev :=
  l.foldl (fun d a => d.wakeCore a.1 h word) d

/-- Whether a wait with generation g ends at generation `gen` (R266). -/
def genPassed (gen g : Nat) : Bool :=
  let k := (gen + 65536 - g % 65536) % 65536
  decide (1 ≤ k ∧ k ≤ 32767)

/-- Whether a wait with generation g ends as GEN advances by `n` from `gen` (R266): at one of the generations passed. -/
def genReached (gen n g : Nat) : Bool :=
  let k := (gen + 65536 - g % 65536) % 65536
  decide (1 ≤ n ∧ (k ≤ 32766 ∨ 65537 ≤ k + n))

/-- Span entry words of slot `s` (R275): CHILDREN, PARENT, V, INDEX in the low half, PORTS in the high half. -/
def Dev.spanLo (d : Dev) (s : Fin 256) : Word := d.reg (.span s 0)
@[inherit_doc Dev.spanLo]
def Dev.spanHi (d : Dev) (s : Fin 256) : Word := d.reg (.span s 1)

/-- Send a decision down every port on which a child arrived (R277). -/
def Dev.sendDown (d : Dev) (h : Nat) (x : Hurdle) (kind : Nat) (flag : Bool) (code : Nat) : Dev :=
  (nub (x.kids.map (·.1))).foldl (fun d n => d.sendHurdle n h x.gen kind flag code) d

/-- The outcome of a vote that an Anchor still has to act on: once a decision has been made, no loss takes its place (R257). -/
def Anchor.decide (a : Anchor) (res : Option Bool) : Option (Option Bool) :=
  match res, a.outcome with
  | none, some (some r) => some (some r)
  | res, _ => some res

/-- Anchors that wait for this Hurdle's outcome see it: a release of START_H is a trigger (R260), an outcome of VOTE_H
waits for the vote's commands (R252); in FOLD only a failure of it matters. -/
def Dev.tellAnchors (d : Dev) (h : Nat) (res : Option Bool) : Dev :=
  (List.finRange 8).foldl (fun d p =>
    let ctl := d.reg (.anchCtl p)
    let st := fld (d.reg (.anchStat p)) 63 61
    let d := if res.isSome && bit ctl 15 && fld ctl 31 16 == h then
        { d with anchors := d.anchors.modify {} p.val (fun a => { a with trigs := a.trigs + 1 }) } else d
    if fld ctl 63 48 == h && (st == 2 || st == 5 || (st == 1 && res.isNone)) then
      { d with anchors := d.anchors.modify {} p.val (fun a => { a with outcome := a.decide res }) }
    else d) d

-- pacing (R380)

/-- The pacing Hurdles named with V = 1. -/
def Dev.isPacing (d : Dev) (h : Nat) : Bool :=
  (List.finRange 4).any (fun i => bit (d.reg (.pacePhrd i)) 63 && fld (d.reg (.pacePhrd i)) 15 0 == h)

/-- Remember the last arrival of a partition at a pacing Hurdle. -/
def Dev.paceArrive (d : Dev) (now h : Nat) (p : Option PartIx) : Dev :=
  match p with
  | some p => if d.isPacing h then { d with phArr := d.phArr.set 0 (8 * h + p.val) (now + 1) } else d
  | none => d

/-- VHI and VLO in force (R386): limited to 600 … 850 mV, a VLO above VHI acting as VHI. -/
def Dev.vhi (d : Dev) (p : PartIx) : Nat := clampN 600 850 (fld (d.reg (.pacePcfg p)) 63 54)
@[inherit_doc Dev.vhi]
def Dev.vlo (d : Dev) (p : PartIx) : Nat := min (d.vhi p) (clampN 600 850 (fld (d.reg (.pacePcfg p)) 53 44))

/-- A partition's Pacer state. -/
def Dev.paceOf (d : Dev) (p : PartIx) : Pace := d.pace.get {} p.val
/-- Change it. -/
def Dev.modPace (d : Dev) (p : PartIx) (f : Pace → Pace) : Dev := { d with pace := d.pace.modify {} p.val f }

/-- The issue stages of a partition are closed: a halt (R381), or the rest of an interval whose allowance is spent (R374). -/
def Dev.partClosed (d : Dev) (p : PartIx) : Bool := bit (d.reg (.pacePstat p)) 47 || (d.paceOf p).rested

/-- The issue stages that serve a core are closed, by its partition or by a droop of its cluster (R377, R381). -/
def Dev.coreClosed (d : Dev) (c : CoreIx) : Bool :=
  d.partClosed (corePart c) || (d.paceOf (corePart c)).closed.contains (coreCluster c).val

/-- A window of 2^WLOG releases ends (R380): V_pace of each pacing partition, PACE_SLACK. -/
def Dev.paceWindow (d : Dev) (now period : Nat) : Dev :=
  let g := d.reg .paceGcfg
  (List.finRange 8).foldl (fun d p =>
    let x := d.paceOf p
    if x.slackN = 0 then d else
    let mean := x.slackSum / x.slackN
    let hi := fld g 35 28 * period / 256
    let lo := fld g 27 20 * period / 256
    let v := if !bit (d.reg (.pacePcfg p)) 0 || decide (now < x.paceAt + 100000) then x.vPace
      else if hi ≤ mean ∧ lo ≤ x.slackMin then max (d.vlo p) (x.vPace - 5)
      else if mean < lo then min (d.vhi p) (x.vPace + 5) else x.vPace
    let d := d.modReg (.paceSlack p) fun w => wrapAdd
      (setFld (setFld (setFld w 63 48 (min 65535 (mean / 64))) 47 32 (min 65535 (x.slackMin / 64))) 31 16
        (min 65535 (period / 64))) 15 0 1
    d.modPace p fun x =>
      { x with slackSum := 0, slackN := 0, slackMin := 0, vPace := v, paceAt := if v = x.vPace then x.paceAt else now }) d

/-- A pacing Hurdle releases: every partition that arrived in the generation records its slack. -/
def Dev.paceRelease (d : Dev) (now h : Nat) : Dev :=
  if !d.isPacing h then d else
  let d := (List.finRange 8).foldl (fun d p =>
    let t := d.phArr.get 0 (8 * h + p.val)
    if t = 0 then d else
    let sl := now - (t - 1)
    let d := { d with phArr := d.phArr.erase (8 * h + p.val) }
    d.modPace p fun x =>
      { x with slackSum := x.slackSum + sl, slackMin := if x.slackN = 0 then sl else min x.slackMin sl,
               slackN := x.slackN + 1 }) d
  let k := d.package
  let n := k.releases + 1
  let wlog := clampN 2 12 (fld (d.reg .paceGcfg) 39 36)
  let k := { k with releases := n, first := if n = 1 ∧ k.lastRel = 0 then now else if n = 1 then k.lastRel else k.first,
                    lastRel := now }
  if n < 2 ^ wlog then { d with package := k } else
  ({ d with package := { k with releases := 0 } }).paceWindow now ((now - k.first) / n)

-- release and failure (R264, R269)

/-- A spanning Hurdle with TARGET 0 that is armed again by its release passes the identity flag on at once (R263): it waits for
its children, or sends its own arrival toward the parent where it has none (log entry 106). -/
def Dev.passAgain (d : Dev) (h : Nat) : Dev :=
  let x := d.hurdle h
  let e := d.spanLo x.slot
  if x.state = 1 ∧ x.span ∧ x.target = 0 then
    match portIx (fld e 46 40) with
    | some n =>
      if fld e 27 16 = 0 then
        (d.setHurdle h { x with passed := true, sent := true }).sendHurdle n h x.gen 0 (flagOp x.mode x.flag x.kidFlag) 0
      else d.setHurdle h { x with passed := true }
    | none => d.setHurdle h { x with passed := true }
  else d

/-- Release a Hurdle with RESULT `res` (R264): GEN advances, once for each whole TARGET of a re-arming COUNTER;
holds end; the waits that this generation ends, end; REARM decides the state after. -/
def Dev.release (d : Dev) (now h : Nat) (res : Bool) : Dev :=
  let x := d.hurdle h
  let again := x.rearm && x.mode == 1
  let n := if again then x.count / max 1 x.target else 1
  let y : Hurdle := { x with
    gen := (x.gen + n) % 65536
    result := res
    code := 0
    state := if x.rearm then 1 else 2
    count := if again then x.count % max 1 x.target else if x.rearm then 0 else min x.count 65535
    flag := flagIdentity x.mode
    holders := []
    orphan := false
    passed := !x.rearm && x.passed
    kids := if x.rearm then [] else x.kids
    kidFlag := flagIdentity x.mode
    sent := !x.rearm && x.sent
    decided := if x.span && !x.rearm then some (x.gen, some res) else none }
  let ends := x.waits.filter (fun w => match w.gen with | none => true | some g => genReached x.gen n g)
  let stay := x.waits.filter (fun w => match w.gen with | none => false | some g => !genReached x.gen n g)
  let d := d.setHurdle h { y with waits := stay }
  let d := ends.foldl (fun d w => d.endWait h (y.resultWord h 0) true w) d
  ((List.range n).foldl (fun d _ => (d.tellAnchors h (some res)).paceRelease now h) d).passAgain h

/-- Fail a Hurdle with CODE 1 PARTICIPANT_LOST or 2 FORCED (R269, R272): holds are dropped, every wait and every
waiting ACQUIRE ends failed. A loss records HURDLE_LOST with the bank as the detecting unit (log entry 12). -/
def Dev.failHurdle (d : Dev) (now h : Nat) (code : Nat) : Dev :=
  let x := d.hurdle h
  let y : Hurdle := { x with
    state := 3, code := code, holders := [], waits := [], acqs := [], orphan := false
    decided := if x.span then some (x.gen, none) else none }
  let d := d.setHurdle h y
  let w := y.resultWord h code
  let d := x.waits.foldl (fun d a => d.endWait h w false a) d
  let d := d.endAcqs h w x.acqs
  let d := if code = 1 then d.record now .hurdleLost 0 h (idUnit d.devId (h / 8192) (1 + h / 1024 % 8)) else d
  d.tellAnchors h none

/-- The device decides at the root, or passes the subtree's arrival upward, once the local part and every child have
arrived (R277). -/
def Dev.spanCheck (d : Dev) (now h : Nat) : Dev :=
  let x := d.hurdle h
  let e := d.spanLo x.slot
  if x.state = 1 ∧ x.span ∧ x.passed ∧ fld e 27 16 ≤ x.kids.length ∧ !x.sent then
    let flag := flagOp x.mode x.flag x.kidFlag
    match portIx (fld e 46 40) with
    | some n => (d.setHurdle h { x with sent := true }).sendHurdle n h x.gen 0 flag 0
    | none => (d.sendDown h x 2 flag 0).release now h flag
  else d

/-- The home bank passes the flag to the hub once COUNT reaches TARGET; with TARGET 0 as soon as it is ARMED. -/
def Dev.spanPass (d : Dev) (now h : Nat) : Dev :=
  let x := d.hurdle h
  if x.state = 1 ∧ x.span ∧ x.count = x.target then
    (d.setHurdle h { x with passed := true }).spanCheck now h
  else d

/-- A Hurdle is lost (R269, R278): an ordinary one fails; a spanning one fails at once, reports upward and sends the
failure down, unless its arrival has left, when the loss is only reported upward. -/
def Dev.loseHurdle (d : Dev) (now h : Nat) (code : Nat) : Dev :=
  let x := d.hurdle h
  if x.state ≠ 1 then d
  else if !x.span then d.failHurdle now h code
  else
    let up := portIx (fld (d.spanLo x.slot) 46 40)
    let d := match up with
      | some n => d.sendHurdle n h x.gen 1 false code
      | none => d
    if x.sent then d else (d.sendDown h x 3 false code).failHurdle now h code

/-- The holders that satisfy `lost` are lost: ARMED Hurdles they hold fail, elsewhere the hold is only dropped. -/
def Dev.loseHolds (d : Dev) (now : Nat) (lost : Holder → Bool) : Dev :=
  (d.hurdles.map (·.1)).foldl (fun d h =>
    let x := d.hurdle h
    if x.holders.any lost then
      (d.setHurdle h { x with holders := x.holders.filter (fun a => !lost a) }).loseHurdle now h 1
    else d) d

/-- Holds whose task or chain has ended well stay with the core (R268): only its reset loses them now. -/
def Dev.keepHolds (d : Dev) (c : CoreIx) (mine : Holder → Bool) : Dev :=
  { d with hurdles := d.hurdles.map fun e =>
      (e.1, { e.2 with holders := nub (e.2.holders.map fun a => if mine a then .soft c else a) }) }

/-- Serve waiting acquirers strictly in order (R263). -/
def serveAcqs : Nat → List (CoreIx × Nat) → List (CoreIx × Nat) × Nat × List (CoreIx × Nat)
  | count, [] => ([], count, [])
  | count, (c, n) :: r =>
    if n ≤ count then
      let (s, k, l) := serveAcqs (count - n) r
      ((c, n) :: s, k, l)
    else ([], count, (c, n) :: r)

/-- Give units to the acquirers that can be served. -/
def Dev.serve (d : Dev) (h : Nat) : Dev :=
  let x := d.hurdle h
  let (served, count, rest) := serveAcqs x.count x.acqs
  let y := { x with count := count, acqs := rest }
  served.foldl (fun d a => d.wakeCore a.1 h (y.resultWord h 0)) (d.setHurdle h y)

/-- An arrival reaches the bank (R263, R264, R270): its code, and what it does. `p` is the partition it comes
from, where it comes from one. -/
def Dev.arrive (d : Dev) (now : Nat) (p : Option PartIx) (h arg : Nat) : HCode × Dev :=
  let x := d.hurdle h
  let amt := if arg % 65536 = 0 then 1 else arg % 65536
  if x.mode = 0 ∨ x.state = 0 then (3, d)
  else if x.state = 3 then (x.code, d)
  else if x.state = 2 then (4, d)
  else if x.mode = 3 then
    if 65535 < x.count + amt then (8, d)
    else (0, (d.setHurdle h { x with count := x.count + amt }).serve h)
  else if x.span ∧ (x.target ≤ x.count) then (5, d)
  else
    let d := d.paceArrive now h p
    if x.mode = 1 then
      let y := { x with count := x.count + amt }
      if x.target ≤ y.count then (0, (d.setHurdle h y).release now h false) else (0, d.setHurdle h y)
    else
      let y := { x with count := x.count + 1, flag := flagOp x.mode x.flag (arg.testBit 0) }
      let d := d.setHurdle h y
      if y.count < y.target then (0, d)
      else if y.span then (0, d.spanPass now h)
      else (0, d.release now h y.flag)

/-- Whether HRD_CFG accepts a value (R263, R265, R276). -/
def Dev.cfgAllowed (d : Dev) (h : Nat) (v : Word) : Bool :=
  let mode := fld v 63 60
  let span := bit v 58
  let e := d.spanLo (Fin.ofNat 256 (fld v 55 48))
  decide (mode ≤ 5) &&
  (!span || (decide (mode = 2 ∨ mode = 4 ∨ mode = 5) && bit e 47 && fld e 63 48 == h)) &&
  (decide (fld v 31 16 ≠ 0) || span || mode == 3)

/-- Write HRD_CFG (R265): none where the write is refused. -/
def Dev.writeCfg (d : Dev) (now h : Nat) (v : Word) : Option Dev :=
  let x := d.hurdle h
  if x.state = 1 ∨ x.holderCount ≠ 0 ∨ !d.cfgAllowed h v then none
  else
    let cfg := v &&& Reg.rw .hrdHcfg
    let mode := fld v 63 60
    let y : Hurdle := { x with
      cfg := cfg, state := if mode = 0 then 0 else 1, code := 0
      count := if mode = 3 then fld v 31 16 else 0
      flag := flagIdentity mode, kidFlag := flagIdentity mode
      passed := false, kids := [], sent := false, decided := none, orphan := false }
    some ((d.setHurdle h y).spanPass now h)

/-- ARM (R272): refused while ARMED or with MODE OFF. -/
def Dev.armHurdle (d : Dev) (now h : Nat) : HCode × Dev :=
  let x := d.hurdle h
  if x.state = 1 ∨ x.mode = 0 then (5, d)
  else
    let y : Hurdle := { x with
      state := 1, code := 0, count := if x.mode = 3 then x.target else 0
      flag := flagIdentity x.mode, kidFlag := flagIdentity x.mode
      passed := false, kids := [], sent := false, decided := none, orphan := false }
    (0, (d.setHurdle h y).spanPass now h)

/-- Join a holder (R268), whatever the state of the Hurdle: the hold lasts until it releases or fails. -/
def Dev.join (d : Dev) (h : Nat) (a : Holder) : Dev :=
  d.modHurdle h fun x => if x.holders.contains a then x else { x with holders := x.holders ++ [a] }

/-- Hold entries a core has in use (R268): Hurdles it holds in any of its ways. -/
def Dev.coreHolds (d : Dev) (c : CoreIx) : Nat :=
  (d.hurdles.filter (fun e => e.2.holders.any (fun a => Holder.key a == c.val))).length

/-- Whether a core already holds a Hurdle. -/
def Dev.coreHas (d : Dev) (c : CoreIx) (h : Nat) : Bool := (d.hurdle h).holders.any (fun a => Holder.key a == c.val)

/-- NOTIFY registrations of a core (R273). -/
def Dev.notes (d : Dev) (c : CoreIx) : Nat :=
  d.hurdles.foldl (fun n e => n + (e.2.waits.filter (fun w => w.who == .note c)).length) 0

/-- How a wait that reaches the bank now would end at once (R266): its result code, or none when it has to wait. -/
def Hurdle.waitNow (x : Hurdle) (g : Option Nat) : Option HCode :=
  if x.state = 0 then some 3
  else if x.state = 3 then some x.code
  else match g with
    | some g => if genPassed x.gen g then some 0 else none
    | none => if x.state = 2 then some 0 else none

/-- Where the operations on a Hurdle go (R262, R270). -/
inductive Home where
  | bank | fused | resetting
  deriving DecidableEq, Repr

/-- The home of a Hurdle as it stands. -/
def State.hurdleHome (s : State) (h : HurdleIx) : Home :=
  if !s.nv.part.enabled (hurdlePart h) then .fused
  else if s.dev.partUp (hurdlePart h) then .bank else .resetting

/-- An arrival from an agent of this device: refused at a fused home, absorbed at one in reset. -/
def State.arrive (s : State) (p : Option PartIx) (h : HurdleIx) (arg : Nat) : State :=
  match s.hurdleHome h with
  | .bank => s.onDev fun d => (d.arrive s.now p h.val arg).2
  | _ => s

end Sys2Proof.Machine
end

