-- ==== Sys2Proof/Machine/Ecc.lean ====
section
/-! DEFINITION. The codes of R163, R176 and R177: SECDED (72,64) on SRAM words, Reed–Solomon RS(35,32) on DRAM sectors,
the CRC-16 of compressed frames; how poison is written; what each code makes of an error pattern. -/

namespace Sys2Proof.Machine

/-- What a decoder makes of an error pattern: nothing seen; a symbol corrected, by its number; uncorrectable. The list is what
stays wrong in the data afterwards, by byte. -/
inductive Verdict where
  | clean (left : List (Nat × Byte)) | fixed (at' : Nat) (left : List (Nat × Byte)) | bad
  deriving DecidableEq, Repr

-- the Hsiao code (R176)

/-- Number of bits set. -/
def weight (n v : Nat) : Nat := ((List.range n).filter v.testBit).length

/-- The columns of the parity matrix by bit of the word: data bits 0 … 63 take the 56 bytes of weight 3 in rising order, then the
eight rotations of 0x1F; check bits 64 … 71 the bytes of weight 1 (log entry 118). -/
def hsiaoCols : List Nat :=
  (List.range 256).filter (fun v => weight 8 v == 3) ++ (List.range 8).map (fun i => (0x1F <<< i) % 256 + 0x1F >>> (8 - i)) ++
    (List.range 8).map (2 ^ ·)

/-- The bits an error pattern flips, by bytes 0 … 8 of a word with its check byte. -/
def flipBits (e : List (Nat × Byte)) : List Nat :=
  (List.range 72).filter fun i => (e.filter fun x => x.1 == i / 8 && x.2.getLsbD (i % 8)).length % 2 == 1

/-- Syndrome of the flipped bits. -/
def hsiaoSyndrome (bits : List Nat) : Nat := bits.foldl (fun s i => s ^^^ hsiaoCols.getD i 0) 0

/-- The check byte of a word. -/
def hsiaoCheck (v : Nat) : Nat := hsiaoSyndrome ((List.range 64).filter v.testBit)

/-- Flipped data bits as byte masks. -/
def bitMasks (bits : List Nat) : List (Nat × Byte) := (bits.filter (· < 64)).map fun i => (i / 8, BitVec.ofNat 8 (2 ^ (i % 8)))

/-- What SECDED makes of an error pattern on a word. -/
def hsiaoDecode (e : List (Nat × Byte)) : Verdict :=
  let bits := flipBits e
  let s := hsiaoSyndrome bits
  if s = 0 then .clean (bitMasks bits)
  else match (List.range 72).find? fun i => hsiaoCols.getD i 0 == s with
    | some i => .fixed i (bitMasks (if bits.contains i then bits.filter (· != i) else bits ++ [i]))
    | none => .bad

/-- The check bits a poisoned word is written with inverted (R177). -/
def hsiaoPoison : List (Nat × Byte) := [(8, 0x03)]

-- the Reed–Solomon code (R176)

/-- Multiply by α in GF(2^8) with x^8 + x^4 + x^3 + x^2 + 1. -/
def gfDouble (a : Nat) : Nat := if a < 128 then 2 * a else (2 * a) ^^^ 0x11D

/-- Multiply by α^n. -/
def gfShift : Nat → Nat → Nat
  | 0, a => a
  | n + 1, a => gfShift n (gfDouble a)

/-- Symbols 0 … 34 of a sector as coefficients, symbol 0 the highest power: the value at α^j (log entry 118). -/
def rsAt (j : Nat) (l : List Nat) : Nat := l.foldl (fun s c => gfShift j s ^^^ c) 0

/-- The symbols of an error pattern. -/
def rsSymbols (e : List (Nat × Byte)) : List Nat :=
  (List.range 35).map fun i => (e.filter fun x => x.1 == i).foldl (fun s x => s ^^^ x.2.toNat) 0

/-- What RS(35,32) makes of an error pattern on a sector: one symbol is corrected, at the place where the three syndromes
agree. -/
def rsDecode (e : List (Nat × Byte)) : Verdict :=
  let l := rsSymbols e
  let s0 := rsAt 0 l
  let s1 := rsAt 1 l
  let s2 := rsAt 2 l
  let left (l : List Nat) : List (Nat × Byte) := ((List.range 32).filter fun i => l.getD i 0 != 0).map fun i => (i, BitVec.ofNat 8 (l.getD i 0))
  if s0 = 0 ∧ s1 = 0 ∧ s2 = 0 then .clean (left l)
  else match (List.range 35).find? fun i => s0 != 0 && s1 == gfShift (34 - i) s0 && s2 == gfShift (34 - i) s1 with
    | some i => .fixed i (left (l.set i (l.getD i 0 ^^^ s0)))
    | none => .bad

/-- Multiply in GF(2^8). -/
def gfMul (a b : Nat) : Nat := ((List.range 8).filter b.testBit).foldl (fun s i => s ^^^ gfShift i a) 0

/-- The generator polynomial, highest power first: (x − 1)(x − α)(x − α²). -/
def rsGen : List Nat :=
  let by' (l : List Nat) (r : Nat) : List Nat := (List.zip (l ++ [0]) (0 :: l.map (gfMul r))).map fun p => p.1 ^^^ p.2
  ((by' (by' (by' [1] 1) 2) 4))

/-- The three check symbols of 32 data bytes: the remainder of the data times x³. -/
def rsCheck (l : List Byte) : List Nat :=
  l.foldl (fun r b =>
    let f := b.toNat ^^^ r.getD 0 0
    (List.range 3).map fun i => r.getD (i + 1) 0 ^^^ gfMul f (rsGen.getD (i + 1) 0)) [0, 0, 0]

/-- The check symbols a poisoned sector is written with changed (R177). -/
def rsPoison : List (Nat × Byte) := [(32, 0x5A), (33, 0xA5)]

/-- Whether the codes see an upset in a granule of `g` bytes, and what is left: 8 an SRAM word, else a sector. -/
def codeDecode (g : Nat) (e : List (Nat × Byte)) : Verdict := if g = 8 then hsiaoDecode e else rsDecode e

/-- The verdict on what an upset changes in a granule of `g` bytes. -/
def codeVerdict (g : Nat) : Upset → Verdict
  | .hit e => codeDecode g e
  | _ => .clean []

-- the CRC-16 of a frame (R163)

/-- One byte of CRC-16, polynomial x^16 + x^12 + x^5 + 1, its highest bit first (log entry 118). -/
def crc16Byte (r : Nat) (b : Byte) : Nat :=
  (List.range 8).foldl (fun r i =>
    let top := r.testBit 15 != b.getLsbD (7 - i)
    let r := r * 2 % 65536
    if top then r ^^^ 0x1021 else r) r

/-- CRC-16 of a run of bytes, initial value 0xFFFF. -/
def crc16 (l : List Byte) : Nat := l.foldl crc16Byte 0xFFFF

-- the halves and quads (R162, R163)

/-- The 32 little-endian words of a line. -/
def lineWords (l : List Byte) : List Nat := (List.range 32).map fun i => ofLe ((l.drop (4 * i)).take 4)

/-- A line is uniform: its words are equal. -/
def lineUniform (l : List Byte) : Bool := let w := lineWords l; w.all (· == w.headD 0)

/-- Word i less word 0, modulo 2^32. -/
def lineDelta (w : List Nat) (i : Nat) : Nat := (w.getD i 0 + 2 ^ 32 - w.getD 0 0) % 2 ^ 32

/-- A difference fits a two's complement field of `n` bits. -/
def fits (n v : Nat) : Bool := decide (v < 2 ^ n / 2 ∨ 2 ^ 32 - 2 ^ n / 2 ≤ v)

/-- A line is pair-compressible: every difference fits 12 bits. -/
def linePairs (l : List Byte) : Bool :=
  let w := lineWords l
  (List.range 32).all fun i => fits 12 (lineDelta w i)

/-- WCODE: the smallest width, in units of 4 bits, that holds every difference; 0 when all are 0. -/
def lineWcode (l : List Byte) : Nat :=
  let w := lineWords l
  let all (n : Nat) : Bool := (List.range 32).all fun i => fits n (lineDelta w i)
  if (List.range 32).all (fun i => lineDelta w i == 0) then 0 else if all 4 then 1 else if all 8 then 2 else 3

/-- The half of a pair frame that holds a line. -/
def pairHalf (l : List Byte) : List Byte :=
  let w := lineWords l
  let n := 4 * lineWcode l
  let deltas := (List.range 31).foldl (fun s i => s + (lineDelta w (i + 1) % 2 ^ n) <<< (n * i)) 0
  let body := BitVec.ofNat 8 (lineWcode l * 64) :: leBytes 4 (w.headD 0) ++ leBytes 47 deltas ++ List.replicate 10 0
  body ++ leBytes 2 (crc16 body)

/-- The line a half of a pair frame holds. -/
def pairLine (h : List Byte) : List Byte :=
  let n := 4 * nbits (ofLe (h.take 1)) 7 6
  let w0 := ofLe ((h.drop 1).take 4)
  let deltas := ofLe ((h.drop 5).take 47)
  let word (i : Nat) : Nat :=
    if i = 0 then w0
    else
      let v := (deltas >>> (n * (i - 1))) % 2 ^ n
      (w0 + (if n ≠ 0 ∧ 2 ^ n / 2 ≤ v then 2 ^ 32 - 2 ^ n + v else v)) % 2 ^ 32
  (List.range 32).flatMap fun i => leBytes 4 (word i)

/-- A quad frame of up to four uniform lines, none where one is absent. -/
def quadFrame (l : List (Option (List Byte))) : List Byte :=
  let words := (List.range 4).flatMap fun q => match l.getD q none with
    | some x => x.take 4
    | none => List.replicate 4 0
  let mask := (List.range 4).foldl (fun s q => if (l.getD q none).isSome then s + 2 ^ q else s) 0
  let body := words ++ [BitVec.ofNat 8 mask] ++ List.replicate 109 0
  body ++ leBytes 2 (crc16 body)

/-- Line q of a quad frame. -/
def quadLine (f : List Byte) (q : Nat) : List Byte := (List.replicate 32 ((f.drop (4 * q)).take 4)).flatten

/-- Flip bits of a run of bytes. -/
def flipIn (l : List Byte) (bits : List Nat) : List Byte :=
  (List.range l.length).map fun i => bits.foldl (fun b k => if k / 8 = i then b ^^^ BitVec.ofNat 8 (2 ^ (k % 8)) else b) (l.getD i 0)

/-- Whether a half or a quad frame shows a CRC mismatch: its last two bytes against the bytes before. -/
def crcFails (f : List Byte) : Bool := crc16 (f.take (f.length - 2)) != ofLe (f.drop (f.length - 2))

end Sys2Proof.Machine
end

