-- ==== Sys2Proof/Machine/Access.lean ====
section
/-! DEFINITION. Reading and writing protected memory (R176 … R178): what a read delivers, with its uncorrectable
granules, what a write leaves; local SRAM (R96, R101, R107). -/

namespace Sys2Proof.Machine

/-- What a read of a run of bytes finds: the bytes, the uncorrectable granules by number, those of them that carry
the POISON indication, and how many free values it used. -/
structure Read where
  bytes  : List Byte
  bad    : List Nat := []
  poison : List Nat := []
  used   : Nat := 0
  deriving DecidableEq, Repr

/-- Byte `i` of the free values from number `n` on. -/
def freeByte (n i : Nat) : Byte := (Config.free (n + i / 8)).extractLsb' (8 * (i % 8)) 8

/-- Whether granule `k` reads uncorrectable, and with which POISON indication: it is marked so, or not all of it has
been written and this read so decides (R178), by free value number `n`. -/
def Memory.granBad (g : Nat) (m : Memory) (n k : Nat) : Option Bool :=
  match m.badAt (k * g) with
  | some p => some p
  | none => if !m.fullGran g k && bit (Config.free n) 0 then some false else none

/-- Read `n` bytes from address `a`; `ctr` numbers the free values that unwritten bytes take. -/
def Memory.read (g : Nat) (m : Memory) (ctr a n : Nat) : Read :=
  let grans := (List.range (ceilDiv (a % g + n) g)).map (a / g + ·)
  let open' := grans.any fun k => !m.fullGran g k && (m.badAt (k * g)).isNone
  let bad := grans.filter fun k => (m.granBad g (ctr + (k - a / g)) k).isSome
  { bytes := (List.range n).map fun i => (m.cell (a + i)).getD (freeByte (ctr + grans.length) i)
    bad := bad
    poison := bad.filter fun k => (m.badAt (k * g)).getD false
    used := if open' then grans.length + ceilDiv n 8 else 0 }

/-- After a write of a … a + n − 1, a granule written whole is sound; a partial write leaves an uncorrectable one
poisoned (R177). -/
def Memory.settle (g : Nat) (m : Memory) (a n : Nat) : Memory :=
  ((List.range (ceilDiv (a % g + n) g)).map (a / g + ·)).foldl (fun m k =>
    if a ≤ k * g ∧ (k + 1) * g ≤ a + n then m.setBad (k * g) none
    else if (m.badAt (k * g)).isSome then m.setBad (k * g) (some true) else m) m

/-- Write a run of bytes from address `a`. -/
def Memory.write (g : Nat) (m : Memory) (a : Nat) (l : List Byte) : Memory := (m.poke a l).settle g a l.length

/-- Mark the granules of a … a + n − 1 poisoned. -/
def Memory.poison (g : Nat) (m : Memory) (a n : Nat) : Memory :=
  ((List.range (ceilDiv (a % g + n) g)).map (a / g + ·)).foldl (fun m k => m.setBad (k * g) (some true)) m

/-- Change the written bytes of a granule by masks. -/
def Memory.xor (m : Memory) (base : Nat) (l : List (Nat × Byte)) : Memory :=
  ⟨l.foldl (fun cs e => match Memory.lookup cs (base + e.1) with
    | some b => Memory.setCell cs (base + e.1) (b ^^^ e.2)
    | none => cs) m.cells, m.bad⟩

/-- What the code leaves of the granule at `base` (R176): an uncorrectable one stays so; one that the code takes for sound or
corrects wrongly has other data. A granule already uncorrectable stays as it is. -/
def Memory.upset (m : Memory) (base : Nat) (v : Verdict) : Memory :=
  if (m.badAt base).isSome then m
  else match v with
    | .clean l | .fixed _ l => m.xor base l
    | .bad => m.setBad base (some false)

/-- Base of the local window (R96). -/
def windowBase : Nat := 0xFFFFFFFC00000

/-- Granule size of local SRAM: the 64-bit word of its SECDED code (R107). -/
def wordGran : Nat := 8

/-- Granule size of device memory: the 32-byte sector (R176). -/
def sectorGran : Nat := 32

/-- Bytes of local SRAM. -/
def sramSize : Nat := 0x400000

/-- First offset of the control area (R101). -/
def controlBase : Nat := 0x3FF000

/-- SP_KIB of CORE_LCFG in bytes: the scratchpad share is the offsets below it (R101). -/
def Core.scratch (k : Core) : Nat := fld k.lcfg 47 32 * 1024

/-- The unit identity of a core as the detecting unit of an event (R332, R22). -/
def Dev.coreUnitId (d : Dev) (c : CoreIx) : Nat := idUnit d.devId (corePart c).val (9 + coreUnit c)

/-- Record the uncorrectable words of a read of local SRAM (R107, R336). -/
def Dev.recordSramUe (d : Dev) (now : Nat) (c : CoreIx) (r : Read) : Dev :=
  r.bad.foldl (fun d k => d.record now .memUeSram (windowBase + 8 * k) (if r.poison.contains k then 0x80 else 0) (d.coreUnitId c)) d

/-- A read of local SRAM that meets a corrected bit records it; the word is delivered corrected (R176). -/
def Dev.recordSramCe (d : Dev) (now : Nat) (c : CoreIx) (a : Nat) (v : Verdict) : Dev :=
  match v with
  | .fixed b _ => d.record now .memCeSram (windowBase + a / 8 * 8) b (d.coreUnitId c)
  | _ => d

/-- The local-SRAM rule of retirement (R345) on the words of one memory: a word uncorrectable again after a write of the whole
word, or 4 distinct words corrected again after their corrected rewrite within 24 h. The list remembers words: 2^20 and the word
once corrected, 2 × 2^20 and the word corrected again with its time, 3 × 2^20 and the word once uncorrectable. Answers the list
and whether the unit is to be retired; `was` says that the word was uncorrectable before. -/
def wear (fix : List (Nat × Nat)) (now w : Nat) (was : Bool) (v : Verdict) : List (Nat × Nat) × Bool :=
  let has (n : Nat) : Bool := fix.any fun e => e.1 == n * 2 ^ 20 + w
  match v with
  | .fixed _ _ =>
    if was then (fix, false)
    else if !has 1 then (fix ++ [(2 ^ 20 + w, now)], false)
    else
      let fix : List (Nat × Nat) := (fix.filter fun e => e.1 != 2 * 2 ^ 20 + w) ++ [(2 * 2 ^ 20 + w, now)]
      let again := fix.filter fun e => e.1 / 2 ^ 20 == 2 && decide (now ≤ e.2 + 86400000000000)
      (fix, decide (4 ≤ again.length))
  | .bad =>
    if was then (fix, false)
    else if has 3 then (fix, true)
    else (fix ++ [(3 * 2 ^ 20 + w, now)], false)
  | .clean _ => (fix, false)

/-- The rule on a word of a core's local SRAM. -/
def Dev.sramWear (d : Dev) (now : Nat) (c : CoreIx) (a : Nat) (v : Verdict) : Dev :=
  let k := d.core c
  let r := wear k.sramFix now (a / 8) (k.sram.badAt (a / 8 * 8)).isSome v
  let d := d.setCore c { k with sramFix := r.1 }
  if r.2 then d.change now (.core c) else d

/-- What an upset leaves in the word of local SRAM at an offset. -/
def Dev.sramUpset (d : Dev) (now : Nat) (c : CoreIx) (a : Nat) (v : Verdict) : Dev :=
  (d.sramWear now c a v).modCore c fun k => { k with sram := k.sram.upset (a / 8 * 8) v }

/-- Read local SRAM for a requester: the bytes, and the device with free values used and events recorded. An upset changes the
first word of the access. -/
def Dev.sramRead (d : Dev) (now : Nat) (c : CoreIx) (a n : Nat) (u : Upset) : Read × Dev :=
  let v := codeVerdict wordGran u
  let d := d.sramUpset now c a v
  let r := (d.core c).sram.read wordGran d.freeCtr a n
  (r, ((d.spend r.used).recordSramCe now c a v).recordSramUe now c r)

/-- A write to local SRAM ends a reservation on a line it touches (R100). -/
def Core.breakLocal (k : Core) (a n : Nat) : Core :=
  if k.resv.any fun r => decide ((windowBase + a) / 128 ≤ r.1 ∧ r.1 * 128 < windowBase + a + n) then { k with resv := none } else k

/-- Write local SRAM. -/
def Core.sramWrite (k : Core) (a : Nat) (l : List Byte) : Core :=
  { k.breakLocal a l.length with sram := k.sram.write wordGran a l }

end Sys2Proof.Machine
end

