-- ==== Sys2Proof/Machine/Traps.lean ====
section
/-! DEFINITION. Taking a trap on a control processor (R130 … R132, R450, R451), what interrupts are pending, and what
stands between an instruction and its issue. -/

namespace Sys2Proof.Machine

/-- A 64-byte descriptor as one number, its words little-endian. -/
def wordsNat : List Word → Nat
  | [] => 0
  | w :: r => w.toNat + 2 ^ 64 * wordsNat r

/-- A field of a descriptor. -/
def descFld (l : List Word) (hi lo : Nat) : Nat := nbits (wordsNat l) hi lo

/-- The words a number spells. -/
def natWords : Nat → Nat → List Word
  | 0, _ => []
  | k + 1, n => BitVec.ofNat 64 n :: natWords k (n / 2 ^ 64)

/-- The trap frame of R132. TASK and QUEUE of a trap with no task running are free values. -/
def Core.frame (k : Core) (now : Nat) (cause tval : Word) (seq : Nat) (fr : Word) : Nat :=
  let task := match k.task with | some t => descFld t.words 31 0 | none => fld fr 31 0
  let queue := match k.task with | some t => t.queue.val | none => fld fr 37 32
  now % 2 ^ 64 + cause.toNat * 2 ^ 64 + k.pc.toNat * 2 ^ 128 + tval.toNat * 2 ^ 192 + seq * 2 ^ 256 +
    k.mach.toNat * 2 ^ 288 + queue * 2 ^ 296 + task * 2 ^ 320 + k.tissued * 2 ^ 352 + k.tdone * 2 ^ 368 +
    k.vissued * 2 ^ 384 + k.vdone * 2 ^ 400 + fld k.tstatus 5 1 * 2 ^ 416 + fld k.vstatus 6 1 * 2 ^ 421

/-- The status the core runtime derives from a trap taken in user mode during a task (R450). -/
def Core.runtimeStatus (k : Core) (cause : Word) : Word :=
  if cause = 8 then k.getX 10 else if bit cause 63 then 0xF1 else 0xC0 + cause

/-- Where a trap goes: mtvec's base, or for an interrupt in vectored mode 4 × code beyond it. -/
def Core.vector (k : Core) (cause : Word) : Word :=
  let base := k.mtvec &&& 0xFFFFFFFFFFFFFFFC
  if bit cause 63 && fld k.mtvec 1 0 == 1 then base + BitVec.ofNat 64 (4 * fld cause 5 0) else base

/-- mstatus on a trap: MPIE from MIE, MIE 0, MPP the privilege before. -/
def Core.trapStatus (k : Core) : Word :=
  setFld (setBit (setBit k.mstatus 7 (bit k.mstatus 3)) 3 false) 12 11 (if k.mach then 3 else 0)

/-- Take a trap (R132): the frame is written, mepc, mcause and mtval are set, the mode is machine; a reservation is
lost (R100), a stalled instruction is abandoned unexecuted, and so is what the fetch buffer held for it. In user mode the runtime derives the task's status; a
deferred store trap that the runtime's FENCE meets replaces it (R450); of two with different codes the later one gives the status
(R450 does not say which: DESIGN CHOICE, log entry 124). -/
def Core.trap (k : Core) (now : Nat) (cause tval : Word) (deferred : Bool) (fr : Word) : Core :=
  let seq := (k.trapSeq + 1) % 2 ^ 32
  let k' := k.sramWrite (controlBase + 64 * (seq % 16)) (leBytes 64 (k.frame now cause tval seq fr))
  { k' with
    trapSeq := seq, mepc := k.pc, mcause := cause, mtval := tval, mstatus := k.trapStatus, mach := true
    pc := k.vector cause, resv := none, stall := .none, lines := k.lines.filter fun x => x.share != .buffer
    rtStatus := if k.task.isSome ∧ (!k.mach ∨ (deferred ∧ k.rtStatus.isSome)) then some (k.runtimeStatus cause)
                else k.rtStatus }

/-- Take a trap on a core of the device. -/
def Dev.trap (d : Dev) (now : Nat) (c : CoreIx) (cause tval : Word) (deferred : Bool := false) : Dev :=
  let fr := d.free
  let d := if (d.core c).task.isNone then d.spend 1 else d
  d.modCore c fun k => k.trap now cause tval deferred fr

/-- Illegal instruction (trap 2). -/
def Dev.illegal (d : Dev) (now : Nat) (c : CoreIx) (w : Word32) : Dev := d.trap now c 2 (w.setWidth 64)

/-- Illegal instruction on the state. -/
def State.illegal (s : State) (c : CoreIx) (w : Word32) : State := s.onDev fun d => d.illegal s.now c w

/-- A trap on the state. -/
def State.trap (s : State) (c : CoreIx) (cause tval : Word) : State := s.onDev fun d => d.trap s.now c cause tval

-- interrupts (R131)

/-- A mailbox channel. -/
def Dev.chan (d : Dev) (n c : Nat) : Chan := d.chans.get {} (32 * n + c)

/-- Store a mailbox channel. -/
def Dev.setChan (d : Dev) (n c : Nat) (x : Chan) : Dev := { d with chans := d.chans.set {} (32 * n + c) x }

/-- Whether a mailbox raises its doorbell (R286). -/
def Dev.doorbell (d : Dev) (n : Nat) : Bool :=
  (List.range 32).any fun c => let x := d.chan n c; x.db && !x.mask

/-- mip (R92, R131): bits 7, 11, 16 and 17 follow their sources. -/
def State.mip (s : State) (c : CoreIx) : Word :=
  let k := s.dev.core c
  fput 7 7 (k.mtip || decide (k.timecmp.toNat ≤ s.now)).toNat |||
    fput 11 11 (s.dev.doorbell (s.nv.part.logical c.val)).toNat |||
    fput 16 16 (!k.events.isEmpty).toNat ||| fput 17 17 k.int17.toNat

/-- The interrupt a core would take (R131): pending and enabled, by priority; in machine mode only with MIE set. -/
def State.interrupt (s : State) (c : CoreIx) : Option Nat :=
  let k := s.dev.core c
  let on := s.mip c &&& k.mie
  if k.mach && !bit k.mstatus 3 then none
  else [17, 11, 16, 7].find? fun i => bit on i

/-- Whether a store of the core has not been answered yet (R99). -/
def Dev.storesOut (d : Dev) (c : CoreIx) : Bool :=
  d.reqs.any fun e => match e.2 with
    | some r => r.core == c && r.op == .write
    | none => false

/-- The word of a CSRRW (funct3 1), CSRRS or CSRRC with its fields. -/
def csrWord (csr rs1 f3 rd : Nat) : Word32 := BitVec.ofNat 32 (csr * 2 ^ 20 + rs1 % 32 * 2 ^ 15 + f3 % 8 * 2 ^ 12 + rd % 32 * 2 ^ 7 + 0x73)

end Sys2Proof.Machine
end

