-- ==== Sys2Proof/Machine/Mem.lean ====
section
/-! DEFINITION. Device memory and the far tier as every requester sees them (R33 … R38, R156 … R160, R424): where an
address lies, which slice owns it, page tables as they stand, declared read-only regions, and reads and writes of the
one current copy. -/

namespace Sys2Proof.Machine

/-- HKEY of a partition (R156). -/
def hkey (p : Nat) : Nat := (7 * p + 3) % 32

/-- Channel and slice of a DRAM offset (R157). -/
def dramChan (p o : Nat) : Nat :=
  nbits o 11 7 ^^^ nbits o 16 12 ^^^ nbits o 21 17 ^^^ nbits o 26 22 ^^^ nbits o 31 27 ^^^ nbits o 35 32 ^^^ hkey p

/-- Bank of a DRAM offset (R157). -/
def dramBank (o : Nat) : Nat := nbits o 19 16 ^^^ nbits o 23 20 ^^^ nbits o 27 24

/-- Row of a DRAM offset (R157). -/
def dramRow (o : Nat) : Nat := nbits o 32 20

/-- Column of a DRAM offset (R157). -/
def dramCol (o : Nat) : Nat := nbits o 15 12

/-- DRAM layer of an offset (R157). -/
def dramLayer (o : Nat) : Nat := nbits o 35 33

/-- Slice of a direct-window offset (R158). -/
def nearSlice (p w : Nat) : Nat :=
  nbits w 11 7 ^^^ nbits w 16 12 ^^^ nbits w 21 17 ^^^ nbits w 26 22 ^^^ nbits w 29 27 ^^^ hkey p

/-- Base of the direct window within a partition (R34). -/
def nearBase : Nat := 0xE00000000

/-- Bytes of DRAM in a partition of the part (R34). -/
def Part.dramSize (pt : Part) : Nat := if pt.layers = 4 then 0x800000000 else 0xC00000000

/-- SLICE_CFG.DIRECT in force. -/
def Dev.direct (d : Dev) (p : PartIx) : Nat := fld (d.reg (.sliceCfg p)) 3 0

/-- Bytes of a partition's direct window in use (R159). -/
def Dev.nearSize (d : Dev) (p : PartIx) : Nat := 32 * 3 * 0x100000 * d.direct p

/-- Where an address lies. -/
inductive Place where
  /-- partition memory: partition, slice, whether it is DRAM (else the direct window) -/
  | mem (p : PartIx) (ch : ChanIx) (dram : Bool)
  /-- the far tier, at a far-tier offset -/
  | far (off : Nat)
  /-- a remote device: its identifier and the address there -/
  | remote (dst addr : Nat)
  /-- answered with an error completion -/
  | error
  deriving DecidableEq, Repr

/-- MAP_FARWIN as an access issued now finds it (R37): the newest write that still waits, else the register. -/
def Dev.farwinNow (d : Dev) : Word :=
  (d.hostWait.filterMap fun o => match o with
    | .farwin v _ => some (storeTyped .mapFarwin (d.reg .mapFarwin) v)
    | _ => none).getLast?.getD (d.reg .mapFarwin)

/-- LINK_SLOT i as an access issued now finds it (R322). -/
def Dev.slotNow (d : Dev) (i : Fin 4096) : Word :=
  (d.hostWait.filterMap fun o => match o with
    | .slot j v _ _ => if j = i then some (storeTyped (.linkSlot i) (d.reg (.linkSlot i)) v) else none
    | _ => none).getLast?.getD (d.reg (.linkSlot i))

/-- The device and address of a remote-window address; none through an unbound slot or one that names this device (R322). -/
def Dev.remoteOf (d : Dev) (a : Nat) : Place :=
  let w := d.slotNow (Fin.ofNat 4096 (a / 2 ^ 40))
  if bit w 63 && fld w 15 0 != d.devId then .remote (fld w 15 0) (a % 2 ^ 40) else .error

/-- The place of a physical address for an access issued now (R33 … R37). A partition that is not up answers with error completions. -/
def State.place (s : State) (a : Nat) : Place :=
  if 2 ^ 40 ≤ a then s.dev.remoteOf a
  else if 0xC000000000 ≤ a then .error
  else if 0x8000000000 ≤ a then
    let w := s.dev.farwinNow
    if bit w 0 then .far (fld w 41 38 * 2 ^ 38 + a % 2 ^ 38) else .error
  else
    let p : PartIx := Fin.ofNat 8 (a / 2 ^ 36)
    let o := a % 2 ^ 36
    if !s.nv.part.enabled p || !s.dev.partUp p then .error
    else if o < s.nv.part.dramSize then .mem p (Fin.ofNat 32 (dramChan p.val o)) true
    else if nearBase ≤ o ∧ o < nearBase + s.dev.nearSize p then .mem p (Fin.ofNat 32 (nearSlice p.val (o - nearBase))) false
    else .error

/-- Number of a slice: 32 × partition + channel. -/
def sliceNo (p : PartIx) (c : ChanIx) : Nat := 32 * p.val + c.val

/-- Whether a channel answers requests: neither down nor offline (R143, R152), and not answering the access under way with
error completions after its hold (R152). -/
def Dev.chanServes (d : Dev) (p : PartIx) (c : ChanIx) : Bool :=
  let w := d.reg (.stackChstat p c)
  !bit w 7 && !bit w 6 && !d.refusing.contains (sliceNo p c)

-- the far tier (R424, R426)

/-- The target of a far-tier offset: port, expander, device physical address. -/
def Dev.farTarget (d : Dev) (f : Nat) : Option (Nat × Nat × Nat) :=
  ((List.finRange 4).map fun i => d.reg (.farDec i)).findSome? fun w =>
    let base := fld w 11 0
    if bit w 63 && decide (base ≤ f / 2 ^ 30 ∧ f / 2 ^ 30 < base + fld w 44 32) then
      let r := f - base * 2 ^ 30
      let dpa := fld w 27 16 * 2 ^ 30
      some (if bit w 62 then (nbits r 12 12, fld w 60 60, dpa + r / 8192 * 4096 + r % 4096)
        else (fld w 61 61, fld w 60 60, dpa + r))
    else none

/-- Whether a CXL port's link is up: FAR_PORT.STATE. -/
def Dev.farUp (d : Dev) (q : Nat) : Bool := fld (d.reg (.farPort (Fin.ofNat 2 q))) 63 62 == 2

/-- Where the bytes of a far-tier offset are kept; none where the access fails (R426). -/
def Dev.farKey (d : Dev) (f : Nat) : Option Nat :=
  if !bit (d.reg .farCtl) 63 || decide (2 ^ 42 ≤ f) then none
  else match d.farTarget f with
    | some (q, e, a) => if d.farUp q then some (2 ^ 52 + (2 * q + e) * 2 ^ 44 + a) else none
    | none => none

-- the one current copy (R160, R167)

/-- Bytes of a granule of a place: DRAM and the far tier by sectors, the direct window by words (R176). -/
def Place.gran : Place → Nat
  | .mem _ _ false => wordGran
  | _ => sectorGran

/-- Where the bytes of a place are kept; none where the access ends in an error completion. -/
def State.key (s : State) (a : Nat) : Option Nat :=
  match s.place a with
  | .mem p c dram => if !dram || s.dev.chanServes p c then some a else none
  | .far f => s.dev.farKey f
  | _ => none

/-- The unit identity of a slice (R22, R332). -/
def Dev.sliceId (d : Dev) (p : PartIx) (c : ChanIx) : Nat := idUnit d.devId p.val (113 + c.val)

/-- Slice c of partition p. -/
def Dev.slice (d : Dev) (p : PartIx) (c : ChanIx) : Slice := d.slices.get {} (sliceNo p c)

/-- Change a slice. -/
def Dev.modSlice (d : Dev) (p : PartIx) (c : ChanIx) (f : Slice → Slice) : Dev :=
  { d with slices := d.slices.modify {} (sliceNo p c) f }

/-- The partition of a line, by its address ÷ 128. -/
def linePart (l : Nat) : PartIx := Fin.ofNat 8 (l / 2 ^ 29)

/-- The channel of a line of DRAM. -/
def lineChan (l : Nat) : ChanIx := Fin.ofNat 32 (dramChan (linePart l).val (l * 128 % 2 ^ 36))

/-- Lines of a channel in its slice's cache share. -/
def Dev.cachedLines (d : Dev) (p : PartIx) (c : ChanIx) : List Nat :=
  (d.cache.map (·.1)).filter fun l => linePart l == p && lineChan l == c

/-- A line in the cache share, where it is there. -/
def Dev.cached (d : Dev) (l : Nat) : Option CacheLine := d.cache.get none l

/-- Whether a line waits in the write-back buffer of its slice (R167). -/
def Dev.inBuffer (d : Dev) (l : Nat) : Bool := (d.slice (linePart l) (lineChan l)).wb.contains l

/-- Whether a line's current copy is in the slice: in the cache share, or in the write-back buffer (R167). -/
def Dev.inSlice (d : Dev) (l : Nat) : Bool := (d.cached l).isSome || d.inBuffer l

/-- Bytes of a granule at an address: a DRAM line in its slice is protected word by word (R162, R176). -/
def State.granAt (s : State) (a : Nat) : Nat :=
  match s.place a with
  | .mem _ _ true => if s.dev.inSlice (a / 128) then wordGran else sectorGran
  | pl => pl.gran

/-- Record one uncorrectable granule of `g` bytes of a place at an address (R336). -/
def Dev.recordUe (d : Dev) (now : Nat) (pl : Place) (g a : Nat) (poison : Bool) : Dev :=
  let ps := if poison then 0x80 else 0
  match pl with
  | .mem p c _ =>
    if g = sectorGran then d.record now .memUeDram (a / 32 * 32) (a / 32 % 4 * 256 + ps) (d.sliceId p c)
    else d.record now .memUeSram (a / 8 * 8) ps (d.sliceId p c)
  | .far f => d.record now .memUeDram (f / 32 * 32) (0x400 + f / 32 % 4 * 256 + ps) (idHub d.devId)
  | _ => d

-- the remap table as an access meets it (R181 … R183)

/-- A remap entry of a channel (R183). -/
def Dev.remapWord (d : Dev) (p : PartIx) (c : ChanIx) (i : Fin 8) : Word := d.reg (.sliceRemap p ⟨8 * c.val + i.val, by omega⟩)

/-- Store a remap entry. -/
def Dev.setRemap (d : Dev) (p : PartIx) (c : ChanIx) (i : Fin 8) (w : Word) : Dev :=
  d.setReg (.sliceRemap p ⟨8 * c.val + i.val, by omega⟩) w

/-- An entry counts as used when V or SPENT is set (R182). -/
def remapUsed (w : Word) : Bool := bit w 63 || bit w 62

/-- Used entries of a channel. -/
def Dev.remapCount (d : Dev) (p : PartIx) (c : ChanIx) : Nat :=
  ((List.finRange 8).filter fun i => remapUsed (d.remapWord p c i)).length

/-- The location fields of a line's entry (R157, R183). -/
def remapFields (o : Nat) : Word :=
  fput 26 24 (dramLayer o) ||| fput 23 20 (dramBank o) ||| fput 19 7 (dramRow o) ||| fput 6 3 (dramCol o)

/-- Whether an entry redirects the line at a DRAM offset: valid, not spent, its location the line's. -/
def remapMatches (w : Word) (o : Nat) : Bool := bit w 63 && !bit w 62 && (w &&& 0x7FFFFF8) == remapFields o

/-- The entries that redirect a line. -/
def Dev.remapOf (d : Dev) (p : PartIx) (c : ChanIx) (o : Nat) : List (Fin 8) :=
  (List.finRange 8).filter fun i => remapMatches (d.remapWord p c i) o

/-- Every access compares its location with the entries of its channel; more than one match is recorded with the index
used (R183, R339). -/
def State.remapCheck (s : State) (a : Nat) : State :=
  match s.place a with
  | .mem p c true =>
    match s.dev.remapOf p c (a % 2 ^ 36) with
    | i :: _ :: _ => s.record .multiMatch (a / 128 * 128) (0x400000 + sliceNo p c * 512 + i.val) (s.dev.sliceId p c)
    | _ => s
  | _ => s

-- the sets of a cache share (R159, R160)

/-- Sets of the cache share of each slice: 24 MiB less 3 MiB × DIRECT, 16 ways of 128 bytes. -/
def Dev.cacheSets (d : Dev) (p : PartIx) : Nat := 12288 - 1536 * d.direct p

/-- The line of a line's quad whose column ends in `q` (R162): the same layer, bank and row, and by R157 the same channel. -/
def colMate (l q : Nat) : Nat := let x := (l >>> 5) % 4 ^^^ q; l ^^^ (32 * x) ^^^ x

/-- The set of a line; the four lines of a quad lie in one (log entry 119). -/
def Dev.cacheSet (d : Dev) (l : Nat) : Nat :=
  let n := d.cacheSets (linePart l)
  Config.cacheSet n (colMate l 0) % n

/-- The lines in the set of a line. -/
def Dev.setLines (d : Dev) (l : Nat) : List (Nat × CacheLine) :=
  d.cache.filterMap fun e => e.2.bind fun x =>
    if linePart e.1 == linePart l && lineChan e.1 == lineChan l && (colMate e.1 0 == colMate l 0 || d.cacheSet e.1 == d.cacheSet l) then
      some (e.1, x) else none

/-- The lowest way of a line's set that holds no frame and is not among `taken`. -/
def Dev.freeWay (d : Dev) (l : Nat) (taken : List Nat) : Option Nat :=
  (List.range 16).find? fun w => !taken.contains w && !((d.setLines l).any fun e => e.2.way == w)

-- lines that leave the cache share (R160, R167, R179)

/-- The marks of a line as words become marks of its sectors, poisoned. -/
def Memory.toSectors (m : Memory) (l : Nat) : Memory :=
  let bad := (List.range 4).filter fun j => (List.range 4).any fun i => (m.badAt (l * 128 + 32 * j + 8 * i)).isSome
  let m := (List.range 16).foldl (fun m i => m.setBad (l * 128 + 8 * i) none) m
  bad.foldl (fun m j => m.setBad (l * 128 + 32 * j) (some true)) m

/-- The marks of a line's sectors become marks of their words, poisoned. -/
def Memory.toWords (m : Memory) (l : Nat) : Memory :=
  let bad := (List.range 4).filter fun j => (m.badAt (l * 128 + 32 * j)).isSome
  bad.foldl (fun m j => (List.range 4).foldl (fun m i => m.setBad (l * 128 + 32 * j + 8 * i) (some true)) m) m

/-- The marks of a line. -/
def Memory.lineBad (m : Memory) (l : Nat) : Tbl (Option Bool) := m.bad.keep fun k => decide (l * 128 ≤ k ∧ k < l * 128 + 128)

/-- What DRAM holds of a line takes the place of its lost or clean copy. -/
def Memory.restore (m : Memory) (l : Nat) (x : CacheLine) : Memory :=
  let m := m.forget wordGran (l * 128) 128
  let m : Memory := ⟨x.old.foldl (fun cs c => Memory.setCell cs c.1 c.2) m.cells, m.bad⟩
  x.oldBad.foldl (fun m e => m.setBad e.1 e.2) m

/-- DRAM acknowledges the oldest line of the write-back buffer (R167); its uncorrectable words have been written as poisoned
sectors (R179). -/
def State.ackOldest (s : State) (p : PartIx) (c : ChanIx) : State :=
  match (s.dev.slice p c).wb with
  | [] => s
  | l :: r =>
    let s := s.onDev fun d => d.modSlice p c fun x => { x with wb := r }
    if s.dev.inSlice l then s else { s with mem := s.mem.toSectors l }

/-- A line leaves the cache share: a dirty one goes to the write-back buffer, whose oldest line is acknowledged first while 16
stand there (log entry 119). -/
def State.evict (s : State) (l : Nat) : State :=
  match s.dev.cached l with
  | none => s
  | some x =>
    let s := s.onDev fun d => { d with cache := d.cache.set none l none }
    if x.dirty then
      let p := linePart l
      let c := lineChan l
      let s := if 16 ≤ (s.dev.slice p c).wb.length then s.ackOldest p c else s
      s.onDev fun d => d.modSlice p c fun y => { y with wb := y.wb ++ [l] }
    else if s.dev.inBuffer l then s
    else { s with mem := s.mem.restore l x }

/-- A way for a frame in the set of a line: a free one, else a freely chosen one outside `keep`, whose lines leave (R160, R164). -/
def State.takeWay (s : State) (l : Nat) (keep : List Nat) : Nat × State :=
  match s.dev.freeWay l keep with
  | some w => (w, s)
  | none =>
    let ws := (List.range 16).filter fun w => !keep.contains w
    let w := ws.getD (s.dev.free.toNat % ws.length) 0
    (w, ((s.dev.setLines l).filter fun e => e.2.way == w).foldl (fun s e => s.evict e.1) (s.onDev fun d => d.spend))

-- frames (R162, R164)

/-- The bytes of a line where all are written and none is uncorrectable; only such a line is compressed (log entry 119). -/
def State.lineBytes (s : State) (l : Nat) : Option (List Byte) :=
  if s.mem.lineBad l = [] then (List.range 128).mapM fun i => s.mem.cell (l * 128 + i) else none

/-- The frames of a quad's present lines, by column: two or more uniform lines share a quad frame, then two pair-compressible
buddies a pair, the rest stand alone. -/
def frameGroups (present uni pairs : List Nat) : List (FMode × List Nat) :=
  let quad := if 2 ≤ uni.length then uni else []
  let rest := present.filter fun q => !quad.contains q
  let half (h : Nat) : List (FMode × List Nat) :=
    if [2 * h, 2 * h + 1].all fun q => rest.contains q && pairs.contains q then [(.pair, [2 * h, 2 * h + 1])]
    else ([2 * h, 2 * h + 1].filter rest.contains).map fun q => (.one, [q])
  (if quad = [] then [] else [(.quad, quad)]) ++ half 0 ++ half 1

/-- The slice chooses the frames of a line's quad anew (R164): each keeps a way one of its lines has, or takes one. -/
def State.regroup (s : State) (l : Nat) : State :=
  let present := (List.range 4).filter fun q => (s.dev.cached (colMate l q)).isSome
  let is (f : List Byte → Bool) : List Nat := present.filter fun q => (s.lineBytes (colMate l q)).any f
  let way (s : State) (q : Nat) : Nat := ((s.dev.cached (colMate l q)).map (·.way)).getD 16
  let mine := present.map (way s)
  ((frameGroups present (is lineUniform) (is linePairs)).foldl (fun (acc : List Nat × State) g =>
    let have' := (g.2.map (way acc.2)).find? fun w => decide (w < 16) && !acc.1.contains w
    let (w, s) := match have' with
      | some w => (w, acc.2)
      | none => acc.2.takeWay l (acc.1 ++ mine)
    (acc.1 ++ [w], g.2.foldl (fun s q => s.onDev fun d => { d with
      cache := d.cache.modify none (colMate l q) fun x => x.map fun x => { x with way := w, mode := g.1 } }) s)) ([], s)).2

/-- A line of DRAM comes into the cache share of its slice, or is found there; a read of a line in the write-back buffer is
served from there, a write reinstalls it as dirty (R160, R167). With no cache share left nothing is cached. -/
def State.enter (s : State) (l : Nat) (write : Bool) : State :=
  match s.dev.cached l with
  | some x => if write && !x.dirty then s.onDev fun d => { d with cache := d.cache.set none l (some { x with dirty := true }) } else s
  | none =>
    let buf := s.dev.inBuffer l
    if (buf && !write) || s.dev.cacheSets (linePart l) == 0 then s
    else
      let dram := if buf then s.mem.toSectors l else s.mem
      let x : CacheLine := { way := 16, dirty := write, old := dram.slice (l * 128) 128, oldBad := dram.lineBad l }
      { s.onDev fun d => { d with cache := d.cache.set none l (some x) } with mem := if buf then s.mem else s.mem.toWords l }

/-- The line of an access comes into its slice: DRAM only. -/
def State.enterAt (s : State) (a : Nat) (write : Bool) : State :=
  match s.place a with
  | .mem _ _ true => s.enter (a / 128) write
  | _ => s

/-- The frames after a line has entered or changed: DRAM only. -/
def State.regroupAt (s : State) (a : Nat) : State :=
  match s.place a with
  | .mem _ _ true => if (s.dev.cached (a / 128)).isSome then s.regroup (a / 128) else s
  | _ => s

/-- A write to a line ends every reservation on it (R100). -/
def Dev.breakResv (d : Dev) (l : Nat) : Dev :=
  (d.cores.map (·.1)).foldl (fun d i =>
    let k := d.cores.get {} i
    if k.resv.any (fun r => r.1 == l) then { d with cores := d.cores.set {} i { k with resv := none } } else d) d

-- reads and writes

/-- Cut an extent into pieces of at most `lim address` bytes; `k` bounds their number. -/
def pieces (lim : Nat → Nat) : Nat → Nat → Nat → List (Nat × Nat)
  | 0, _, _ => []
  | k + 1, a, n => if n = 0 then [] else let m := min n (lim a); (a, m) :: pieces lim k (a + m) (n - m)

/-- Pieces within 128-byte lines of any run of bytes. -/
def spanPieces (a n : Nat) : List (Nat × Nat) := pieces (fun a => 128 - a % 128) (n / 32 + 2) a n

/-- Read bytes of one line; none where it answers with an error completion. Uncorrectable granules are recorded (R179) and named
by the words they cover. -/
def State.readLine (s : State) (a n : Nat) : Option Read × State :=
  match s.key a with
  | none => (none, s)
  | some key =>
    let g := s.granAt a
    let r := s.mem.read g s.dev.freeCtr key n
    let pl := s.place a
    let s := ((s.remapCheck a).onDev fun d =>
      r.bad.foldl (fun d k => d.recordUe s.now pl g (a + (k * g - key)) (r.poison.contains k)) (d.spend r.used))
    let words (l : List Nat) : List Nat := l.flatMap fun k => (List.range (g / 8)).map (k * (g / 8) + ·)
    (some { r with bad := words r.bad, poison := words r.poison },
      if s.dev.inSlice (a / 128) then s else (s.enterAt a false).regroupAt a)

/-- Read lines in order; none where one answers with an error completion. -/
def State.readLines : List (Nat × Nat) → State → Option Read × State
  | [], s => (some { bytes := [] }, s)
  | (a, n) :: r, s => match s.readLine a n with
    | (none, s) => (none, s)
    | (some x, s) => match State.readLines r s with
      | (none, s) => (none, s)
      | (some y, s) => (some { bytes := x.bytes ++ y.bytes, bad := x.bad ++ y.bad, poison := x.poison ++ y.poison }, s)

/-- Read bytes that lie in one place. -/
def State.memRead (s : State) (a n : Nat) : Option Read × State := State.readLines (spanPieces a n) s

/-- Write bytes of one line; false where it answers with an error completion. -/
def State.writeLine (s : State) (a : Nat) (l : List Byte) : Bool × State :=
  match s.key a with
  | none => (false, s)
  | some key =>
    let s := (s.remapCheck a).enterAt a true
    let s := { s with mem := s.mem.write (s.granAt a) key l }
    (true, (s.regroupAt a).onDev fun d => d.breakResv (a / 128))

/-- Write bytes that lie in one place, line by line; false where one answers with an error completion. -/
def State.memWrite (s : State) (a : Nat) (l : List Byte) : Bool × State :=
  (spanPieces a l.length).foldl (fun (acc : Bool × State) e =>
    if acc.1 then acc.2.writeLine e.1 ((l.drop (e.1 - a)).take e.2) else acc) (true, s)

/-- Mark bytes that lie in one place poisoned. -/
def State.memPoison (s : State) (a n : Nat) : State :=
  (spanPieces a n).foldl (fun s e => match s.key e.1 with
    | none => s
    | some key =>
      let s := s.enterAt e.1 true
      ({ s with mem := s.mem.poison (s.granAt e.1) key e.2 }).regroupAt e.1) s

/-- The cached copy of a line is lost: DRAM's stands (R348, R364). -/
def State.loseLine (s : State) (l : Nat) : State :=
  match s.dev.cached l with
  | none => s
  | some x => { s.onDev fun d => { d with cache := d.cache.set none l none } with mem := s.mem.restore l x }

-- page tables as they stand (R187 … R189)

/-- A word of device memory without side effects: none where any byte is unwritten, uncorrectable or out of reach. -/
def State.peekWord (s : State) (a : Nat) : Option Word :=
  match s.key a with
  | none => none
  | some key =>
    let g := s.granAt a
    if (s.mem.badAt (key / g * g)).isSome then none
    else ((List.range 8).mapM fun i => s.mem.cell (key + i)).map fun l => BitVec.ofNat 64 (ofLe l)

/-- Whether a page table may lie at an address: DRAM layers or the direct window of an enabled partition (R187). -/
def State.tablePlace (s : State) (a : Nat) : Bool :=
  match s.place a with
  | .mem _ _ _ => true
  | _ => false

/-- Index of a virtual address at a level (R187). -/
def vaIndex (level va : Nat) : Nat :=
  if level = 2 then nbits va 51 39 else if level = 1 then nbits va 38 30 else nbits va 29 21

/-- Walk levels `level` … 0 from a table: where the page entry lies and what it holds. -/
def State.walkFrom (s : State) (va : Nat) : Nat → Nat → Option (Nat × Word)
  | 0, t =>
    let a := t + 8 * vaIndex 0 va
    if s.tablePlace a then (s.peekWord a).map fun w => (a, w) else none
  | level + 1, t =>
    let a := t + 8 * vaIndex (level + 1) va
    if !s.tablePlace a then none
    else match s.peekWord a with
      | some w => if bit w 63 then s.walkFrom va level (fld w 51 12 * 4096) else none
      | none => none

/-- The page entry of a virtual address as the tables stand. -/
def State.pageEntry (s : State) (asid va : Nat) : Option (Nat × Word) :=
  let root := s.dev.reg (.resRoot (Fin.ofNat 16 asid))
  if bit root 63 then s.walkFrom va 2 (fld root 51 16 * 65536) else none

/-- Whether a page entry maps a page in the stack: fixed, or managed with LOC 0b00 (R190). -/
def pteHere (w : Word) : Bool := bit w 63 && (!bit w 62 || fld w 61 60 == 0)

/-- The physical address of a virtual address through a page entry (R190). -/
def ptePhys (w : Word) (va : Nat) : Nat := fld w 31 1 * 2 ^ 21 + va % 2 ^ 21

/-- Whether a physical range lies in a read-only region some running launch declared (R111): the pages of each region as
they are mapped. -/
def State.roConflict (s : State) (a n : Nat) : Bool :=
  s.dev.cores.any fun e => match e.2.task with
    | none => false
    | some t => e.2.regions.any fun r =>
      (List.range (ceilDiv (r.base % 2 ^ 21 + r.length) (2 ^ 21))).any fun j =>
        let va := (r.base / 2 ^ 21 + j) * 2 ^ 21
        match s.pageEntry t.asid va with
        | some (_, w) =>
          let lo := ptePhys w (max va r.base)
          let hi := ptePhys w va + (min (va + 2 ^ 21) (r.base + r.length) - va)
          pteHere w && decide (a < hi ∧ lo < a + n)
        | none => false

end Sys2Proof.Machine
end

