-- ==== Sys2Proof/Machine/Upsets.lean ====
section
/-! DEFINITION. What the error correction finds in a slice or its channel (R162 … R164, R176 … R183): corrected symbols,
uncorrectable sectors, failed frame checks, and the remap candidates they make. -/

namespace Sys2Proof.Machine

-- remap candidates (R181, R182)

/-- Store a remap entry and keep it across power loss (R181). -/
def State.putRemap (s : State) (p : PartIx) (c : ChanIx) (i : Fin 8) (w : Word) : State :=
  (s.onDev fun d => d.setRemap p c i w).onNv fun nv => nv.keepReg (.sliceRemap p ⟨8 * c.val + i.val, by omega⟩) w

/-- A line becomes a remap candidate (R181, R182): the lowest unused entry is taken and the copy starts; a spare line that
is itself a candidate has SPENT set. With all eight entries used REMAP_FULL is recorded. A slice copies one line at a time; a
candidate met meanwhile takes its turn after (log entry 119). -/
def State.remapCandidate (s : State) (p : PartIx) (c : ChanIx) (line : Nat) : State :=
  match (s.dev.slice p c).copying with
  | some (_, l) =>
    if l = line ∨ (s.dev.slice p c).cands.contains line then s
    else s.onDev fun d => d.modSlice p c fun x => { x with cands := x.cands ++ [line] }
  | none => match (List.finRange 8).find? fun i => !remapUsed (s.dev.remapWord p c i) with
    | none => s.record .remapFull line 0 (s.dev.sliceId p c)
    | some i =>
      let s := (s.dev.remapOf p c (line % 2 ^ 36)).foldl (fun s j =>
        s.putRemap p c j (setBit (setBit (s.dev.remapWord p c j) 63 false) 62 true)) s
      s.onDev fun d => d.modSlice p c fun x => { x with copying := some (i.val, line) }

/-- The mark of a DRAM sector of a channel's line: as DRAM holds it, whether or not the line is cached. -/
def State.dramBad (s : State) (a : Nat) : Option Bool :=
  match s.dev.cached (a / 128) with
  | some x => x.oldBad.get none (a / 32 * 32)
  | none => s.mem.badAt (a / 32 * 32)

/-- Change what DRAM holds of the line of an address. -/
def State.onDram (s : State) (a : Nat) (f : Memory → Memory) : State :=
  match s.dev.cached (a / 128) with
  | some x =>
    let m := f ⟨x.old, x.oldBad⟩
    s.onDev fun d => { d with cache := d.cache.set none (a / 128) (some { x with old := m.cells, oldBad := m.bad }) }
  | none => { s with mem := f s.mem }

/-- A read of a DRAM sector meets changed symbols (R176, R181): a corrected one is recorded and rewritten, an uncorrectable
sector stays so; a sector that errs again after its rewrite makes its line a remap candidate. -/
def State.sectorUpset (s : State) (p : PartIx) (c : ChanIx) (a : Nat) (v : Verdict) : State :=
  let was := s.dramBad a
  let s := s.onDram a fun m => m.upset (a / 32 * 32) v
  let seen (l : List Nat) : Bool := l.contains (a / 32)
  match v with
  | .clean _ => s
  | .fixed k _ =>
    if was.isSome then s
    else
      let s := s.record .memCeDram (a / 32 * 32) (a / 32 % 4 * 256 + k) (s.dev.sliceId p c)
      if seen (s.dev.slice p c).ceSeen then s.remapCandidate p c (a / 128 * 128)
      else s.onDev fun d => d.modSlice p c fun x => { x with ceSeen := x.ceSeen ++ [a / 32] }
  | .bad =>
    if was.isSome then s
    else if seen (s.dev.slice p c).ueSeen then s.remapCandidate p c (a / 128 * 128)
    else s.onDev fun d => d.modSlice p c fun x => { x with ueSeen := x.ueSeen ++ [a / 32] }

/-- A read of a near-layer word meets flipped bits (R176): a corrected one is recorded and rewritten, an uncorrectable word stays
so. -/
def State.wordUpset (s : State) (p : PartIx) (c : ChanIx) (a : Nat) (v : Verdict) : State :=
  let was := s.mem.badAt (a / 8 * 8)
  let s : State := { s with mem := s.mem.upset (a / 8 * 8) v }
  match v with
  | .fixed k _ => if was.isSome then s else s.record .memCeSram (a / 8 * 8) k (s.dev.sliceId p c)
  | _ => s

-- frames (R163, R164)

/-- The lines that share a frame with a line, by column. -/
def Dev.frameLines (d : Dev) (l : Nat) : List Nat :=
  match d.cached l with
  | none => []
  | some x => (List.range 4).filter fun q => (d.cached (colMate l q)).any fun y => y.way == x.way

/-- Mark the words of a line uncorrectable where they are not already. -/
def Memory.spoilLine (m : Memory) (l : Nat) : Memory :=
  (List.range 16).foldl (fun m i => m.setBad (l * 128 + 8 * i) (some ((m.badAt (l * 128 + 8 * i)).getD false))) m

/-- Bits of the frame that holds a line have flipped unseen by SECDED (R164): a half or a quad whose CRC-16 does not match is
an uncorrectable error in every line it holds; where it matches, and in an uncompressed frame, the data is what the bits now
spell. -/
def State.frameUpset (s : State) (p : PartIx) (c : ChanIx) (l : Nat) (flips : List Nat) : State :=
  let at' (q : Nat) : List Byte := (s.lineBytes (colMate l q)).getD []
  let fails (lines : List Nat) (mode : Nat) : State :=
    let s : State := { s with mem := lines.foldl Memory.spoilLine s.mem }
    s.record .frameCrc (128 * lines.foldl min (lines.headD 0)) mode (s.dev.sliceId p c)
  let put (s : State) (q : Nat) (b : List Byte) : State := { s with mem := s.mem.poke (colMate l q * 128) b }
  match s.dev.cached l with
  | none => s
  | some x => match x.mode with
    | .one => { s with mem := (List.range 16).foldl (fun m i =>
        m.xor (l * 128 + 8 * i) (bitMasks ((flips.filter fun k => k / 64 == i).map (· % 64)))) s.mem }
    | .pair =>
      let q := (l >>> 5) % 4
      let h := flipIn (pairHalf (at' q)) ((flips.filter fun k => k / 512 == q % 2).map (· % 512))
      if crcFails h then fails [l] 1 else put s q (pairLine h)
    | .quad =>
      let qs := s.dev.frameLines l
      let f := flipIn (quadFrame ((List.range 4).map fun q => if qs.contains q then some (at' q) else none)) flips
      if crcFails f then fails (qs.map (colMate l)) 2
      else (qs.filter fun q => (ofLe (f.drop 16)).testBit q).foldl (fun s q => put s q (quadLine f q)) s

/-- Bits of a remap entry have flipped (R176, R183): one is corrected and recorded; what SECDED cannot correct leaves the entry as
the bits now stand, a table fault (log entry 119). -/
def State.tableUpset (s : State) (p : PartIx) (c : ChanIx) (a : Nat) (i : Fin 8) (flips : List Nat) : State :=
  let masks (bits : List Nat) : List (Nat × Byte) := bits.map fun k => (k / 8, BitVec.ofNat 8 (2 ^ (k % 8)))
  let left (e : List (Nat × Byte)) : Word := e.foldl (fun w x => if x.1 < 8 then w ^^^ BitVec.ofNat 64 (x.2.toNat * 256 ^ x.1) else w) 0
  match hsiaoDecode (masks flips) with
  | .fixed k e => (s.onDev fun d => d.setRemap p c i (d.remapWord p c i ^^^ left e)).record .memCeSram (a / 128 * 128) k (s.dev.sliceId p c)
  | .clean e => s.onDev fun d => d.setRemap p c i (d.remapWord p c i ^^^ left e)
  | .bad => s.onDev fun d => d.setRemap p c i (d.remapWord p c i ^^^ left (masks flips))

/-- Any change of a far-tier sector counts as poison from its expander (R179). -/
def State.farUpset (s : State) (f : Nat) (u : Upset) : State :=
  match u, s.dev.farKey f with
  | .hit _, some key => { s with mem := s.mem.setBad (key / 32 * 32) (some ((s.mem.badAt (key / 32 * 32)).getD true)) }
  | _, _ => s

/-- What the error correction finds at the access of an address, beyond the granules already known bad (R164, R176, R179, R181). -/
def State.applyUpset (s : State) (a : Nat) (u : Upset) : State :=
  match s.place a with
  | .mem p c dram => match u with
    | .none => s
    | .hit e =>
      if dram && !s.dev.inSlice (a / 128) then s.sectorUpset p c a (rsDecode e) else s.wordUpset p c a (hsiaoDecode e)
    | .frame flips => if dram then s.frameUpset p c (a / 128) flips else s
    | .table i flips => if dram then s.tableUpset p c a i flips else s
  | .far f => s.farUpset f u
  | _ => s

end Sys2Proof.Machine
end

