-- ==== Sys2Proof/Machine/Gate.lean ====
section
/-! DEFINITION. Who may access a slice next (R145, R149 … R152, R165 … R167, R171, R181): what is held while a channel retrains or
copies a line, what waits for a grant, and how the scheduler of a slice chooses. -/

namespace Sys2Proof.Machine

/-- Whether what waits is still wanted: a reset, an abort or an answer given elsewhere ends it. -/
def Dev.alive (d : Dev) : Token → Bool
  | .req id => (d.reqs.get none id).any fun q => q.st == .mesh || q.st == .held
  | .dma c n => let x := (d.core c).dma.get {} n; x.phase == .running && !x.moved
  | .host => true
  | .link n vc => ((d.port n).oldest vc).isSome
  | .walk r => d.walks.any fun w => w.who == r && decide (w.level ≤ 2)
  | .pager a => d.pagers.any fun e => e.2.moves.any fun m => m.pteAt == a
  | .anchor p => decide (1 ≤ fld (d.reg (.anchStat p)) 63 61 ∧ fld (d.reg (.anchStat p)) 63 61 ≤ 3)

/-- What waits and is still wanted, in order of arrival. -/
def Dev.waiters (d : Dev) : List Waiting := d.waits.filter fun w => d.alive w.tok

/-- A slice by its number. -/
def Dev.sliceAt (d : Dev) (k : Nat) : Slice := d.slices.get {} k

/-- Whether a channel takes no new request (R149, R151): it retrains, or accepted requests are still to be reissued. -/
def Dev.chanStopped (d : Dev) (k : Nat) : Bool :=
  let x := d.sliceAt k
  x.attempt != 0 || x.reissue.any fun id => (d.reqs.get none id).any fun q => q.st == .dram

/-- Whether an update of a line has reached its slice and is not done (R171). -/
def Dev.updating (d : Dev) (l : Nat) : Bool :=
  d.reqs.any fun e => e.2.any fun q =>
    q.addr / 128 == l && q.op.atomic && (q.st == .adder || (q.st == .dram))

/-- Whether nothing holds an access back anywhere: no access waits, no channel is stopped, copies a line or owes a refresh at the
limit of R150, no adder has work. -/
def Dev.calm (d : Dev) : Bool :=
  d.waits == [] &&
    d.slices.all (fun e => e.2.attempt == 0 && e.2.copying.isNone && e.2.reissue == [] && e.2.deferral.all fun n => decide (n.2 < 8)) &&
    !(d.reqs.any fun e => e.2.any fun q => q.op.atomic && (q.st == .adder || q.st == .dram))

-- the scheduler of a slice (R165, R166)

/-- Place of a class in SLICE_WRR. -/
def Class.ix : Class → Nat
  | .core => 0 | .dma => 1 | .pager => 2 | .adder => 3 | .host => 4 | .link => 5

/-- Weight of a class (R166): a weight of 0 acts as 1. -/
def wrrWeight (w : Word) (c : Class) : Nat := max 1 (nbits w.toNat (4 * c.ix + 3) (4 * c.ix))

/-- Round robin per source: the first of the next source after the one served last, `last` being that source plus one. -/
def nextSource (last : Nat) (l : List Waiting) : Option Waiting :=
  let least (l : List Waiting) : Option Waiting := l.foldl (fun m w => match m with
    | none => some w
    | some v => if w.src < v.src then some w else some v) none
  (least (l.filter fun w => decide (last ≤ w.src))).orElse fun _ => least l

/-- The classes in the order a round serves them (log entry 121). -/
def classes : List Class := [.core, .dma, .pager, .adder, .host, .link]

/-- What the scheduler grants next of accesses in order of arrival, and how it stands then: a latency-critical one, but one bulk
grant after 16 in a row with bulk waiting; else the round, in which each class gets up to its weight in lines. -/
def Arb.pick (a : Arb) (wrr : Word) (l : List Waiting) : Option Waiting × Arb :=
  let bulk := l.filter fun w => !w.crit
  match l.find? (·.crit), bulk with
  | some w, [] => (some w, { a with run := 0 })
  | none, [] => (none, a)
  | crit, _ =>
    match (if a.run < 16 then crit else none) with
    | some w => (some w, { a with run := a.run + 1 })
    | none =>
      let waiting := classes.filter fun c => bulk.any fun w => w.cls == c
      let open' (t : Tbl Nat) : Option Class := waiting.find? fun c => decide (0 < t.get 0 c.ix)
      let left := if (open' a.left).isSome then a.left else classes.map fun c => (c.ix, wrrWeight wrr c)
      match open' left with
      | none => (none, a)
      | some c => match nextSource (a.last.get 0 c.ix) (bulk.filter fun w => w.cls == c) with
        | none => (none, a)
        | some w => (some w, { run := 0, left := left.set 0 c.ix (left.get 0 c.ix - 1), last := a.last.set 0 c.ix (w.src + 1) })

/-- Weights of a slice. -/
def Dev.wrr (d : Dev) (k : Nat) : Word := d.reg (.sliceWrr (Fin.ofNat 8 (k / 32)))

/-- What waits for a grant of a slice, with an access in its place. -/
def Dev.rivals (d : Dev) (k : Nat) (w : Waiting) : List Waiting :=
  let l := if d.waiters.any fun x => x.tok == w.tok then d.waiters else d.waiters ++ [w]
  (l.map fun x => if x.tok == w.tok then { w with hold := .grant } else x).filter fun x => x.hold == .grant && x.slices.contains k

/-- Whether a slice grants an access now: nothing else waits for a grant, or the scheduler picks it. Fills of one line in the
write-back buffer go by turns, from the source after the one served last (R167). -/
def Dev.grants (d : Dev) (k : Nat) (w : Waiting) (fill : Bool) : Bool :=
  let l := d.rivals k w
  let same := l.filter fun x => x.lines == w.lines
  if l.length ≤ 1 then true
  else if fill && w.lines.length == 1 && decide (2 ≤ same.length) &&
      w.lines.any (fun l => (d.sliceAt k).wb.contains l && (d.cached l).isNone) then
    (nextSource (d.sliceAt k).wbLast same).any fun x => x.tok == w.tok
  else (((d.sliceAt k).arb.pick (d.wrr k) l).1).any fun x => x.tok == w.tok

/-- The schedulers after an access has been granted against others. -/
def Dev.granted (d : Dev) (w : Waiting) (fill : Bool) : Dev :=
  w.slices.foldl (fun d k =>
    let d := if fill && w.lines.any (d.sliceAt k).wb.contains then
        { d with slices := d.slices.modify {} k fun x => { x with wbLast := w.src + 1 } } else d
    if (d.rivals k w).length ≤ 1 then d
    else match (d.sliceAt k).arb.pick (d.wrr k) (d.rivals k w) with
      | (some x, a) => if x.tok = w.tok then { d with slices := d.slices.modify {} k fun y => { y with arb := a } } else d
      | (none, _) => d) d

-- what stands in the way of an access

/-- Why an access may not be made now; none where nothing stands in its way. `chans` are the slices whose channel it needs,
`writes` the lines it writes. An access of many
slices is made once one of them grants it (log entry 121). -/
def Dev.obstacle (d : Dev) (w : Waiting) (chans writes : List Nat) : Option Hold :=
  let before := d.waiters.takeWhile fun x => x.tok != w.tok
  if chans.any d.chanStopped then some .retrain
  else if before.any fun x => x.hold == .retrain && x.slices.any fun k => chans.contains k && !x.refused.contains k then some .retrain
  else if chans.any fun k => (d.sliceAt k).copying.any fun e => writes.contains (e.2 / 128) then some .copyWr
  else if chans.any fun k => (d.sliceAt k).copying.isSome && before.any fun x =>
      x.hold == .copyWr && x.cls == w.cls && x.src == w.src && x.slices.contains k then some .copyRd
  else if w.lines.any d.updating then some .grant
  else if chans.any fun k => (d.sliceAt k).deferral.any fun n => decide (8 ≤ n.2) then some .grant
  else if w.slices == [] || w.slices.any fun k => d.grants k w (writes == []) then none
  else some .grant

/-- An access takes its place among those that wait, or keeps it. -/
def Dev.enqueueWait (d : Dev) (now : Nat) (w : Waiting) (h : Hold) (chans : List Nat) : Dev :=
  let d := if d.waits.any fun x => x.tok == w.tok then
      { d with waits := d.waits.map fun x => if x.tok == w.tok then { w with hold := h } else x }
    else { d with waits := d.waiters ++ [{ w with hold := h }] }
  if h = .retrain then
    chans.foldl (fun d k => { d with slices := d.slices.modify {} k fun x => if x.attempt != 0 && x.heldAt == 0 then { x with heldAt := now + 1 } else x }) d
  else d

/-- Numbers of sources (R166). -/
def srcDma (c : CoreIx) (n : Nat) : Nat := 576 + 4 * c.val + n
@[inherit_doc srcDma]
def srcLink (n : PortIx) : Nat := 576 + 2304 + n.val

/-- An access waits no longer. -/
def Dev.unwait (d : Dev) (t : Token) : Dev := { d with waits := d.waits.filter fun x => x.tok != t }

/-- Slices and lines that runs of bytes touch in partition memory: slice, line, whether it is DRAM. -/
def State.touched (s : State) (l : List (Nat × Nat)) : List (Nat × Nat × Bool) :=
  l.flatMap fun e => (spanPieces e.1 e.2).filterMap fun x => match s.place x.1 with
    | .mem p c dram => some (sliceNo p c, x.1 / 128, dram)
    | _ => none

/-- An agent's access in its turn: made now, or kept waiting with its place in the order of arrival; one whose hold has run out is
made with its channels answering error completions (R152). Whether it was made, and the state. -/
def State.attempt (s : State) (t : Token) (cls : Class) (src : Nat) (reads writes : List (Nat × Nat)) (f : State → State)
    (crit : Bool := false) : Bool × State :=
  if s.dev.calm then (true, f s)
  else
    let wr := s.touched writes
    let all := s.touched reads ++ wr
    let chans := nub ((all.filter (·.2.2)).map (·.1))
    let refused := ((s.dev.waits.find? fun x => x.tok == t).map (·.refused)).getD []
    let w : Waiting := { tok := t, slices := nub (all.map (·.1)), lines := nub (all.map (·.2.1)), crit := crit, cls := cls, src := src, refused := refused }
    match s.dev.obstacle w (chans.filter fun k => !refused.contains k) (nub (wr.map (·.2.1))) with
    | some h => (false, s.onDev fun d => d.enqueueWait s.now w h chans)
    | none =>
      let s := s.onDev fun d => { (d.granted w (wr == [])).unwait t with refusing := refused }
      (true, (f s).onDev fun d => { d with refusing := [] })

@[inherit_doc State.attempt]
def State.gated (s : State) (t : Token) (cls : Class) (src : Nat) (reads writes : List (Nat × Nat)) (f : State → State)
    (crit : Bool := false) : State :=
  (s.attempt t cls src reads writes f crit).2

/-- A unit of work of a partition's Anchor, which may touch every channel of the partition: held while one of them is (R151). -/
def State.anchorTurn (s : State) (p : PartIx) (f : State → State) : State :=
  if s.dev.calm then f s
  else
    let chans := (List.finRange 32).map (sliceNo p)
    let refused := ((s.dev.waits.find? fun x => x.tok == .anchor p).map (·.refused)).getD []
    let w : Waiting := { tok := .anchor p, slices := chans, cls := .adder, src := p.val, refused := refused }
    match s.dev.obstacle w (chans.filter fun k => !refused.contains k) [] with
    | some h => s.onDev fun d => d.enqueueWait s.now w h chans
    | none => (f (s.onDev fun d => { d.unwait w.tok with refusing := refused })).onDev fun d => { d with refusing := [] }

end Sys2Proof.Machine
end

