-- ==== Sys2Proof/Machine/Float.lean ====
section
/-! DEFINITION. Numbers: the floating-point formats of R62 and R169 with the IEEE binary formats, exact sums and
products, the one rounding of R84, stochastic rounding and its generator (R126). -/

namespace Sys2Proof.Machine

/-- What a format does with its topmost encodings: IEEE infinities and NaNs; E4M3's one NaN; finite values only. -/
inductive FKind where
  | ieee | e4m3 | finite
  deriving DecidableEq, Repr

/-- A binary floating-point format: exponent bits, fraction bits, bias. -/
structure Fmt where
  eb : Nat
  mb : Nat
  bias : Nat
  kind : FKind
  deriving DecidableEq, Repr

namespace Fmt
/-- binary32 -/
def fp32 : Fmt := ⟨8, 23, 127, .ieee⟩
/-- binary64 -/
def fp64 : Fmt := ⟨11, 52, 1023, .ieee⟩
/-- BF16 -/
def bf16 : Fmt := ⟨8, 7, 127, .ieee⟩
/-- FP16 -/
def fp16 : Fmt := ⟨5, 10, 15, .ieee⟩
/-- OCP E4M3 -/
def e4m3 : Fmt := ⟨4, 3, 7, .e4m3⟩
/-- OCP E5M2 -/
def e5m2 : Fmt := ⟨5, 2, 15, .ieee⟩
/-- E3M2 of MXFP6 -/
def e3m2 : Fmt := ⟨3, 2, 3, .finite⟩
/-- E2M3 of MXFP6 -/
def e2m3 : Fmt := ⟨2, 3, 1, .finite⟩
/-- E2M1 of MXFP4 -/
def e2m1 : Fmt := ⟨2, 1, 1, .finite⟩
end Fmt

/-- A decoded value: a finite one is ±m × 2^e, zero keeping its sign. -/
inductive FVal where
  | nan | inf (neg : Bool) | fin (neg : Bool) (m : Nat) (e : Int)
  deriving DecidableEq, Repr

/-- Decode the bits of a format. -/
def Fmt.decode (f : Fmt) (n : Nat) : FVal :=
  let neg := n.testBit (f.eb + f.mb)
  let x := (n >>> f.mb) % 2 ^ f.eb
  let m := n % 2 ^ f.mb
  let value := if x = 0 then FVal.fin neg m (1 - (f.bias : Int) - f.mb)
    else .fin neg (m + 2 ^ f.mb) ((x : Int) - f.bias - f.mb)
  match f.kind with
  | .ieee => if x = 2 ^ f.eb - 1 then (if m = 0 then .inf neg else .nan) else value
  | .e4m3 => if x = 2 ^ f.eb - 1 ∧ m = 2 ^ f.mb - 1 then .nan else value
  | .finite => value

/-- The sign bit in place. -/
def Fmt.sign (f : Fmt) (neg : Bool) : Nat := if neg then 2 ^ (f.eb + f.mb) else 0

/-- The infinity of a format that has one. -/
def Fmt.infBits (f : Fmt) (neg : Bool) : Nat := f.sign neg + (2 ^ f.eb - 1) * 2 ^ f.mb

/-- The canonical NaN: of IEEE formats the quiet NaN with a zero payload, of E4M3 0x7F (R170). -/
def Fmt.nanBits (f : Fmt) : Nat :=
  match f.kind with
  | .ieee => (2 ^ f.eb - 1) * 2 ^ f.mb + 2 ^ (f.mb - 1)
  | _ => 2 ^ (f.eb + f.mb) - 1

/-- The magnitude bits of the largest finite value. -/
def Fmt.maxMag (f : Fmt) : Nat :=
  match f.kind with
  | .ieee => (2 ^ f.eb - 1) * 2 ^ f.mb - 1
  | .e4m3 => 2 ^ (f.eb + f.mb) - 2
  | .finite => 2 ^ (f.eb + f.mb) - 1

/-- The largest finite value of a sign. -/
def Fmt.maxBits (f : Fmt) (neg : Bool) : Nat := f.sign neg + f.maxMag

/-- How a rounding chooses: to nearest even, toward zero, stochastic with 16 random bits, down, up, to nearest away. -/
inductive Rnd where
  | ne | tz | stoch (r : Nat) | dn | up | mm
  deriving DecidableEq, Repr

/-- m ÷ 2^sh to an integer by a rounding, for a value of sign `neg`. -/
def roundShift (rm : Rnd) (neg : Bool) (m sh : Nat) : Nat :=
  let q := m >>> sh
  let r := m % 2 ^ sh
  match rm with
  | .ne => if 2 ^ sh < 2 * r ∨ (2 * r = 2 ^ sh ∧ q % 2 = 1) then q + 1 else q
  | .tz => q
  | .stoch k => (m * 65536 + k % 65536 * 2 ^ sh) >>> (sh + 16)
  | .dn => if neg && r ≠ 0 then q + 1 else q
  | .up => if !neg && r ≠ 0 then q + 1 else q
  | .mm => if 2 ^ sh ≤ 2 * r then q + 1 else q

/-- A rounded value: its bits, whether it overflowed (R84; the bits then are those of the largest finite value),
whether the rounding was inexact, whether the result before it was below the normal range. -/
structure Rounded where
  bits    : Nat
  ovf    : Bool := false
  inexact : Bool := false
  tiny    : Bool := false
  deriving DecidableEq, Repr

/-- floor(log2 m) for m > 0. -/
def log2N (m : Nat) : Int := (Nat.log2 m : Nat)

/-- Round ±m × 2^e to a format, once, with an unbounded exponent range for the overflow test (R84). -/
def Fmt.round (f : Fmt) (rm : Rnd) (neg : Bool) (m : Nat) (e : Int) : Rounded :=
  if m = 0 then { bits := f.sign neg }
  else
    let top := log2N m + e
    let qmin : Int := 1 - (f.bias : Int) - f.mb
    let q := max (top - f.mb) qmin
    let k := if e < q then roundShift rm neg m (q - e).toNat else m <<< (e - q).toNat
    let inexact := decide (e < q) && m % 2 ^ (q - e).toNat != 0
    let mag := ((q - qmin).toNat) * 2 ^ f.mb + k
    -- tininess after rounding: the value rounded with an unbounded exponent range stays below the normal range
    let k' := if e < top - f.mb then roundShift rm neg m (top - f.mb - e).toNat else 2 ^ f.mb
    let tiny := decide (top < 1 - (f.bias : Int)) && !(decide (top = -(f.bias : Int)) && k' == 2 ^ (f.mb + 1))
    if f.maxMag < mag then { bits := f.maxBits neg, ovf := true, inexact := true }
    else { bits := f.sign neg + mag, inexact := inexact, tiny := tiny }

-- exact sums and products

/-- z × 2^e. -/
structure Dy where
  z : Int
  e : Int
  deriving DecidableEq, Repr

/-- Exact sum. -/
def Dy.add (a b : Dy) : Dy :=
  let e := min a.e b.e
  ⟨a.z * 2 ^ (a.e - e).toNat + b.z * 2 ^ (b.e - e).toNat, e⟩

/-- Exact product. -/
def Dy.mul (a b : Dy) : Dy := ⟨a.z * b.z, a.e + b.e⟩

/-- Exact difference. -/
def Dy.neg (a : Dy) : Dy := ⟨-a.z, a.e⟩

/-- Exact sum of a list. -/
def Dy.sum (l : List Dy) : Dy := l.foldl Dy.add ⟨0, 0⟩

/-- floor(log2 |t|) of a non-zero value. -/
def Dy.top (a : Dy) : Int := log2N a.z.natAbs + a.e

/-- Whether a is below b. -/
def Dy.lt (a b : Dy) : Bool := decide ((a.add b.neg).z < 0)

/-- The value of a finite number. -/
def FVal.dy : FVal → Dy
  | .fin neg m e => ⟨if neg then -(m : Int) else m, e⟩
  | _ => ⟨0, 0⟩

/-- Whether a value is NaN. -/
def FVal.isNan : FVal → Bool
  | .nan => true
  | _ => false

/-- Whether a value is a zero. -/
def FVal.isZero : FVal → Bool
  | .fin _ m _ => m == 0
  | _ => false

/-- Whether a value is infinite. -/
def FVal.isInf : FVal → Bool
  | .inf _ => true
  | _ => false

/-- The sign of a value. -/
def FVal.sign : FVal → Bool
  | .nan => false
  | .inf n => n
  | .fin n _ _ => n

/-- Round an exact value; an exact sum of zero is +0 (R84). -/
def Fmt.roundDy (f : Fmt) (rm : Rnd) (d : Dy) : Rounded := f.round rm (decide (d.z < 0)) d.z.natAbs d.e

/-- Truncate toward zero to a multiple of 2^q (R83). -/
def Dy.trunc (a : Dy) (q : Int) : Dy :=
  if q ≤ a.e then a else ⟨a.z.tdiv (2 ^ (q - a.e).toNat), q⟩

-- the generator of R126

/-- One shift of the Galois LFSR: the bit taken out, and the register after. -/
def lfsrStep (r : Nat) : Nat × Nat := (r % 2, if r % 2 = 1 then (r / 2) ^^^ 0x80200003 else r / 2)

/-- Sixteen shifts: the random addend, first bit taken out least significant, and the register after. -/
def lfsr16 : Nat → Nat → Nat → Nat × Nat
  | 0, _, r => (0, r)
  | n + 1, w, r =>
    let (b, r) := lfsrStep r
    let (x, r) := lfsr16 n (2 * w) r
    (b * w + x, r)

/-- The addend of one element and the generator after it. -/
def lfsrTake (r : Nat) : Nat × Nat := lfsr16 16 1 r

-- adds of the slices (R170)

/-- FADD of two elements (R170) with overflow saturating or not; whether the element written is NaN or infinite. -/
def Fmt.addElem (f : Fmt) (rm : Rnd) (sat : Bool) (a b : Nat) : Nat × Bool :=
  match f.decode a, f.decode b with
  | .nan, _ => (f.nanBits, true)
  | _, .nan => (f.nanBits, true)
  | .inf x, .inf y => if x = y then (f.infBits x, true) else (f.nanBits, true)
  | .inf x, _ => (f.infBits x, true)
  | _, .inf y => (f.infBits y, true)
  | x, y =>
    let d := x.dy.add y.dy
    -- the sum of two zeros of negative sign keeps it; every other exact zero is +0
    let neg := if d.z = 0 then x.sign && y.sign else decide (d.z < 0)
    let r := f.round rm neg d.z.natAbs d.e
    if r.ovf then
      if sat then (r.bits, false)
      else match f.kind with
        | .ieee => (f.infBits neg, true)
        | _ => (f.nanBits, true)
    else (r.bits, false)

end Sys2Proof.Machine
end

