-- ==== Sys2Proof/Machine/TensorOps.lean ====
section
/-! DEFINITION. What one tensor instruction computes (R61 … R66, R82 … R88): element formats and layouts, the rounded
sum, a weight load, a run of activation rows; and the views of local SRAM that unordered agents may have (R78). -/

namespace Sys2Proof.Machine

/-- Floating-point format of an element code (R62). -/
def elemFmt (code : Nat) : Fmt :=
  if code = 0 ∨ code = 2 then .e4m3 else if code = 1 ∨ code = 3 then .e5m2 else if code = 4 then .e3m2
  else if code = 5 then .e2m3 else if code = 6 then .e2m1 else if code = 8 then .bf16 else .fp16

/-- Bits of an element (R62). -/
def elemBits (code : Nat) : Nat :=
  if code = 4 ∨ code = 5 then 6 else if code = 6 then 4 else if code = 8 ∨ code = 9 then 16 else 8

/-- MX formats. -/
def isMx (code : Nat) : Bool := decide (2 ≤ code ∧ code ≤ 6)

/-- Reserved codes. -/
def fmtReserved (code : Nat) : Bool := decide (code = 7 ∨ 12 ≤ code)

/-- Integer formats. -/
def isIntFmt (code : Nat) : Bool := decide (code = 10 ∨ code = 11)

/-- The pairs of R64. -/
def fmtPair (a w : Nat) : Bool :=
  decide ((a ≤ 1 ∧ w ≤ 1) ∨ (2 ≤ a ∧ a ≤ 6 ∧ 2 ≤ w ∧ w ≤ 6) ∨ (a = 8 ∧ w = 8) ∨ (a = 9 ∧ w = 9) ∨
    ((a = 10 ∨ a = 11) ∧ (w = 10 ∨ w = 11)))

/-- Bytes of an activation row (R65). -/
def actRow (code : Nat) : Nat := 4 * elemBits code

/-- Bytes of a weight row (R65). -/
def weightRow (code : Nat) : Nat := 16 * elemBits code

/-- The elements packed in a run of bytes, from bit 0 of the lowest byte upward. -/
def unpack (width : Nat) (l : List Byte) (n : Nat) : List Nat :=
  let v := ofLe l
  (List.range n).map fun i => nbits v (width * i + width - 1) (width * i)

/-- The value of an integer element (R86). -/
def intElem (code v : Nat) : Int := if code = 10 then sint 8 v else (v : Int)

/-- Scale exponent of an E8M0 byte; none is NaN (R63). -/
def mxScale (s : Nat) : Option Int := if s = 255 then none else some ((s : Int) - 127)

/-- Flags of TENS_STATUS and VEC_STATUS (R69, R119). -/
def flagNan : Nat := 2
@[inherit_doc flagNan] def flagNv : Nat := 4
@[inherit_doc flagNan] def flagOf : Nat := 8
@[inherit_doc flagNan] def flagIov : Nat := 16
@[inherit_doc flagNan] def flagUe : Nat := 32
@[inherit_doc flagNan] def flagDz : Nat := 64

/-- An FP32 accumulator element (R82 … R87): the terms are the products, scaled by 2^sx, and the accumulator element in
the accumulate form; `wide` truncates the terms to R83's window. -/
def tensSum (rtz osat wide : Bool) (sx : Int) (c : Option FVal) (ps : List (FVal × FVal)) : Nat × Nat :=
  if (c.any FVal.isNan) || ps.any (fun p => p.1.isNan || p.2.isNan) then (0x7FC00000, flagNan)
  else if ps.any (fun p => (p.1.isInf && p.2.isZero) || (p.1.isZero && p.2.isInf)) then (0x7FC00000, flagNv)
  else
    let infs := (ps.filter (fun p => p.1.isInf || p.2.isInf)).map (fun p => xor p.1.sign p.2.sign) ++
      (match c with | some (.inf n) => [n] | _ => [])
    if infs.contains true && infs.contains false then (0x7FC00000, flagNv)
    else match infs with
      | n :: _ => (Fmt.fp32.infBits n, 0)
      | [] =>
        let terms := ps.map (fun p => let d := p.1.dy.mul p.2.dy; ({ z := d.z, e := d.e + sx } : Dy)) ++
          (match c with | some v => [v.dy] | none => [])
        let terms := if wide then
            match (terms.filter (fun t => t.z != 0)).map Dy.top with
            | [] => terms
            | t :: r => let top := r.foldl max t; terms.map (fun d => d.trunc (top - 47))
          else terms
        let r := Fmt.fp32.roundDy (if rtz then .tz else .ne) (Dy.sum terms)
        if r.ovf then
          (if rtz || osat then r.bits else Fmt.fp32.infBits (r.bits.testBit 31), flagOf)
        else (r.bits, 0)

/-- An INT32 accumulator element (R86). -/
def tensInt (c : Option Int) (ps : List (Int × Int)) : Nat × Nat :=
  let s := (ps.map (fun p => p.1 * p.2)).foldl (· + ·) (c.getD 0)
  let r := clampI (-2147483648) 2147483647 s
  (unint 32 r, if r = s then 0 else flagIov)

/-- One accumulator element from raw elements: the activation row with its scale byte, the weight column with its
scale byte, the accumulator element in the accumulate form. -/
def tensElem (ctl : Word) (wf : Nat) (as ws : List Nat) (sa sw : Nat) (c : Option Nat) : Nat × Nat :=
  let af := fld ctl 3 0
  if isIntFmt af then
    tensInt (c.map (sint 32)) ((as.zip ws).map fun p => (intElem af p.1, intElem wf p.2))
  else
    let sx := if isMx af then
        match mxScale sa, mxScale sw with
        | some a, some b => some (a + b)
        | _, _ => none
      else some 0
    match sx with
    | none => (0x7FC00000, flagNan)
    | some sx =>
      tensSum (bit ctl 9) (bit ctl 10) (decide (8 ≤ af)) sx (c.map Fmt.fp32.decode)
        ((as.zip ws).map fun p => ((elemFmt af).decode p.1, (elemFmt wf).decode p.2))

/-- The poisoned result (R88). -/
def tensPoison (ctl : Word) : Nat := if isIntFmt (fld ctl 3 0) then 0x80000000 else 0x7FC00000

/-- Whether an element encodes zero (R89): +0 or −0 in a floating-point format, 0 in an integer format. -/
def elemZero (code v : Nat) : Bool := if isIntFmt code then v == 0 else v % 2 ^ (elemBits code - 1) == 0

/-- What an instruction did: uncorrectable words it met, flags it set, free values it used, and, per activation row, which of
its elements the broadcast edge found to be zero (R89). -/
structure Did where
  bad   : List Nat := []
  flags : Nat := 0
  used  : Nat := 0
  zeros : List (List Bool) := []
  deriving DecidableEq, Repr

/-- Whether a byte range touches an uncorrectable word of a read. -/
def hitsBad (bad : List Nat) (a n : Nat) : Bool := bad.any fun k => decide (a < 8 * k + 8 ∧ 8 * k < a + n)

/-- TLW (R73, R79): 32 weight rows and, for MX, 128 scales, read from `view` into a bank. -/
def TensOp.loadBank (op : TensOp) (view : Memory) (ctr : Nat) : Bank × Did :=
  let wf := fld op.ctl 7 4
  let n := weightRow wf
  let rows := (List.range 32).map fun k => view.read wordGran (ctr + 64 * k) (op.a + k * op.wstride) n
  let sc := if isMx wf then view.read wordGran (ctr + 64 * 32) op.scale 128 else { bytes := [] }
  ({ tag := some wf
     rows := rows.map fun r => unpack (elemBits wf) r.bytes 128
     scales := sc.bytes.map (·.toNat)
     bad := (List.range 32).filter fun k => ((rows.getD k { bytes := [] }).bad != [])
     badScales := (List.range 128).filter fun n => hitsBad sc.bad (op.scale + n) 1 },
   { bad := nub ((rows.map (·.bad)).flatten ++ sc.bad)
     flags := if rows.any (fun r => r.bad != []) || sc.bad != [] then flagUe else 0
     used := 64 * 33 })

/-- One accumulator row of a TMMA: its 512 bytes and what it met. UE tells of words this instruction read; a bank poisoned by its
TLW poisons results without it (R69, R88). A result that depends on a poisoned word sets none of NAN, NV, OF and IOV: R88 names UE
only (DESIGN CHOICE, log entry 116). -/
def TensOp.row (op : TensOp) (b : Bank) (view : Memory) (ctr m : Nat) : List Byte × Did :=
  let af := fld op.ctl 3 0
  let ra := view.read wordGran ctr (op.a + m * op.astride) (actRow af)
  let rs := if isMx af then view.read wordGran (ctr + 64) (op.scale + m) 1 else { bytes := [] }
  let addr := op.acc + m * op.cstride
  let rc := if op.z then { bytes := [] } else view.read wordGran (ctr + 128) addr 512
  let as := unpack (elemBits af) ra.bytes 32
  let sa := ((rs.bytes.map (·.toNat)).getD 0 127)
  let whole := ra.bad != [] || rs.bad != [] || b.bad != []
  let els := (List.range 128).map fun n =>
    if whole || b.badScales.contains n || hitsBad rc.bad (addr + 4 * n) 4 then (tensPoison op.ctl, 0)
    else
      let c := if op.z then none else some (nbits (ofLe rc.bytes) (32 * n + 31) (32 * n))
      tensElem op.ctl (b.tag.getD 0) as (b.rows.map fun r => r.getD n 0) sa (b.scales.getD n 127) c
  ((els.map fun e => leBytes 4 e.1).flatten,
   { bad := ra.bad ++ rs.bad ++ rc.bad, used := 256
     flags := els.foldl (fun f e => f ||| e.2) (if ra.bad ++ rs.bad ++ rc.bad = [] then 0 else flagUe)
     zeros := [as.map fun v => elemZero af v && sa != 255] })

/-- Zero weights of each cell row of a bank, as TLW finds them (R89): an element under a NaN scale is no zero. -/
def Bank.zeroCols (b : Bank) : List Nat :=
  let wf := b.tag.getD 0
  b.rows.map fun r => ((List.range 128).filter fun n => elemZero wf (r.getD n 0) && !(isMx wf && b.scales.getD n 127 == 255)).length

/-- Rows of activations that share a step: MXFP4 against MXFP4 enters two at a time (R79); a cell of such a step is gated by a
zero weight or by two zero activations (DESIGN CHOICE, log entry 117). -/
def pairRows : List (List Bool) → List (List Bool)
  | x :: y :: r => x.zipWith (· && ·) y :: pairRows r
  | l => l

/-- Cell-steps of a TMMA that are not gated and that are gated (R89): 4096 cells in each step of its occupancy (R64). -/
def Bank.cellSteps (b : Bank) (af : Nat) (zeros : List (List Bool)) : Nat × Nat :=
  let steps := if af = 6 ∧ b.tag = some 6 then pairRows zeros else zeros
  let cols := b.zeroCols
  let gated := (steps.map fun z => (z.zipWith (fun a n => if a then 128 else n) cols).sum).sum
  let k := if elemBits af = 16 then 2 else 1
  (k * (4096 * steps.length - gated), k * gated)

/-- The activity counter of R373 that a TMMA's ungated cell-steps advance: 0x03 for MXFP4 against MXFP4, 0x02 for BF16 and FP16,
else 0x01. -/
def cellCounter (af wf : Nat) : Nat := if af = 6 ∧ wf = 6 then 3 else if elemBits af = 16 then 2 else 1

/-- The rows of a TMMA, in ascending order of m (R77, R79); each row reads what the rows before it wrote. -/
def TensOp.rows (op : TensOp) (b : Bank) : Nat → Nat → Nat → Memory → Memory → Memory × Did
  | 0, _, _, _, mem => (mem, {})
  | n + 1, m, ctr, view, mem =>
    let (l, d) := op.row b view ctr m
    let a := op.acc + m * op.cstride
    let (mem, r) := op.rows b n (m + 1) (ctr + 256) (view.write wordGran a l) (mem.write wordGran a l)
    (mem, { bad := d.bad ++ r.bad, flags := d.flags ||| r.flags, used := 256 + r.used, zeros := d.zeros ++ r.zeros })

/-- Run one tensor instruction of a core, reading local SRAM as `view` shows it. -/
def Core.tensRun (k : Core) (op : TensOp) (view : Memory) (ctr : Nat) : Core × Did :=
  if op.tlw then
    let (b, d) := op.loadBank view ctr
    ({ k with shadow := b }, d)
  else
    let k := if op.swap then { k with active := k.shadow, shadow := k.active } else k
    let (mem, d) := op.rows k.active op.m 0 ctr view k.sram
    ({ k with sram := mem }, d)

/-- The extent an instruction writes. -/
def TensOp.writes (op : TensOp) : Nat × Nat := if op.tlw then (0, 0) else (op.acc, (op.m - 1) * op.cstride + 512)

-- views of local SRAM by agents that are not ordered (R78)

/-- Whether two memories agree on a 32-byte sector. -/
def sectorSame (x y : Memory) (k : Nat) : Bool :=
  x.slice (32 * k) 32 == y.slice (32 * k) 32 &&
    (List.range 4).all fun i => x.badAt (32 * k + 8 * i) == y.badAt (32 * k + 8 * i)

/-- A memory each of whose sectors is wholly that of one of the two, chosen by free values (R78). -/
def Memory.race (x y : Memory) (ctr : Nat) : Memory :=
  if x = y then x
  else
    let first (k : Nat) : Bool := sectorSame x y k || bit (Config.free (ctr + k)) 0
    { cells := x.cells.filter (fun c => first (c.1 / 32)) ++ y.cells.filter (fun c => !first (c.1 / 32))
      bad := x.bad.filter (fun e => first (e.1 / 32)) ++ y.bad.filter (fun e => !first (e.1 / 32)) }

/-- Sectors of local SRAM: the free values one racing view uses. -/
def raceSpan : Nat := 131072

/-- A racing view over several contents. -/
def raceAll : List Memory → Memory → Nat → Memory
  | [], x, _ => x
  | y :: r, x, ctr => raceAll r (x.race y ctr) (ctr + raceSpan)

/-- The contents of local SRAM as the queued tensor instructions complete, one after another. -/
def Core.tensFutures (ctr : Nat) : List TensOp → Core → List Memory
  | [], _ => []
  | op :: r, k =>
    let k := (k.tensRun op k.sram ctr).1
    k.sram :: Core.tensFutures ctr r k

end Sys2Proof.Machine
end

