-- ==== Sys2Proof/Machine/VectorOps.lean ====
section
/-! DEFINITION. What one vector instruction computes (R118 … R129): lane arithmetic, the special functions within their
bounds, the fixed reduction tree, widening loads and narrowing stores. -/

namespace Sys2Proof.Machine

/-- A vector register's 128 lanes; they read as zero after core reset (R118). -/
def Core.getV (k : Core) (r : RegNum) : List Word32 := padTo 128 0 (k.v.get [] r.val)

/-- Write a vector register. -/
def Core.setV (k : Core) (r : RegNum) (l : List Word32) : Core := { k with v := k.v.set [] r.val l }

/-- Rounding of arithmetic by VEC_CTL (R124). -/
def vecRnd (ctl : Word) : Rnd := if fld ctl 1 0 = 1 then .tz else .ne

/-- A rounded FP32 result with the overflow flag; on overflow infinity, or the largest finite value toward zero. -/
def vecRound (rm : Rnd) (neg : Bool) (m : Nat) (e : Int) : Nat × Nat :=
  let r := Fmt.fp32.round rm neg m e
  if r.ovf then (if rm = .tz then r.bits else Fmt.fp32.infBits neg, flagOf) else (r.bits, 0)

/-- The canonical NaN of an invalid operation. -/
def vecInvalid : Nat × Nat := (0x7FC00000, flagNv)
/-- The canonical NaN from a NaN operand. -/
def vecNan : Nat × Nat := (0x7FC00000, flagNan)

/-- Round an exact sum; an exact zero keeps a common negative sign. -/
def vecSum (rm : Rnd) (a b : FVal) : Nat × Nat :=
  match a, b with
  | .nan, _ => vecNan
  | _, .nan => vecNan
  | .inf x, .inf y => if x = y then (Fmt.fp32.infBits x, 0) else vecInvalid
  | .inf x, _ => (Fmt.fp32.infBits x, 0)
  | _, .inf y => (Fmt.fp32.infBits y, 0)
  | x, y =>
    let d := x.dy.add y.dy
    vecRound rm (if d.z = 0 then x.sign && y.sign else decide (d.z < 0)) d.z.natAbs d.e

/-- The product of two values as a value: NaN, infinite, or exact; none where it is invalid. -/
def FVal.times (a b : FVal) : Option FVal :=
  match a, b with
  | .nan, _ => some .nan
  | _, .nan => some .nan
  | .inf x, y => if y.isZero then none else some (.inf (xor x y.sign))
  | x, .inf y => if x.isZero then none else some (.inf (xor x.sign y))
  | .fin x m e, .fin y n f => some (.fin (xor x y) (m * n) (e + f))

/-- Negate a value. -/
def FVal.negate : FVal → FVal
  | .nan => .nan
  | .inf x => .inf (!x)
  | .fin x m e => .fin (!x) m e

/-- vd + vs1 × vs2, rounded once. -/
def vecFma (rm : Rnd) (c a b : FVal) : Nat × Nat :=
  if a.isNan || b.isNan || c.isNan then vecNan
  else match a.times b with
    | none => vecInvalid
    | some p => vecSum rm c p

/-- Product, rounded once. -/
def vecMul (rm : Rnd) (a b : FVal) : Nat × Nat :=
  match a.times b with
  | none => vecInvalid
  | some .nan => vecNan
  | some (.inf x) => (Fmt.fp32.infBits x, 0)
  | some (.fin n m e) => vecRound rm n m e

/-- Whether a value lies below another, −0 below +0. -/
def FVal.below (a b : FVal) : Bool :=
  match a, b with
  | .inf x, .inf y => x && !y
  | .inf x, _ => x
  | _, .inf y => !y
  | x, y => x.dy.lt y.dy || ((x.dy.add y.dy.neg).z == 0 && x.sign && !y.sign)

/-- Minimum or maximum of two FP32 words (R121, R124). -/
def vecMinMax (maxi : Bool) (a b : Nat) : Nat × Nat :=
  let x := Fmt.fp32.decode a
  let y := Fmt.fp32.decode b
  if x.isNan || y.isNan then vecNan
  else if xor maxi (y.below x) then (b, 0) else (a, 0)

-- special functions (R124)

/-- The largest r below 2^n with r² ≤ m. -/
def isqrt : Nat → Nat → Nat → Nat
  | 0, _, r => r
  | n + 1, m, r => if (r + 2 ^ n) * (r + 2 ^ n) ≤ m then isqrt n m (r + 2 ^ n) else isqrt n m r

/-- Fixed point: 2^(2^-i) with 160 fraction bits, by repeated square roots. -/
def rootOfTwo : Nat → Nat
  | 0 => 2 ^ 161
  | i + 1 => isqrt 161 (rootOfTwo i * 2 ^ 160) 0

/-- Fixed point: 2^(f ÷ 2^n) with 160 fraction bits for f < 2^n, taking one bit of f at a time. -/
def pow2Frac (n f : Nat) : Nat :=
  (List.range n).foldl (fun p i => if f.testBit (n - 1 - i) then p * rootOfTwo (i + 1) / 2 ^ 160 else p) (2 ^ 160)

/-- Bits of log2 of y ÷ 2^256 in [1, 2), most significant first, by repeated squaring. -/
def log2Frac : Nat → Nat → Nat → Nat
  | 0, _, r => r
  | n + 1, y, r =>
    let y := y * y / 2 ^ 256
    if 2 ^ 257 ≤ y then log2Frac n (y / 2) (2 * r + 1) else log2Frac n y (2 * r)

/-- Magnitude bits that may lie within `n` ulp of a positive value whose nearest FP32 magnitude is `c`; below a power of two
the spacing is half as large. -/
def ulpCandidates (c n : Nat) : List Nat :=
  (List.range (4 * n + 1)).filterMap fun i => if 2 * n ≤ c + i ∧ c + i - 2 * n < 0x7F800000 then some (c + i - 2 * n) else none

/-- Whether magnitude `b` lies within n ulp of t > 0, with a 2^-30 ulp margin for the approximation of t. -/
def withinUlp (n b : Nat) (t : Dy) : Bool :=
  let u : Int := max (t.top - 23) (-149)
  let d := (Fmt.fp32.decode b).dy.add t.neg
  let lim : Dy := ⟨(n : Int) * 2 ^ 30 + 1, u - 30⟩
  !(lim.lt ⟨d.z.natAbs, d.e⟩)

/-- A free choice among the FP32 magnitudes within n ulp of t > 0 (R124, log entry 2). -/
def ulpChoice (n : Nat) (t : Dy) (fr : Word) : Nat :=
  let c := (Fmt.fp32.roundDy .ne t).bits
  match (ulpCandidates c n).filter (fun b => withinUlp n b t) with
  | [] => c
  | l => l.getD (fr.toNat % l.length) c

/-- VEXP2. -/
def vecExp2 (fr : Word) (a : FVal) : Nat × Nat :=
  match a with
  | .nan => vecNan
  | .inf n => (if n then 0 else 0x7F800000, if n then 0 else flagOf)
  | .fin neg m e =>
    let d : Dy := (FVal.fin neg m e).dy
    if !(d.lt ⟨128, 0⟩) then (0x7F800000, flagOf)
    else if !((⟨-150, 0⟩ : Dy).lt d) then (0, 0)
    else
      -- x in units of 2^-96, rounded down; smaller bits change the result by less than 2^-72 of it
      let q : Int := if -96 ≤ d.e then d.z * 2 ^ (d.e + 96).toNat else d.z / 2 ^ (-96 - d.e).toNat
      let n := q / 2 ^ 96
      (ulpChoice 2 ⟨pow2Frac 96 (q % 2 ^ 96).toNat, n - 160⟩ fr, 0)

/-- VLOG2. -/
def vecLog2 (fr : Word) (a : FVal) : Nat × Nat :=
  match a with
  | .nan => vecNan
  | .inf n => if n then vecInvalid else (0x7F800000, 0)
  | .fin neg m e =>
    if m = 0 then (0xFF800000, flagDz)
    else if neg then vecInvalid
    else
      let l := log2N m
      let y := m * 2 ^ 256 / 2 ^ l.toNat
      let z : Int := (l + e) * 2 ^ 90 + log2Frac 90 y 0
      if z = 0 ∧ m = 2 ^ l.toNat then (0, 0)
      else (Fmt.fp32.sign (decide (z < 0)) + ulpChoice 2 ⟨z.natAbs, -90⟩ fr, 0)

/-- VRCP: the FP32 magnitudes y with |y − 1/x| ≤ 1 ulp; an overflow follows RM as every rounding does. -/
def vecRcp (rm : Rnd) (fr : Word) (a : FVal) : Nat × Nat :=
  match a with
  | .nan => vecNan
  | .inf n => (Fmt.fp32.sign n, 0)
  | .fin neg m e =>
    if m = 0 then (Fmt.fp32.infBits neg, flagDz)
    else
      let t : Dy := ⟨2 ^ 120 / m, -120 - e⟩
      let r := Fmt.fp32.roundDy rm t
      if r.ovf then (if rm = .tz then Fmt.fp32.maxBits neg else Fmt.fp32.infBits neg, flagOf)
      else (Fmt.fp32.sign neg + ulpChoice 1 t fr, 0)

/-- A square root to 2 · 80 bits with a sticky bit below them: √(m × 2^e). -/
def sqrtDy (m : Nat) (e : Int) : Dy :=
  let (m, e) := if e % 2 = 0 then (m, e) else (2 * m, e - 1)
  let n := m * 2 ^ 160
  let r := isqrt 200 n 0
  ⟨2 * r + (if r * r = n then 0 else 1), e / 2 - 81⟩

/-- VSQRT: correctly rounded. -/
def vecSqrt (rm : Rnd) (a : FVal) : Nat × Nat :=
  match a with
  | .nan => vecNan
  | .inf n => if n then vecInvalid else (0x7F800000, 0)
  | .fin neg m e =>
    if m = 0 then (Fmt.fp32.sign neg, 0)
    else if neg then vecInvalid
    else ((Fmt.fp32.roundDy rm (sqrtDy m e)).bits, 0)

/-- VRSQRT. -/
def vecRsqrt (fr : Word) (a : FVal) : Nat × Nat :=
  match a with
  | .nan => vecNan
  | .inf n => if n then vecInvalid else (0, 0)
  | .fin neg m e =>
    if m = 0 then (Fmt.fp32.infBits neg, flagDz)
    else if neg then vecInvalid
    else
      let s := sqrtDy m e
      (ulpChoice 1 ⟨2 ^ 300 / s.z, -300 - s.e⟩ fr, 0)

/-- A word of the binary32 value `b`. -/
def w32 (b : Nat) : Word32 := BitVec.ofNat 32 b

/-- One lane of an arithmetic instruction other than the reductions. -/
def vecLane (fn : VecFn) (rm : Rnd) (fr : Word) (d a b : Nat) : Nat × Nat :=
  let x := Fmt.fp32.decode a
  let y := Fmt.fp32.decode b
  match fn with
  | .add => vecSum rm x y
  | .sub => vecSum rm x y.negate
  | .mul => vecMul rm x y
  | .fma => vecFma rm (Fmt.fp32.decode d) x y
  | .min => vecMinMax false a b
  | .max => vecMinMax true a b
  | .abs => if x.isNan then vecNan else (a % 2 ^ 31, 0)
  | .exp2 => vecExp2 fr x
  | .log2 => vecLog2 fr x
  | .rcp => vecRcp rm fr x
  | .sqrt => vecSqrt rm x
  | .rsqrt => vecRsqrt fr x
  | .rsum | .rmax => (a, 0)

/-- One level of the tree of R125: lane i takes lane i + lane i + n for i < n. -/
def vecHalve (f : Nat → Nat → Nat × Nat) (n : Nat) (l : List Nat) : List Nat × Nat :=
  let r := (List.range n).map fun i => f (l.getD i 0) (l.getD (i + n) 0)
  (r.map (·.1), r.foldl (fun g x => g ||| x.2) 0)

/-- The reduction over the 128 lanes (R125): levels s = 6 … 0. -/
def vecReduce (f : Nat → Nat → Nat × Nat) : Nat → List Nat → Nat → Nat × Nat
  | 0, l, g => let (r, h) := vecHalve f 1 l; (r.getD 0 0, g ||| h)
  | s + 1, l, g => let (r, h) := vecHalve f (2 ^ (s + 1)) l; vecReduce f s r (g ||| h)

/-- The lanes and flags of an arithmetic instruction; lane i of a special function takes free value number ctr + i. -/
def vecArith (fn : VecFn) (ctl : Word) (ctr : Nat) (d a b : List Word32) : List Word32 × Nat :=
  let rm := vecRnd ctl
  match fn with
  | .rsum =>
    let (v, g) := vecReduce (fun x y => vecSum rm (Fmt.fp32.decode x) (Fmt.fp32.decode y)) 6 (a.map (·.toNat)) 0
    (List.replicate 128 (w32 v), g)
  | .rmax =>
    let (v, g) := vecReduce (vecMinMax true) 6 (a.map (·.toNat)) 0
    (List.replicate 128 (w32 v), g)
  | fn =>
    let r := (List.range 128).map fun i =>
      vecLane fn rm (Config.free (ctr + i)) (d.getD i 0).toNat (a.getD i 0).toNat (b.getD i 0).toNat
    (r.map (fun x => w32 x.1), r.foldl (fun g x => g ||| x.2) 0)

-- loads and stores (R122, R126, R127)

/-- Bits of a vector load or store element. -/
def vecBits (code : Nat) : Nat := if code = 0x10 ∨ code = 0x11 then 32 else elemBits code

/-- Bytes of 128 elements. -/
def vecBytes (code : Nat) : Nat := 16 * vecBits code

/-- Codes VLD and VST accept (R122). -/
def vecCode (code : Nat) : Bool := decide (code ≤ 1 ∨ (8 ≤ code ∧ code ≤ 11) ∨ code = 0x10 ∨ code = 0x11)

/-- An element as VLD widens it to FP32 (R122). -/
def vecWiden (rm : Rnd) (code v : Nat) : Nat :=
  if code = 0x10 then v
  else if code = 0x11 ∨ isIntFmt code then
    let z := if code = 0x11 then sint 32 v else intElem code v
    (Fmt.fp32.round rm (decide (z < 0)) z.natAbs 0).bits
  else match (elemFmt code).decode v with
    | .nan => 0x7FC00000
    | .inf n => Fmt.fp32.infBits n
    | .fin n m e => (Fmt.fp32.round .ne n m e).bits

/-- Rounding of a narrowing store by VEC_CTL with one element's random bits (R126). -/
def storeRnd (ctl : Word) (r : Nat) : Rnd :=
  if fld ctl 1 0 = 1 then .tz else if fld ctl 1 0 = 2 then .stoch r else .ne

/-- An integer target of a narrowing store (R126): width and signedness by code. -/
def narrowInt (rm : Rnd) (code : Nat) (x : FVal) : Nat × Nat :=
  let n := if code = 0x11 then 32 else 8
  let lo : Int := if code = 11 then 0 else -(2 ^ (n - 1) : Int)
  let hi : Int := if code = 11 then 255 else 2 ^ (n - 1) - 1
  match x with
  | .nan => (0, flagNv)
  | .inf s => (unint n (if s then lo else hi), flagIov)
  | .fin s m e =>
    let k : Int := if 0 ≤ e then (m <<< e.toNat : Nat) else (roundShift rm s m (-e).toNat : Nat)
    let z := if s then -k else k
    let r := clampI lo hi z
    (unint n r, if r = z then 0 else flagIov)

/-- A narrowed element of a floating-point target (R126). -/
def narrowFloat (f : Fmt) (rm : Rnd) (sat : Bool) (x : FVal) : Nat × Nat :=
  match x with
  | .nan => (if f.kind = .finite then 0 else f.nanBits, flagNan)
  | .inf s => match f.kind with
    | .ieee => (f.infBits s, 0)
    | .e4m3 => (f.nanBits, flagNv)
    | .finite => (f.maxBits s, 0)
  | .fin s m e =>
    let r := f.round rm s m e
    if r.ovf then
      if sat || rm == .tz then (r.bits, flagOf)
      else match f.kind with
        | .ieee => (f.infBits s, flagOf)
        | .e4m3 => (f.nanBits, flagOf)
        | .finite => (r.bits, flagOf)
    else (r.bits, 0)

/-- One element of a VST. FP32 is stored as it is. -/
def vecNarrow (ctl : Word) (code r v : Nat) : Nat × Nat :=
  if code = 0x10 then (v, 0)
  else if code = 0x11 ∨ isIntFmt code then narrowInt (storeRnd ctl r) code (Fmt.fp32.decode v)
  else narrowFloat (elemFmt code) (storeRnd ctl r) (bit ctl 2) (Fmt.fp32.decode v)

/-- The random addends of `n` elements in lane order and the generator after them; none are drawn unless RM is stochastic. -/
def drawAll (on : Bool) : Nat → Nat → List Nat × Nat
  | 0, seed => ([], seed)
  | n + 1, seed =>
    let (r, seed) := if on then lfsrTake seed else (0, seed)
    let (l, seed) := drawAll on n seed
    (r :: l, seed)

/-- Pack elements of a width, the first at bit 0 of the lowest byte. -/
def packBits (width : Nat) : List Nat → Nat
  | [] => 0
  | v :: r => v % 2 ^ width + 2 ^ width * packBits width r

/-- The largest exponent of an MX element format (R127). -/
def mxEmax (code : Nat) : Int := if code = 2 then 8 else if code = 3 then 15 else if code = 4 then 4 else 2

/-- One block of 32 values of a VSTX: its scale byte, its elements, its flags (R127). Which flags a block with an infinity and no
NaN raises is not stated: none (DESIGN CHOICE, log entry 120). -/
def mxBlock (ctl : Word) (code : Nat) (rs vs : List Nat) : Nat × List Nat × Nat :=
  let xs := vs.map Fmt.fp32.decode
  if xs.any (fun x => x.isNan || x.isInf) then
    (255, vs.map (fun _ => 0), if xs.any FVal.isNan then flagNan else 0)
  else
    let s : Int := match (xs.filter (fun x => !x.isZero)).map (fun x => x.dy.top) with
      | [] => 0
      | t :: r => clampI 0 254 (r.foldl max t - mxEmax code + 127)
    let els := (xs.zip rs).map fun p =>
      match p.1 with
      | .fin n m e => narrowFloat (elemFmt code) (storeRnd ctl p.2) true (.fin n m (e - (s - 127)))
      | x => narrowFloat (elemFmt code) (storeRnd ctl p.2) true x
    (s.toNat, els.map (·.1), els.foldl (fun g e => g ||| e.2) 0)

/-- The lanes of a load that read an uncorrectable word (R129). -/
def badLanes (code addr : Nat) (bad : List Nat) : List Nat :=
  (List.range 128).filter fun i => hitsBad bad (addr + vecBits code * i / 8) (ceilDiv (vecBits code * i % 8 + vecBits code) 8)

/-- Whether an instruction rounds stochastically, and so draws from VEC_SEED (R126). -/
def VecAct.draws (act : VecAct) (ctl : Word) : Bool :=
  fld ctl 1 0 == 2 && match act with
    | .store code _ _ => code != 0x10
    | .storeMx _ _ _ _ => true
    | _ => false

/-- The vector register an instruction writes. -/
def VecAct.dest : VecAct → Option RegNum
  | .arith _ vd _ _ | .splat vd _ | .load _ vd _ => some vd
  | _ => none

/-- Run one vector instruction of a core, reading local SRAM as `view` shows it. -/
def Core.vecRun (k : Core) (op : VecOp) (view : Memory) (ctr : Nat) : Core × Did :=
  match op.act with
  | .arith fn vd a b =>
    let (l, g) := vecArith fn op.ctl ctr (k.getV vd) (k.getV a) (k.getV b)
    let unary := match fn with | .add | .sub | .mul | .fma | .min | .max => false | _ => true
    let deps := nub (k.vdep.get [] a.val ++ (if unary then [] else k.vdep.get [] b.val) ++
      (if fn = .fma then k.vdep.get [] vd.val else []))
    ({ k.setV vd l with vdep := k.vdep.set [] vd.val deps }, { flags := g, used := 128 })
  | .splat vd w => ({ k.setV vd (List.replicate 128 w) with vdep := k.vdep.set [] vd.val [] }, {})
  | .load code vd addr =>
    let r := view.read wordGran ctr addr (vecBytes code)
    let lanes := badLanes code addr r.bad
    let l := (unpack (vecBits code) r.bytes 128).map (vecWiden (vecRnd op.ctl) code)
    let l := (List.range 128).map fun i => if lanes.contains i then w32 0x7FC00000 else w32 (l.getD i 0)
    ({ k.setV vd l with vdep := k.vdep.set [] vd.val (if r.bad = [] then [] else [op.ticket]) },
      { bad := r.bad, flags := if r.bad = [] then 0 else flagUe, used := 128 })
  | .store code vs addr =>
    let rs := (drawAll (op.act.draws op.ctl) 128 op.seed).1
    let r := ((k.getV vs).zip rs).map fun p => vecNarrow op.ctl code p.2 p.1.toNat
    (k.sramWrite addr (leBytes (vecBytes code) (packBits (vecBits code) (r.map (·.1)))),
      { flags := r.foldl (fun g x => g ||| x.2) 0 })
  | .storeMx code vs addr scale =>
    let rs := (drawAll (op.act.draws op.ctl) 128 op.seed).1
    let vals := (k.getV vs).map (·.toNat)
    let blocks := (List.range 4).map fun b =>
      mxBlock op.ctl code ((rs.drop (32 * b)).take 32) ((vals.drop (32 * b)).take 32)
    let els := (blocks.map (·.2.1)).flatten
    let k := k.sramWrite addr (leBytes (vecBytes code) (packBits (vecBits code) els))
    (k.sramWrite scale (blocks.map fun b => BitVec.ofNat 8 b.1),
      { flags := blocks.foldl (fun g b => g ||| b.2.2) 0 })

/-- The bytes an instruction writes to local SRAM: (address, length) runs. -/
def VecOp.writes (op : VecOp) : List (Nat × Nat) :=
  match op.act with
  | .store code _ addr => [(addr, vecBytes code)]
  | .storeMx code _ addr scale => [(addr, vecBytes code), (scale, 4)]
  | _ => []

/-- The contents of local SRAM as the queued vector instructions complete, one after another. -/
def Core.vecFutures (ctr : Nat) : List VecOp → Core → List Memory
  | [], _ => []
  | op :: r, k =>
    let k := (k.vecRun op k.sram ctr).1
    k.sram :: Core.vecFutures ctr r k

/-- Local SRAM as an agent that is not ordered against the two units may see it (R78, R116). -/
def Core.raceView (k : Core) (ctr : Nat) : Memory :=
  raceAll (Core.tensFutures ctr k.tqueue k ++ Core.vecFutures ctr k.vqueue k) k.sram (ctr + raceSpan)

/-- The free values a racing view uses: none while both queues are empty. -/
def Core.raceUsed (k : Core) : Nat := if k.tqueue = [] ∧ k.vqueue = [] then 0 else raceSpan * (2 + k.tqueue.length + k.vqueue.length)

/-- Read local SRAM for the control processor or a DMA channel: what the two units have still to do is seen sector by sector, old or
new, as R78 states; an upset makes the first word uncorrectable (R107). -/
def Dev.sramView (d : Dev) (now : Nat) (c : CoreIx) (a n : Nat) (u : Upset) : Read × Dev :=
  let v := codeVerdict wordGran u
  let d := d.sramUpset now c a v
  let k := d.core c
  let r := (k.raceView d.freeCtr).read wordGran (d.freeCtr + k.raceUsed) a n
  (r, ((d.spend (k.raceUsed + r.used)).recordSramCe now c a v).recordSramUe now c r)

end Sys2Proof.Machine
end

