-- ==== Sys2Proof/Machine/Caches.lean ====
section
/-! DEFINITION. Read-only data near the core (R101, R107 … R109, R112): the cache shares of local SRAM and the read-only caches
of the clusters; the read slots of a core (R113, R114) and its requests to device memory. -/

namespace Sys2Proof.Machine

-- the shares (R101, R108, R109)

/-- KiB of the L1 share of a code (R104). -/
def l1Kib (code : Nat) : Nat := if code = 0 then 0 else 256 * 2 ^ code

/-- The region an address lies in: the lowest-indexed entry decides CLASS and URGENT (R108). -/
def Core.regionAt (k : Core) (a : Nat) : Option Region := k.regions.find? fun r => decide (r.base ≤ a ∧ a < r.base + r.length)

/-- The share that caches a region by its class; none where it is uncached (R109). -/
def Core.shareOf (k : Core) (r : Region) : Option Share :=
  let l1 := if fld k.lcfg 1 0 = 0 then none else some Share.l1
  if bit k.lcfg 2 then match r.cls with
    | 1 => some .const
    | 2 => some .desc
    | 3 => some .instr
    | _ => l1
  else l1

/-- Lines of a share (R101); the fetch buffer holds the two lines an uncached instruction may lie in. -/
def Core.shareLines (k : Core) : Share → Nat
  | .instr | .const => 512
  | .desc => 128
  | .l1 => 8 * l1Kib (fld k.lcfg 1 0)
  | .buffer => 2

/-- Where a share begins in local SRAM (R101): the L1 share directly below the control area, below it the read-only caches,
instructions lowest, then descriptors, then constants (log entry 122). -/
def Core.shareAt (k : Core) (sh : Share) : Nat :=
  let l1 := controlBase - 1024 * l1Kib (fld k.lcfg 1 0)
  match sh with
  | .instr => l1 - 0x24000
  | .desc => l1 - 0x14000
  | .const => l1 - 0x10000
  | .l1 | .buffer => l1

-- lines

/-- Whether a held line is the one looked for. -/
def CLine.is (x : CLine) (sh : Share) (asid line : Nat) : Bool := x.share == sh && x.asid == asid && x.line == line

/-- A line comes into a cache of `cap` lines: in the lowest free place, else in a freely chosen one (log entry 122). -/
def putLine (cap free : Nat) (l : List CLine) (x : CLine) : List CLine :=
  let l := l.filter fun y => !y.is x.share x.asid x.line
  let mine := l.filter fun y => y.share == x.share
  match (List.range (min cap (mine.length + 1))).find? fun i => !mine.any fun y => y.slot == i with
  | some i => l ++ [{ x with slot := i }]
  | none => l.filter (fun y => !(y.share == x.share && y.slot == free % cap)) ++ [{ x with slot := free % cap }]

/-- Bytes changed by masks. -/
def xorBytes (l : List Byte) (base : Nat) (e : List (Nat × Byte)) : List Byte :=
  e.foldl (fun l x => l.set (base + x.1) (l.getD (base + x.1) 0 ^^^ x.2)) l

/-- A line after the read of its word `i`, with what the code left of it (R107): the word is rewritten corrected; an uncorrectable
one counts as a miss, and the line is no longer there. -/
def readCLine (l : List CLine) (x : CLine) (i : Nat) (v : Verdict) : Option (List Byte) × List CLine :=
  let keep (e : List (Nat × Byte)) : Option (List Byte) × List CLine :=
    let b := xorBytes x.data (8 * i) e
    (some b, l.map fun y => if y == x then { y with data := b } else y)
  match v with
  | .clean e | .fixed _ e => keep e
  | .bad => (none, l.filter (· != x))

/-- A cluster. -/
def Dev.cluster (d : Dev) (k : ClusterIx) : Cluster := d.clusters.get {} k.val

/-- Change it. -/
def Dev.modCluster (d : Dev) (k : ClusterIx) (f : Cluster → Cluster) : Dev := { d with clusters := d.clusters.modify {} k.val f }

/-- A line from a core's own share (R109): its bytes, none on a miss. What changed in the word counts for the core's wear (R345). -/
def State.shareRead (s : State) (c : CoreIx) (sh : Share) (asid va : Nat) (u : Upset) : Option (List Byte) × State :=
  let k := s.dev.core c
  match k.lines.find? fun x => x.is sh asid (va / 128) with
  | none => (none, s)
  | some x =>
    let v := codeVerdict wordGran u
    let at' := k.shareAt sh + 128 * x.slot + va % 128
    let r := readCLine k.lines x (va % 128 / 8) v
    (r.1, s.onDev fun d => (((d.modCore c fun k => { k with lines := r.2 }).sramWear s.now c at' v).recordSramCe s.now c at' v))

/-- A line from a cluster's read-only cache (R112), whose wear counts by the local-SRAM rule (R345). -/
def State.clusterRead (s : State) (k : ClusterIx) (asid va : Nat) (u : Upset) : Option (List Byte) × State :=
  let x := s.dev.cluster k
  match x.lines.find? fun y => y.is .l1 asid (va / 128) with
  | none => (none, s)
  | some y =>
    let v := codeVerdict wordGran u
    let w := wear x.fix s.now (16 * y.slot + va % 128 / 8) false v
    let r := readCLine x.lines y (va % 128 / 8) v
    (r.1, s.onDev fun d =>
      let d := d.modCluster k fun x => { x with lines := r.2, fix := w.1 }
      if w.2 then d.change s.now (.cluster k) else d)

/-- A line comes into a core's share. -/
def Dev.fillShare (d : Dev) (c : CoreIx) (sh : Share) (asid va : Nat) (b : List Byte) : Dev :=
  (d.modCore c fun k => { k with lines := putLine (k.shareLines sh) d.free.toNat k.lines { share := sh, slot := 0, asid := asid, line := va / 128, data := b } }).spend

/-- Lines of a cluster's read-only cache: 2 MiB (R112). -/
def clusterLines : Nat := 16384

/-- A line that a fill brought comes into the cluster's read-only cache and from there into the core's share (R112). -/
def Dev.fillLine (d : Dev) (c : CoreIx) (sh : Share) (asid va : Nat) (b : List Byte) : Dev :=
  let d := if sh = .buffer then d
    else (d.modCluster (coreCluster c) fun x => { x with lines := putLine clusterLines d.free.toNat x.lines { slot := 0, asid := asid, line := va / 128, data := b } }).spend
  d.fillShare c sh asid va b

/-- Look a line up near the core: in the core's share, then in the read-only cache of its cluster, which fills the share. -/
def State.nearRead (s : State) (c : CoreIx) (sh : Share) (asid va : Nat) (u : Upset) : Option (List Byte) × State :=
  let held := (s.dev.core c).lines.any fun x => x.is sh asid (va / 128)
  match s.shareRead c sh asid va u with
  | (some b, s) => (some b, s)
  | (none, s) =>
    if sh = .buffer then (none, s)
    else match s.clusterRead (coreCluster c) asid va (if held then .none else u) with
      | (some b, s) => (some b, s.onDev fun d => d.fillShare c sh asid va b)
      | (none, s) => (none, s)

/-- A launch ends on a core: its shares are empty, and the lines of its regions leave the cluster's read-only cache where no other
running launch in the cluster declares them (R108, R112). -/
def Dev.dropRegions (d : Dev) (c : CoreIx) : Dev :=
  let others := (clusterCores (coreCluster c)).filter fun e => e != c
  let declared (x : CLine) : Bool := others.any fun e =>
    let k := d.core e
    k.task.any (fun t => t.asid == x.asid) && (k.regionAt (128 * x.line)).isSome
  (d.modCore c fun k => { k with lines := [] }).modCluster (coreCluster c) fun x => { x with lines := x.lines.filter declared }

-- read slots (R113, R114)

/-- The reads that hold slots of a core, each with whether it is latency-critical: its loads and fills, the remote reads of its DMA
channels, its mailbox status reads. A read of this device's memory by a DMA channel is over within its command and holds none
between commands (log entry 122). -/
def Dev.coreReads (d : Dev) (c : CoreIx) : List Bool :=
  (d.reqs.filterMap fun e => e.2.bind fun q => if q.core == c && (q.op == .read || q.op == .lr) then some q.crit else none) ++
    d.remotes.filterMap fun e => e.2.bind fun r => match r.who with
      | .dma x _ (some _) => if x = c then some false else none
      | .mbx x _ true => if x = c then some true else none
      | _ => none

/-- Whether a read finds a free slot: 48 in all, of which bulk reads hold at most 46. -/
def Dev.slotFree (d : Dev) (c : CoreIx) (crit : Bool) : Bool :=
  let l := d.coreReads c
  decide (l.length < 48) && (crit || decide ((l.filter fun x => !x).length < 46))

/-- A read slot of a core has become free: what waits for one goes on (R114). -/
def Dev.slotWake (d : Dev) (c : CoreIx) : Dev :=
  d.modCore c fun k => if k.stall = .slot then { k with stall := .none } else k

-- requests

/-- Where the window of an address leads now (R36 … R38). -/
def State.aim (s : State) (a : Nat) : Aim :=
  match s.place a with
  | .far f => .far f
  | .remote dst x => .remote dst x
  | _ => .none

/-- Issue a request to device memory: its number, and the state with it on its way. -/
def State.request (s : State) (q : Req) : Nat × State :=
  (s.dev.nextReq, s.onDev fun d =>
    { d with reqs := d.reqs.set none d.nextReq (some { q with aim := s.aim q.addr }), nextReq := d.nextReq + 1 })

/-- Issue a read, which takes a read slot, or wait for one at its source. -/
def State.requestRead (s : State) (q : Req) (st : Nat → Stall) : State :=
  if s.dev.slotFree q.core q.crit then
    let r := s.request q
    r.2.onDev fun d => d.modCore q.core fun k => { k with stall := st r.1 }
  else s.onDev fun d => d.modCore q.core fun k => { k with stall := .slot }

/-- Whether a miss in a region is latency-critical (R113): instructions, descriptors, URGENT. -/
def Region.crit (r : Region) : Bool := r.urgent || decide (2 ≤ r.cls)

end Sys2Proof.Machine
end

