-- ==== Sys2Proof/Machine/Adders.lean ====
section
/-! DEFINITION. The memory-side adders (R168 … R171) and the Relay's part in them (R227 … R231): operations on elements,
a read-modify-write of memory, contributions, and the accesses the Relay refuses. -/

namespace Sys2Proof.Machine

/-- Pairs of OP and FMT of R169 without SWAP (R172, R297). -/
def adderPairs (op fmt : Nat) : Bool :=
  (op == 0 && [0, 1, 8, 9, 12].contains fmt) || (decide (1 ≤ op ∧ op ≤ 8) && [13, 14].contains fmt)

/-- The floating-point format of an FMT code (R172). -/
def adderFmt : Nat → Option Fmt
  | 0 => some .e4m3 | 1 => some .e5m2 | 8 => some .bf16 | 9 => some .fp16 | 12 => some .fp32 | _ => none

/-- Bytes of an element of an FMT code. -/
def elemBytes (fmt : Nat) : Nat := if fmt ≤ 1 then 1 else if fmt = 8 ∨ fmt = 9 then 2 else if fmt = 14 then 8 else 4

/-- The integer and bitwise operations on `n`-bit elements, OP 0x1 … 0x9 (R169). -/
def adderInt (op n a b : Nat) : Nat :=
  if op = 1 then (a + b) % 2 ^ n
  else if op = 2 then (if sint n a ≤ sint n b then a else b)
  else if op = 3 then (if sint n a ≤ sint n b then b else a)
  else if op = 4 then min a b
  else if op = 5 then max a b
  else if op = 6 then a &&& b
  else if op = 7 then a ||| b
  else if op = 8 then a ^^^ b
  else b

/-- One element: its new value and whether what is written is NaN or infinite (R169, R170). -/
def adderElem (op fmt : Nat) (rm : Rnd) (sat : Bool) (old x : Nat) : Nat × Bool :=
  match adderFmt fmt with
  | some f => f.addElem rm sat old x
  | none => (adderInt op (8 * elemBytes fmt) old x, false)

/-- The elements of a request in ascending address with the generator's register: new bytes, whether element i is NaN or
infinite, the register after (R170). -/
def adderRun (op fmt : Nat) (rnd sat : Bool) : Nat → List Byte → List Byte → Nat → List Byte × List Bool × Nat
  | 0, _, _, r => ([], [], r)
  | k + 1, old, x, r =>
    let n := elemBytes fmt
    let (add, r) := if rnd then lfsrTake r else (0, r)
    let e := adderElem op fmt (if rnd then .stoch add else .ne) sat (ofLe (old.take n)) (ofLe (x.take n))
    let (l, nf, r) := adderRun op fmt rnd sat k (old.drop n) (x.drop n) r
    (leBytes n e.1 ++ l, e.2 :: nf, r)

/-- The completion of an adder request. -/
inductive AddRes where
  | error | done (old : List Byte) (nonfin poisoned : Bool)
  deriving DecidableEq, Repr

/-- A memory-side read-modify-write at an address of one place (R168 … R171, R179): an error completion where nothing answers,
for the far tier, in a declared region, and for an FP8 add with FP8_EN = 0; an uncorrectable granule is written poisoned. -/
def State.adder (s : State) (a op fmt : Nat) (rnd sat : Bool) (data : List Byte) : AddRes × State :=
  match s.place a with
  | .mem p _ _ =>
    let cfg := s.dev.reg (.sliceCfg p)
    if (fmt ≤ 1 ∧ !bit cfg 8) ∨ s.roConflict a data.length then (.error, s)
    else match s.memRead a data.length with
      | (none, s) => (.error, s)
      | (some r, s) =>
        let (l, nf, seed) := adderRun op fmt rnd sat (data.length / elemBytes fmt) r.bytes data (fld cfg 63 32)
        let s := if rnd then s.onDev fun d => d.modReg (.sliceCfg p) fun w => setFld w 63 32 seed else s
        let s := (s.memWrite a l).2
        -- the sector that holds an uncorrectable word is written poisoned (R179)
        let s := { s with mem := (nub (r.bad.map (· / 4))).foldl (fun m k => m.poison (s.granAt a) (32 * k) 32) s.mem }
        let whole (i : Nat) : Bool := !r.bad.any fun w => w / 4 == (a + i * elemBytes fmt) / 32
        let nonfin := (List.range nf.length).any fun i => nf.getD i false && whole i
        (.done r.bytes nonfin (r.bad != []), s)
  | _ => (.error, s)

-- the Relay (R227 … R231)

/-- Store a word of device memory. -/
def State.putWord (s : State) (a : Nat) (w : Word) : State := (s.memWrite a (leBytes 8 w.toNat)).2

/-- An Anchor's state behind its registers. -/
def Dev.anchor (d : Dev) (p : PartIx) : Anchor := d.anchors.get {} p.val

/-- Change it. -/
def Dev.modAnchor (d : Dev) (p : PartIx) (f : Anchor → Anchor) : Dev := { d with anchors := d.anchors.modify {} p.val f }

/-- ANCH_STAT.STATE: 0 IDLE, 1 FOLD, 2 VOTE, 3 APPLY, 4 LOST, 5 UNDECIDED, 6 STALE (R259). -/
def Dev.anchState (d : Dev) (p : PartIx) : Nat := fld (d.reg (.anchStat p)) 63 61

/-- A Relay entry (R227): its index, the words of it as they stand. -/
structure RelayEntry where
  idx : Nat
  w0 : Word
  w1 : Word
  w2 : Word
  w3 : Word
  deriving DecidableEq, Repr

namespace RelayEntry
/-- BASE -/
def base (e : RelayEntry) : Nat := fld e.w0 51 0
/-- NELEM -/
def nelem (e : RelayEntry) : Nat := fld e.w1 31 0
/-- FMT code of GFMT: BF16 or FP16 -/
def fmt (e : RelayEntry) : Nat := if bit e.w1 45 then 9 else 8
/-- STATE: 0 idle, 1 active, 2 complete, 3 consumed -/
def state (e : RelayEntry) : Nat := fld e.w1 47 46
/-- EXPECT -/
def expect (e : RelayEntry) : Nat := fld e.w1 63 48
/-- EOFF -/
def eoff (e : RelayEntry) : Nat := fld e.w2 31 0
/-- RULE -/
def rule (e : RelayEntry) : Nat := fld e.w2 47 36
/-- GOT -/
def got (e : RelayEntry) : Nat := fld e.w3 41 0
/-- READY_H, where READY_V = 1 -/
def ready (e : RelayEntry) : Option Nat := if bit e.w3 47 then some (fld e.w3 63 48) else none
end RelayEntry

/-- Entries of a partition's Relay table; none with EMPTY = 1 (R236). -/
def Dev.relayCount (d : Dev) (p : PartIx) : Nat := let w := d.reg (.anchRelay p); if bit w 0 then 0 else fld w 63 52 + 1

/-- Address of entry `i`. -/
def Dev.relayAt (d : Dev) (p : PartIx) (i : Nat) : Nat := fld (d.reg (.anchRelay p)) 51 7 * 128 + 32 * i

/-- Whether an address lies in partition memory of `p`, the only memory its Anchor reaches (R234). -/
def State.inPart (s : State) (p : PartIx) (a : Nat) : Bool :=
  match s.place a with
  | .mem q _ _ => q == p
  | _ => false

/-- Entry `i` as it stands; words that cannot be read, or lie out of the Anchor's reach, count as zero, an idle entry. -/
def State.relayEntry (s : State) (p : PartIx) (i : Nat) : RelayEntry :=
  let a := s.dev.relayAt p i
  let w (j : Nat) : Word := if s.inPart p a then (s.peekWord (a + 8 * j)).getD 0 else 0
  { idx := i, w0 := w 0, w1 := w 1, w2 := w 2, w3 := w 3 }

/-- The entries of the Relay table whose range meets an access in a partition's direct window. -/
def State.relaysOver (s : State) (a n : Nat) : List (PartIx × RelayEntry) :=
  match s.place a with
  | .mem p _ false => (((List.range (s.dev.relayCount p)).map (s.relayEntry p)).filter fun e =>
      decide (a < e.base + 4 * e.nelem ∧ e.base < a + n)).map fun e => (p, e)
  | _ => []

/-- The entry whose range an address lies in. -/
def State.relayOf (s : State) (a : Nat) : Option (PartIx × RelayEntry) := (s.relaysOver a 1).head?

/-- A refused Relay access (R230, R231): counted in STRAY and recorded; NONFIN of the step where it is marked so and the
Anchor is in FOLD. -/
def State.stray (s : State) (p : PartIx) (a : Nat) (nonfin : Bool) : State :=
  let s := s.onDev fun d => d.modReg (.anchStat p) fun w =>
    let w := satAdd w 31 16 1
    if nonfin && fld w 63 61 == 1 then setBit w 58 true else w
  s.record .relayStray a 0 (s.dev.sliceId p (Fin.ofNat 32 (nearSlice p.val (a % 2 ^ 36 - nearBase))))

/-- Whether the Relay refuses a read, a write or an AMO of a range (R230): it meets an active or a complete one. -/
def State.relayBlocks (s : State) (a n : Nat) : Bool × State :=
  match (s.relaysOver a n).find? fun x => x.2.state == 1 || x.2.state == 2 with
  | some (p, _) => (true, s.stray p a false)
  | none => (false, s)

/-- A read of device memory by any agent but the Anchor: the Relay may refuse it (R230). -/
def State.readFor (s : State) (a n : Nat) : Option Read × State :=
  match s.relayBlocks a n with
  | (true, s) => (none, s)
  | (false, s) => s.memRead a n

/-- A write of device memory by any agent but the Anchor. -/
def State.writeFor (s : State) (a : Nat) (l : List Byte) : Bool × State :=
  match s.relayBlocks a l.length with
  | (true, s) => (false, s)
  | (false, s) => s.memWrite a l

/-- A decoded value in FP32, rounded to nearest even where it is not exact; NaN is canonical. -/
def fp32Of : FVal → Nat
  | .nan => Fmt.fp32.nanBits
  | .inf n => Fmt.fp32.infBits n
  | .fin n m e => (Fmt.fp32.round .ne n m e).bits

/-- The 2-byte elements of a contribution, converted exactly to FP32 (R229). -/
def widen (fmt : Nat) : List Byte → List Byte
  | a :: b :: r => leBytes 4 (fp32Of (((adderFmt fmt).getD .bf16).decode (ofLe [a, b]))) ++ widen fmt r
  | _ => []

/-- Store a Relay entry's GOT and STATE (R227), where the Anchor reaches its table. -/
def State.putRelay (s : State) (p : PartIx) (i : Nat) (got state : Nat) : State :=
  let e := s.relayEntry p i
  let a := s.dev.relayAt p i
  if s.inPart p a then (s.putWord (a + 24) (setFld e.w3 41 0 got)).putWord (a + 8) (setFld e.w1 47 46 state) else s

/-- Add the parts of a contribution in the source's order: elements added, whether a completion carried NONFIN, whether one carried
POISONED, whether one ended in an error completion, which ends it. -/
def State.addParts : List (Nat × List Byte) → Nat → State → Nat × Bool × Bool × Bool × State
  | [], _, s => (0, false, false, false, s)
  | (a, l) :: r, fmt, s => match s.adder a 0 12 false false (widen fmt l) with
    | (.error, s) => (0, false, false, true, s)
    | (.done _ nf ps, s) =>
      let (n, nf', ps', bad, s) := State.addParts r fmt s
      (l.length / 2 + n, nf || nf', ps || ps', bad, s)

/-- A contribution to a Relay entry (R229 … R232), by the physical addresses its source bytes widen to: refused, or added element by
element to its FP32 accumulators; GOT advances and the entry becomes complete with EXPECT × NELEM elements. None where it ends in an
error completion, else whether poison was written. -/
def State.contribute (s : State) (p : PartIx) (e : RelayEntry) (op fmt : Nat) (parts : List (Nat × List Byte)) : Option Bool × State :=
  let n := (parts.foldl (fun n x => n + x.2.length) 0) / 2
  if e.state ≠ 1 ∨ op ≠ 0 ∨ fmt ≠ e.fmt ∨ e.expect * e.nelem < e.got + n ∨
      parts.any (fun x => decide (e.base + 4 * e.nelem < x.1 + 2 * x.2.length ∨ x.1 < e.base)) then
    (none, s.stray p ((parts.map (·.1)).headD e.base) true)
  else
    let (k, nf, ps, bad, s) := State.addParts parts fmt s
    let s := if (nf || ps) && s.dev.anchState p == 1 then s.onDev fun d => d.modReg (.anchStat p) fun w => setBit w 58 true else s
    (if bad then none else some ps, s.putRelay p e.idx (e.got + k) (if e.got + k = e.expect * e.nelem then 2 else 1))

/-- An ADD transfer at an address (R175, R229, R230, R297): a contribution where its destination lies in the range of a Relay entry,
refused where it enters one from outside, else the adder of the slice. None where it ends in an error completion, else whether
poison was written. -/
def State.addTransfer (s : State) (a op fmt : Nat) (rnd sat : Bool) (data : List Byte) : Option Bool × State :=
  match s.relayOf a, s.relaysOver a data.length with
  | some (p, e), _ => s.contribute p e op fmt [(a, data)]
  | none, (p, _) :: _ => (none, s.stray p a true)
  | none, [] => match s.adder a op fmt rnd sat data with
    | (.error, s) => (none, s)
    | (.done _ _ ps, s) => (some ps, s)

end Sys2Proof.Machine
end

