-- ==== Sys2Proof/Machine/Translate.lean ====
section
/-! DEFINITION. Device virtual addresses (R96, R187 … R191): the translation caches of the clusters, one step of a table
walk, the fetch of an instruction, and the common course of an instruction. -/

namespace Sys2Proof.Machine

/-- The unit identity of a cluster (R22, R332). -/
def Dev.clusterId (d : Dev) (k : ClusterIx) : Nat := idUnit d.devId (clusterPart k).val (1 + k.val % 8)

/-- Entries of a cluster's translation cache that match a page, lowest index first. -/
def Dev.tlbHits (d : Dev) (k : ClusterIx) (asid vpn : Nat) : List (Nat × TlbEntry) :=
  d.tlb.filterMap fun e =>
    if e.1 / 256 = k.val then e.2.bind fun t => if t.asid = asid ∧ t.vpn = vpn then some (e.1 % 256, t) else none else none

/-- Store entry `i` of a cluster's translation cache. -/
def Dev.setTlb (d : Dev) (k : ClusterIx) (i : Nat) (e : Option TlbEntry) : Dev :=
  { d with tlb := d.tlb.set none (256 * k.val + i) e }

/-- Remove every translation that satisfies `p` from every cluster (R192). -/
def Dev.dropTlb (d : Dev) (p : TlbEntry → Bool) : Dev :=
  { d with tlb := d.tlb.filter fun e => !(e.2.any p) }

/-- A new translation takes the place of an entry for its page, or an empty entry, or one freely chosen (R191). -/
def Dev.fillTlb (d : Dev) (k : ClusterIx) (e : TlbEntry) : Dev :=
  match d.tlbHits k e.asid e.vpn with
  | (i, _) :: _ => d.setTlb k i (some e)
  | [] => match (List.range 256).find? fun i => (d.tlb.get none (256 * k.val + i)).isNone with
    | some i => d.setTlb k i (some e)
    | none => (d.setTlb k (d.free.toNat % 256) (some e)).spend

/-- Set a bit of a page entry by a memory-side OR (R171, R189); a sector that cannot be corrected stays poisoned. -/
def State.pteOr (s : State) (a i : Nat) : State :=
  match s.peekWord a with
  | some w => (s.memWrite a (leBytes 8 (setBit w i true).toNat)).2
  | none => s.memPoison a 8

/-- Write a page entry in a single write (R195). -/
def State.ptePut (s : State) (a : Nat) (w : Word) : State := (s.memWrite a (leBytes 8 w.toNat)).2

/-- What a translation comes to. -/
inductive Xlat where
  | ok (pa : Nat) | fault | miss
  deriving DecidableEq, Repr

/-- Translate through a cluster's translation cache (R190, R191): a store where W = 0 faults, the first write through an
entry sets D in it and in the page entry; several matches are recorded. -/
def State.xlate (s : State) (k : ClusterIx) (asid va : Nat) (acc : Access) : Xlat × State :=
  match s.dev.tlbHits k asid (va / 2 ^ 21) with
  | [] => (.miss, s)
  | (i, e) :: more =>
    let s := if more.isEmpty then s else s.record .multiMatch va (0x300000 + k.val * 512 + i) (s.dev.clusterId k)
    if acc = .store ∧ !bit e.pte 59 then (.fault, s)
    else if acc = .store ∧ !bit e.pte 56 then
      (.ok (ptePhys e.pte va), (s.pteOr e.pteAt 56).onDev fun d => d.setTlb k i (some { e with pte := setBit e.pte 56 true }))
    else (.ok (ptePhys e.pte va), s)

/-- What one read of a table walk comes to. -/
inductive WalkRes where
  | bad | unmapped | next (table : Nat) | entry (at' : Nat) (pte : Word)
  deriving DecidableEq, Repr

/-- Read one level of a table (R187, R188): a pointer that leads out of place, an uncorrectable word and an error
completion are bad, a cleared V at level 2 or 1 is unmapped. -/
def State.walkStep (s : State) (va level table : Nat) : WalkRes × State :=
  let a := table + 8 * vaIndex level va
  if !s.tablePlace a then (.bad, s)
  else match s.readFor a 8 with
    | (none, s) => (.bad, s)
    | (some r, s) =>
      let w : Word := BitVec.ofNat 64 (ofLe r.bytes)
      if r.bad ≠ [] then (.bad, s)
      else if level = 0 then (.entry a w, s)
      else if bit w 63 then (.next (fld w 51 12 * 4096), s)
      else (.unmapped, s)

/-- Record WALK_BAD (R187, R336). -/
def State.walkBad (s : State) (va level asid who : Nat) : State :=
  s.record .walkBad va (level * 16 + asid % 16) who

/-- Walk from a level to the page entry in one go, as the pager, the dispatcher and a DMA transfer of many pages do; none
where the page counts as unmapped. -/
def State.walkAll (s : State) (asid va who : Nat) : Nat → Nat → Option (Nat × Word) × State
  | 0, t => match s.walkStep va 0 t with
    | (.entry a w, s) => (some (a, w), s)
    | (.bad, s) => (none, s.walkBad va 0 asid who)
    | (_, s) => (none, s)
  | level + 1, t => match s.walkStep va (level + 1) t with
    | (.next t', s) => s.walkAll asid va who level t'
    | (.bad, s) => (none, s.walkBad va (level + 1) asid who)
    | (_, s) => (none, s)

/-- The page entry of a virtual address by a whole walk (R187). -/
def State.walk (s : State) (asid va who : Nat) : Option (Nat × Word) × State :=
  let root := s.dev.reg (.resRoot (Fin.ofNat 16 asid))
  if bit root 63 then s.walkAll asid va who 2 (fld root 51 16 * 65536) else (none, s.walkBad va 3 asid who)

/-- What a page entry says of an access (R190). -/
inductive PteRes where
  | here | far | moving | fault
  deriving DecidableEq, Repr

/-- The outcome of a page entry. -/
def pteRes (w : Word) : PteRes :=
  if !bit w 63 then .fault
  else if !bit w 62 then .here
  else match fld w 61 60 with
    | 0 => .here
    | 1 => .far
    | 2 => .moving
    | _ => .fault

/-- The address space of a core: that of its running task. -/
def Core.asid (k : Core) : Option Nat := k.task.map (·.asid)

/-- Whether an address lies in the local window (R96). -/
def inWindow (va : Nat) : Bool := decide (windowBase ≤ va ∧ va < 2 ^ 52)

-- the fetch of an instruction (R96, R110, R130, R358)

/-- What the fetch of an instruction comes to; `held`: the core waits for a line or for a read slot. -/
inductive Fetch where
  | ok | fault (cause tval : Word) | wait (va : Nat) | held
  deriving DecidableEq, Repr

/-- Whether a byte of user code lies in a declared region (R110). -/
def Core.inRegion (k : Core) (a : Nat) : Bool := k.regions.any fun r => decide (r.base ≤ a ∧ a < r.base + r.length)

/-- Bytes of an instruction word: 2 when its low bits are not 0b11. -/
def wordLen (w : Word32) : Nat := if w.extractLsb' 0 2 = 3#2 then 4 else 2

/-- Translate the parcels of an instruction in order: the physical address of each, the local window as it is. -/
def State.fetchPages (c : CoreIx) (asid : Nat) : List Nat → State → Fetch × List (Nat × Option Nat) × State
  | [], s => (.ok, [], s)
  | va :: r, s =>
    if inWindow va then match State.fetchPages c asid r s with
      | (x, l, s) => (x, (va, none) :: l, s)
    else match s.xlate (coreCluster c) asid va .fetch with
      | (.fault, s) => (.fault 12 (BitVec.ofNat 64 va), [], s)
      | (.miss, s) => (.wait va, [], s)
      | (.ok pa, s) => match State.fetchPages c asid r s with
        | (x, l, s) => (x, (va, some pa) :: l, s)

/-- The bytes of one parcel near the core (R109): whether an uncorrectable word holds some of them; none where its line must be
filled. A fill that met an uncorrectable sector leaves an empty line in the fetch buffer. -/
def State.fetchNear (s : State) (c : CoreIx) (asid va : Nat) : Option Bool × State :=
  let k := s.dev.core c
  match k.lines.find? fun x => x.is .buffer asid (va / 128) with
  | some x => (some (x.data == []), s)
  | none => match (k.regionAt va).bind k.shareOf with
    | none => (none, s)
    | some sh => match s.nearRead c sh asid va .none with
      | (some _, s) => (some false, s)
      | (none, s) => (none, s)

/-- Bring the parcels to the core: the first line that is missing is asked for, as a latency-critical read; with all of them there
the first parcel an uncorrectable word holds, if any (R130: code 29 ranks below every other). -/
def State.fetchBytes (c : CoreIx) (asid : Nat) : List (Nat × Option Nat) → Option Nat → State → Fetch × State
  | [], none, s => (.ok, s)
  | [], some va, s => (.fault 29 (BitVec.ofNat 64 va), s)
  | (va, none) :: r, bad, s =>
    let x := s.dev.sramView s.now c (va - windowBase) 2 .none
    State.fetchBytes c asid r (if x.1.bad = [] then bad else bad.orElse fun _ => some va) (s.onDev fun _ => x.2)
  | (va, some pa) :: r, bad, s => match s.fetchNear c asid va with
    | (some b, s) => State.fetchBytes c asid r (if b then bad.orElse fun _ => some va else bad) s
    | (none, s) =>
      let k := s.dev.core c
      (.held, s.requestRead { core := c, op := .read, va := va / 128 * 128, addr := pa / 128 * 128, size := 128, crit := true
                              fill := some (((k.regionAt va).bind k.shareOf).getD .buffer) } .fill)

/-- The fetch buffer is spent with the instruction it was filled for. -/
def Core.spendBuffer (k : Core) : Core := { k with lines := k.lines.filter fun x => x.share != .buffer }

/-- Fetch the instruction at the pc: machine-mode code comes from the cluster's runtime store and from nowhere else (R358), and
without a checked image there none runs; user code lies in declared regions and is translated. -/
def State.fetch (s : State) (c : CoreIx) (len : Nat) : Fetch × State :=
  let k := s.dev.core c
  let va := k.pc.toNat
  if k.mach then ((if (s.dev.cluster (coreCluster c)).runtime.isSome then .ok else .held), s)
  else if 2 ^ 52 ≤ va then (.fault 1 k.pc, s)
  else match (List.range len).find? fun i => !k.inRegion (va + i) with
    | some i => (.fault 1 (k.pc + BitVec.ofNat 64 i), s)
    | none => match k.asid with
      | none => (.fault 12 k.pc, s)
      | some asid => match State.fetchPages c asid (if len = 4 then [va, va + 2] else [va]) s with
        | (.ok, l, s) => match State.fetchBytes c asid l none s with
          | (.ok, s) => (.ok, s.onDev fun d => d.modCore c Core.spendBuffer)
          | r => r
        | (x, _, s) => (x, s)

/-- The common course of an instruction on a core: nothing when the core runs no code, is stalled, or its issue
stages are closed (R377); else a deferred
store trap first (R99), else what its fetch comes to, else `f`. -/
def State.issue (s : State) (c : CoreIx) (len : Nat) (f : State → State) : State :=
  let k := s.dev.core c
  if !s.coreUp c || k.stall != .none || s.dev.coreClosed c then s
  else match k.deferred with
    | (cause, a) :: r =>
      s.onDev fun d => (d.modCore c fun k => { k with deferred := r }).trap s.now c (BitVec.ofNat 64 cause)
        (BitVec.ofNat 64 a) true
    | [] => match s.fetch c len with
      | (.ok, s) => f s
      | (.fault cause tval, s) => s.trap c cause tval
      | (.wait va, s) => s.onDev fun d => d.modCore c fun k => { k with stall := .xlate va .fetch }
      | (.held, s) => s

end Sys2Proof.Machine
end

