-- ==== Sys2Proof/Machine/Hurdles.lean ====
section
/-! DEFINITION. The commands on Hurdles (R262 … R278, R452): operations of cores through HRD_OP, of the Host and
Firmware through HRD_HOP, and the messages of a spanning Hurdle. -/

namespace Sys2Proof.Machine

/-- The operations of R271. -/
inductive HOp where
  | arrive | wait | peek | join | acquire | notify | arm | config | fail
  deriving DecidableEq, Repr

/-- The operation an OP code names. -/
def HOp.ofCode : Nat → Option HOp
  | 1 => some .arrive | 2 => some .wait | 3 => some .peek | 4 => some .join | 5 => some .acquire | 6 => some .notify
  | 7 => some .arm | 8 => some .config | 9 => some .fail | _ => none

/-- Operations that need machine mode, or function 1 or Firmware (R272, R273). -/
def HOp.privileged : HOp → Bool
  | .arm | .config | .fail => true
  | _ => false

/-- What an operation comes to: a result code at once, or waiting at the bank. -/
inductive HRes where
  | done (code : HCode) | wait
  deriving DecidableEq, Repr

/-- WAIT of a core at the bank (R266, R272). -/
def Dev.bankWait (d : Dev) (c : CoreIx) (h : Nat) (g : Option Nat) : HRes × Dev :=
  let x := d.hurdle h
  if x.mode = 3 then (.done 5, d)
  else match x.waitNow g with
    | some code => (.done code, d)
    | none => (.wait, d.setHurdle h { x with waits := x.waits ++ [{ who := .core c, gen := g }] })

/-- JOIN of Core Software (R268, R272): it leaves at least 5 of the core's 16 entries free. -/
def Dev.bankJoin (d : Dev) (c : CoreIx) (h : Nat) : HRes × Dev :=
  if (d.hurdle h).state ≠ 1 then (.done 5, d)
  else if !d.coreHas c h && decide (11 ≤ d.coreHolds c) then (.done 6, d)
  else (.done 0, d.join h (.soft c))

/-- ACQUIRE (R263, R272): served at once, or queued behind the acquirers before it. -/
def Dev.bankAcquire (d : Dev) (c : Option CoreIx) (h arg : Nat) : HRes × Dev :=
  let x := d.hurdle h
  let n := if arg % 65536 = 0 then 1 else arg % 65536
  if x.state = 0 then (.done 3, d)
  else if x.mode ≠ 3 then (.done 5, d)
  else if x.state = 3 then (.done x.code, d)
  else if x.acqs = [] ∧ n ≤ x.count then (.done 0, d.setHurdle h { x with count := x.count - n })
  else match c with
    | some c => (.wait, d.setHurdle h { x with acqs := x.acqs ++ [(c, n)] })
    | none => (.done 9, d)

/-- NOTIFY of a core (R272, R273): a fifth registration returns NOTIFY_FULL; one whose wait would end at once posts its
event at once. -/
def Dev.bankNotify (d : Dev) (c : CoreIx) (h : Nat) (g : Option Nat) : HRes × Dev :=
  let x := d.hurdle h
  if x.mode = 3 then (.done 5, d)
  else if 4 ≤ d.notes c then (.done 7, d)
  else match x.waitNow g with
    | some code => (.done 0, d.modCore c fun k => { k with events := k.events ++ [x.resultWord h code] })
    | none => (.done 0, d.setHurdle h { x with waits := x.waits ++ [{ who := .note c, gen := g }] })

/-- FAIL (R272, R278). -/
def Dev.bankFail (d : Dev) (now h : Nat) : HRes × Dev :=
  if (d.hurdle h).state ≠ 1 then (.done 5, d) else (.done 0, d.loseHurdle now h 2)

/-- An operation of a core at the bank. -/
def Dev.bankCore (d : Dev) (now : Nat) (c : CoreIx) (op : HOp) (h arg : Nat) (g : Option Nat) : HRes × Dev :=
  match op with
  | .arrive => let r := d.arrive now (some (corePart c)) h arg; (.done r.1, r.2)
  | .wait => d.bankWait c h g
  | .peek => (.done 0, d)
  | .join => d.bankJoin c h
  | .acquire => d.bankAcquire (some c) h arg
  | .notify => d.bankNotify c h g
  | .arm => let r := d.armHurdle now h; (.done r.1, r.2)
  | .config => match d.writeCfg now h (d.core c).hrdCfgw with
    | some d' => (.done 0, d')
    | none => (.done 5, d)
  | .fail => d.bankFail now h

/-- An operation of the Host or Firmware at the bank (R273): WAIT answers with the current state, ACQUIRE never waits,
NOTIFY and JOIN are refused. -/
def Dev.bankHop (d : Dev) (now : Nat) (op : HOp) (h arg : Nat) (g : Option Nat) : HCode × Dev :=
  match op with
  | .arrive => d.arrive now none h arg
  | .wait => if (d.hurdle h).mode = 3 then (5, d) else (((d.hurdle h).waitNow g).getD 0, d)
  | .peek => (0, d)
  | .join => (5, d)
  | .acquire => match d.bankAcquire none h arg with
    | (.done code, d') => (code, d')
    | (.wait, d') => (9, d')
  | .notify => (5, d)
  | .arm => d.armHurdle now h
  | .config => match d.writeCfg now h (d.reg .hrdHcfg) with
    | some d' => (0, d')
    | none => (5, d)
  | .fail => match d.bankFail now h with
    | (.done code, d') => (code, d')
    | (.wait, d') => (5, d')

/-- HRD_OP of a core whose stores are acknowledged: at a fused home REFUSED, at a home in reset PARTICIPANT_LOST. -/
def State.hrdNow (s : State) (c : CoreIx) (rd : RegNum) (op : HOp) (h : HurdleIx) (arg : Nat) (g : Option Nat) : State :=
  match s.hurdleHome h with
  | .fused => s.onDev fun d => d.modCore c fun k => k.hrdDone rd (({} : Hurdle).resultWord h.val 5)
  | .resetting => s.onDev fun d => d.modCore c fun k => k.hrdDone rd ((d.hurdle h.val).resultWord h.val 1)
  | .bank =>
    match s.dev.bankCore s.now c op h.val arg g with
    | (.done code, d) => s.onDev fun _ => d.modCore c fun k => k.hrdDone rd ((d.hurdle h.val).resultWord h.val code)
    | (.wait, d) => s.onDev fun _ => d.modCore c fun k => { k with stall := .hurdle h rd }

/-- HRD_OP of a core: ARM, CONFIG and FAIL are illegal in user mode (R272); an ARRIVE waits until the core's earlier
stores are acknowledged (R267). -/
def State.hrdCore (s : State) (c : CoreIx) (rd : RegNum) (op : HOp) (h : HurdleIx) (arg : Nat) (g : Option Nat)
    (w : Word32) : State :=
  if op.privileged && !(s.dev.core c).mach then s.illegal c w
  else if op = .arrive ∧ s.dev.storesOut c then
    s.onDev fun d => d.modCore c fun k => { k with stall := .arrive h arg rd }
  else s.hrdNow c rd op h arg g

/-- Keep the result of an operation through HRD_HOP for its origin. -/
def Dev.setHop (d : Dev) (o : Origin) (w : Word) : Dev :=
  { d with hopRes := d.hopRes.set 0 (match o with | .fn0 => 0 | .fn1 => 1 | .firmware => 2) w }

/-- An operation through HRD_HOP that reaches its Hurdle's home. -/
def State.hopNow (s : State) (o : Origin) (op : HOp) (h : HurdleIx) (arg : Nat) (g : Option Nat) : State :=
  match s.hurdleHome h with
  | .fused => s.onDev fun d => d.setHop o (({} : Hurdle).resultWord h.val 5)
  | .resetting => s.onDev fun d => d.setHop o ((d.hurdle h.val).resultWord h.val 1)
  | .bank =>
    let r := s.dev.bankHop s.now op h.val arg g
    s.onDev fun _ => r.2.setHop o ((r.2.hurdle h.val).resultWord h.val r.1)

/-- A write of HRD_HOP with an operation: ARM, CONFIG and FAIL from function 0 carry out nothing and report REFUSED. -/
def State.hop (s : State) (o : Origin) (op : HOp) (h : HurdleIx) (arg : Nat) (g : Option Nat) : State :=
  s.regWrite o .hrdHop fun s =>
    if op.privileged ∧ o = .fn0 then s.onDev fun d => d.setHop o ((d.hurdle h.val).resultWord h.val 5)
    else s.hopNow o op h arg g

/-- An operation by whoever performs it. The register that holds a core's operation word is not a fact of the command:
in the bits an illegal instruction reports it is a free value. -/
def State.hurdleOp (s : State) (a : HAgent) (op : HOp) (h : HurdleIx) (arg : Nat) (g : Option Nat) : State :=
  match a with
  | .core c rd =>
    s.issue c 4 fun s => s.hrdCore c rd op h arg g (csrWord 0x830 (fld s.dev.free 4 0) 1 rd.val)
  | .hop o => s.hop o op h arg g

/-- Whether an agent's operation word with an ARG field can carry this generation or argument: 16 bits. -/
def arg16 (n : Nat) : Nat := n % 65536

/-- ARRIVE (R263, R272). -/
def execArrive (a : HAgent) (h : HurdleIx) (arg : Nat) (s : State) : Ans := .next (s.hurdleOp a .arrive h (arg16 arg) none)

/-- WAIT (R266, R272). -/
def execWait (a : HAgent) (h : HurdleIx) (g : Option Nat) (s : State) : Ans := .next (s.hurdleOp a .wait h 0 (g.map arg16))

/-- PEEK (R272). -/
def execPeek (a : HAgent) (h : HurdleIx) (s : State) : Ans := .next (s.hurdleOp a .peek h 0 none)

/-- JOIN (R268, R272). -/
def execJoin (a : HAgent) (h : HurdleIx) (s : State) : Ans := .next (s.hurdleOp a .join h 0 none)

/-- ACQUIRE (R263, R272, R273). -/
def execAcquire (a : HAgent) (h : HurdleIx) (n : Nat) (s : State) : Ans := .next (s.hurdleOp a .acquire h (arg16 n) none)

/-- NOTIFY (R272, R273). -/
def execNotify (a : HAgent) (h : HurdleIx) (g : Option Nat) (s : State) : Ans :=
  .next (s.hurdleOp a .notify h 0 (g.map arg16))

/-- ARM (R272). -/
def execArm (a : HAgent) (h : HurdleIx) (s : State) : Ans := .next (s.hurdleOp a .arm h 0 none)

/-- CONFIG (R265, R272). -/
def execConfig (a : HAgent) (h : HurdleIx) (s : State) : Ans := .next (s.hurdleOp a .config h 0 none)

/-- FAIL (R272). -/
def execFail (a : HAgent) (h : HurdleIx) (s : State) : Ans := .next (s.hurdleOp a .fail h 0 none)

/-- A write of HRD_HOP with an operation word (R271, R273). -/
def State.hopWord (s : State) (o : Origin) (v : Word) : State :=
  let h : HurdleIx := Fin.ofNat 65536 (fld v 15 0)
  let g := if bit v 48 then some (fld v 47 32) else none
  match HOp.ofCode (fld v 63 60) with
  | some op => s.hop o op h (fld v 47 32) g
  | none => s.regWrite o .hrdHop fun s => s.onDev fun d => d.setHop o ((d.hurdle h.val).resultWord h.val 5)

/-- HRD_HOP_RESERVED (R273): a reserved OP carries out nothing and its result word reports REFUSED. -/
def execHrdHopReserved (o : Origin) (v : Word) (s : State) : Ans :=
  .next (s.when (HOp.ofCode (fld v 63 60)).isNone (s.hopWord o v))

/-- HRD_EVENT_READ (R271): the oldest event's result word, or 0; the event is removed. -/
def execHrdEventRead (c : CoreIx) (rd : RegNum) (s : State) : Ans :=
  .next (s.issue c 4 fun s => s.onDev fun d => d.modCore c fun k =>
    ({ k with events := k.events.tail }.setX rd (k.events.head?.getD 0)).retire)

/-- A write of HRD_CFG (R265, R452): accepted and arms the Hurdle, or refused and recorded in HRD_HSTAT. -/
def State.hrdCfgWrite (s : State) (h : HurdleIx) (v : Word) : State :=
  match s.dev.writeCfg s.now h.val v with
  | some d => s.onDev fun _ => d
  | none => s.onDev fun d => d.modReg .hrdHstat fun w => setFld (setBit w 0 true) 63 48 h.val

/-- HRD_CFG_WRITE. -/
def execHrdCfgWrite (o : Origin) (h : HurdleIx) (v : Word) (s : State) : Ans :=
  .next (s.regWrite o (.hrdCfg h) fun s => s.hrdCfgWrite h v)

/-- A write of half an entry of the span table (R275, R452): stored, or refused while a Hurdle names the entry with SPAN = 1. -/
def Dev.spanWrite (d : Dev) (sl : Fin 256) (half : Fin 2) (v : Word) : Dev :=
  if d.hurdles.any fun e => e.2.span && e.2.slot == sl then
    d.modReg .hrdHstat fun w => setFld (setBit w 1 true) 47 40 sl.val
  else d.modReg (.span sl half) fun w => storeTyped (.span sl half) w v

/-- SPAN_ENTRY_WRITE. -/
def execSpanEntryWrite (o : Origin) (sl : Fin 256) (half : Fin 2) (v : Word) (s : State) : Ans :=
  .next (s.regWrite o (.span sl half) fun s => s.onDev fun d => d.spanWrite sl half v)

-- spanning Hurdles over links (R277, R278, R300)

/-- A HURDLE message of a kind. -/
def Msg.isHurdle (m : Msg) (kind : Nat) : Bool := m.op == 0x10 && m.byte 4 == kind

/-- Hurdle traffic that R277 refuses is counted against its port (as a protocol error, log entry 23). -/
def Dev.refuseSpan (d : Dev) (n : PortIx) : Dev := d.modReg (.linkPerr n) fun w => satAdd w 23 16 1

/-- Carry out the body of a HURDLE message at its Hurdle's home. -/
def State.spanMsg (s : State) (n : PortIx) (kind : Nat) (f : Msg → Nat → State → State) : State :=
  s.withMsg n 3 (fun m => m.isHurdle kind) fun m s =>
    let h : HurdleIx := Fin.ofNat 65536 (m.half 0)
    match s.hurdleHome h with
    | .bank => f m h.val s
    | _ => s

/-- Whether a message comes through the parent port of a spanning Hurdle in its present generation. -/
def Dev.fromParent (d : Dev) (n : PortIx) (h gen : Nat) : Bool :=
  let x := d.hurdle h
  x.span && fld (d.spanLo x.slot) 46 40 == n.val && gen == x.gen

/-- A child's arrival at the hub (R277): from a port in PORTS, once from a device, at most CHILDREN; a device's first arrival
for a generation that is decided already is answered with the kept decision (R278). -/
def Dev.childArrives (d : Dev) (now : Nat) (n : PortIx) (h : Nat) (m : Msg) : Dev :=
  let x := d.hurdle h
  let ok := x.span && bit (d.spanHi x.slot) n.val && !x.kids.any (fun k => k.2 == m.src) &&
    decide (x.kids.length < fld (d.spanLo x.slot) 27 16)
  if ok && x.decided.any (fun e => e.1 == m.half 2) then
    match x.decided with
    | some (g, some r) => d.sendHurdle n h g 2 r 0
    | some (g, none) => d.sendHurdle n h g 3 false x.code
    | none => d
  else if ok && x.state == 1 && m.half 2 == x.gen then
    (d.setHurdle h { x with
      kids := x.kids ++ [(n, m.src)], kidFlag := flagOp x.mode x.kidFlag (m.byte 5 % 2 == 1)
      holders := x.holders ++ [.link n m.src] }).spanCheck now h
  else d.refuseSpan n

/-- SPAN_ARRIVAL (R277). -/
def execSpanArrival (n : PortIx) (s : State) : Ans :=
  .next (s.spanMsg n 0 fun m h s => s.onDev fun d => d.childArrives s.now n h m)

/-- A failure report from a child (R278): at the root the first outcome stands and what comes after is ignored; below it
the report goes up. -/
def Dev.childFails (d : Dev) (now : Nat) (n : PortIx) (h : Nat) (m : Msg) : Dev :=
  let x := d.hurdle h
  if !(x.span && bit (d.spanHi x.slot) n.val) then d.refuseSpan n
  else if m.half 2 ≠ x.gen then d
  else d.loseHurdle now h (if m.byte 6 = 2 then 2 else 1)

/-- SPAN_FAILURE_REPORT (R278). -/
def execSpanFailureReport (n : PortIx) (s : State) : Ans :=
  .next (s.spanMsg n 1 fun m h s => s.onDev fun d => d.childFails s.now n h m)

/-- SPAN_RELEASE (R277): the decision releases this device's Hurdle and goes down to its children. -/
def execSpanRelease (n : PortIx) (s : State) : Ans :=
  .next (s.spanMsg n 2 fun m h s => s.onDev fun d =>
    let x := d.hurdle h
    let flag := m.byte 5 % 2 == 1
    if d.fromParent n h (m.half 2) && x.state == 1 then (d.sendDown h x 2 flag 0).release s.now h flag else d.refuseSpan n)

/-- SPAN_FAILURE_DECISION (R278): the decision fails this device's Hurdle and goes down to its children. -/
def execSpanFailureDecision (n : PortIx) (s : State) : Ans :=
  .next (s.spanMsg n 3 fun m h s => s.onDev fun d =>
    let x := d.hurdle h
    let code := if m.byte 6 = 2 then 2 else 1
    if d.fromParent n h (m.half 2) && x.state == 1 then (d.sendDown h x 3 false code).failHurdle s.now h code
    else d.refuseSpan n)

end Sys2Proof.Machine
end

