-- ==== Sys2Proof/Machine/Remote.lean ====
section
/-! DEFINITION. Requests of this device to other devices and their ends (R296 … R299, R306, R319, R321, R325); responses
to the requests of others; what happens to the traffic of a port that cannot carry it (R312, R313, R317). -/

namespace Sys2Proof.Machine

/-- Virtual channel of an operation (R297). -/
def opVc (op : Nat) : Nat := if op = 3 then 2 else if op ≤ 6 then 0 else if op ≤ 9 then 1 else 3

/-- A request (R297). -/
def Msg.isRequest (m : Msg) : Bool := decide (1 ≤ m.op ∧ m.op ≤ 6)

/-- An outstanding remote request by its number. -/
def Dev.remote (d : Dev) (k : Nat) : Option Remote := d.remotes.get none k

/-- The number of the request outstanding under a TAG; a request held at its source has no TAG yet. -/
def Dev.sent (d : Dev) (tag : Nat) : Option Nat :=
  (d.remotes.find? fun e => e.2.any fun r => r.via.isSome && r.msg.tag == tag).map (·.1)

/-- Whether a TAG may be used (R325): not outstanding, and not withheld after a timeout. -/
def Dev.tagFree (d : Dev) (now tag : Nat) : Bool :=
  (d.sent tag).isNone && !(d.withheld.any fun w => w.1 == tag && decide (now < w.2))

/-- The first number from `k` on, of the next ones as many as the first argument says, whose TAG, the number modulo 2^16, may be
used. -/
def Dev.findTag (d : Dev) (now : Nat) : Nat → Nat → Option Nat
  | 0, _ => none
  | f + 1, k => if d.tagFree now (k % 65536) then some k else d.findTag now f (k + 1)

/-- The number of the next request; none while all 65,536 TAGs are in use. -/
def Dev.nextRequest (d : Dev) (now : Nat) : Option Nat := d.findTag now 65536 d.nextTag

/-- Requests to a destination that have left. -/
def Dev.sentTo (d : Dev) (dst : Nat) : List PortIx :=
  d.remotes.filterMap fun e => e.2.bind fun r => if r.msg.dst == dst then r.via else none

/-- Whether a request to a destination is outstanding whose egress has changed since it left (R321). -/
def Dev.movedTo (d : Dev) (dst : Nat) : Bool :=
  d.remotes.any fun e => e.2.any fun r => r.msg.dst == dst && r.moved

/-- Whether a request to a destination waits at its source. -/
def Dev.heldTo (d : Dev) (dst : Nat) : Bool :=
  d.remotes.any fun e => e.2.any fun r => r.msg.dst == dst && r.via == none

/-- A request is held at its source. -/
def Dev.holdRequest (d : Dev) (r : Remote) : Dev :=
  { d with remotes := d.remotes.set none d.nextTag (some { r with via := none }), nextTag := d.nextTag + 1 }

/-- Request number `k` leaves through a port. -/
def Dev.launchRequest (d : Dev) (n : PortIx) (k : Nat) (r : Remote) : Dev :=
  let m := { r.msg with tag := k % 65536 }
  ({ d with remotes := d.remotes.set none k (some { r with msg := m, via := some n }), nextTag := k + 1 }).enqueue n (opVc m.op) r.src m

/-- The control processor's request `id` is answered. -/
def Dev.answerReq (d : Dev) (id : Nat) (r : Resp) : Dev :=
  { d with reqs := d.reqs.modify none id fun q => q.map fun q => { q with st := .done r } }

/-- A mailbox post or status read of another device ends: its result reaches rd (R284, R287). -/
def Dev.mbxDone (d : Dev) (c : CoreIx) (rd : RegNum) (w : Word) : Dev :=
  d.modCore c fun k => match k.stall with
    | .remote _ _ => { (k.setX rd w).retire with stall := .none }
    | _ => k

/-- A DMA channel of a core. -/
def Core.chan (k : Core) (n : Nat) : DmaCh := k.dma.get {} n

/-- Change a DMA channel. -/
def Core.modChan (k : Core) (n : Nat) (f : DmaCh → DmaCh) : Core := { k with dma := k.dma.modify {} n f }

/-- A channel halts at its descriptor with a status (P2, R218). -/
def DmaCh.halt (x : DmaCh) (st : Nat) : DmaCh := { x with phase := .halted, status := st }

/-- End one remote request (R299): the response's STATUS and data reach its requester. Read data of a DMA channel is
kept until its transfer is made. -/
def Dev.endRemote (d : Dev) (k st : Nat) (data : List Byte) (val : Nat) : Dev :=
  match d.remote k with
  | none => d
  | some r =>
    let d := { d with remotes := d.remotes.set none k none }
    let d := match r.who with
      | .dma c _ (some _) | .mbx c _ true => d.slotWake c
      | _ => d
    match r.who with
    | .core id =>
      let store := (d.reqs.get none id).any fun q => q.op == .write
      -- a read brings the 32-byte sector that holds what the core asked for (R115)
      let v := match d.reqs.get none id with
        | some q => nbits (ofLe data) (8 * (if q.op = .read then q.addr % 32 else 0) + 8 * q.size - 1)
            (8 * (if q.op = .read then q.addr % 32 else 0))
        | none => 0
      d.answerReq id (if st = 0 then .ok v else if st = 2 ∧ !store then .ue else .error)
    | .dma c ch src =>
      d.modCore c fun x => x.modChan ch fun y =>
        if st ≠ 0 then y.halt (if st = 2 ∧ src.isSome then 2 else 5)
        else match src with
          | some a => { y with got := y.got ++ [(a, data)] }
          | none => y
    | .mbx c rd stat =>
      -- a status read that fails delivers a free value (log entry 24)
      if stat then
        if st = 0 then d.mbxDone c rd (BitVec.ofNat 64 (ofLe (data.take 8))) else (d.mbxDone c rd d.free).spend 1
      else d.mbxDone c rd (if st = 0 then BitVec.ofNat 64 val else 5)
    | .gone _ => d
    | .bar2 fn read lo len =>
      if read then d.emit (if st = 0 ∨ st = 2 then .pcie fn ((data.drop lo).take len) (st == 2) else .abort fn r.msg.addr)
      else if st = 0 then d
      else (d.modReg .hostStat fun w => satAdd w 47 32 1).emit (.advisory fn r.msg.addr)

/-- Requests held at their source for a destination go once every one that left before the egress changed has ended (R321) and as far as TAGs are free; those
for which no port can be used end as R319 says. -/
def Dev.releaseHeld (d : Dev) (now dst : Nat) : Dev :=
  if d.movedTo dst then d
  else
    (d.remotes.filterMap fun e => e.2.bind fun r => if r.msg.dst == dst && r.via == none then some (e.1, r) else none).foldl
      (fun d e =>
        match d.route now dst with
        | (.port n, d) => match d.nextRequest now with
          | none => d
          | some k => ({ d with remotes := d.remotes.set none e.1 none }).launchRequest n k e.2
        | (.down, d) => d.endRemote e.1 5 [] 0
        | (.none, d) => d.endRemote e.1 4 [] 0) d

/-- Every destination's held requests go as far as they may. -/
def Dev.releaseAll (d : Dev) (now : Nat) : Dev :=
  (nub (d.remotes.filterMap fun e => e.2.bind fun r => if r.via == none then some r.msg.dst else none)).foldl
    (fun d dst => d.releaseHeld now dst) d

/-- Send a request (R319, R321, R325): the STATUS with which it is answered at once, or none when it is under way or held
at its source, behind earlier requests that left through another port or until a TAG is free. -/
def Dev.sendRemote (d : Dev) (now src : Nat) (who : RemoteWho) (issued : Nat) (m : Msg) : Option Nat × Dev :=
  let d := d.releaseAll now
  match d.route now m.dst with
  | (.none, d) => (some 4, d)
  | (.down, d) => (some 5, d)
  | (.port n, d) =>
    let r : Remote := { who := who, msg := { m with src := d.devId }, issued := issued, src := src }
    (none, if d.heldTo m.dst || d.movedTo m.dst then d.holdRequest r
      else match d.nextRequest now with
        | none => d.holdRequest r
        | some k => d.launchRequest n k r)

/-- A remote request ends and what waits behind it may go. -/
def Dev.finishRemote (d : Dev) (now k st : Nat) (data : List Byte) (val : Nat) : Dev :=
  match d.remote k with
  | none => d
  | some _ => (d.endRemote k st data val).releaseAll now

/-- The source of a response at a port (R305): the partition that the request reached, or the hub. -/
def Msg.servedBy (q : Msg) : Nat := if q.op ≤ 4 ∧ q.addr / 2 ^ 36 < 8 then q.addr / 2 ^ 36 else hubSrc

/-- Answer a request of another device (R297): DATA for a READ or an AMO that succeeds, DONE for all others; the DONE of a MBX_STAT
carries MBX_CH in its first data bytes (log entry 24). A response that finds no port is not sent; its source ends the request under
R325. -/
def Dev.respond (d : Dev) (now src : Nat) (q : Msg) (st val : Nat) (data : List Byte) : Dev :=
  let ok := decide (st = 0 ∨ st = 2) && (q.op == 1 || q.op == 4)
  let m : Msg := { src := d.devId, dst := q.src, op := if ok then 8 else 9, status := st, tag := q.tag,
                   param := if ok then 0 else val, len := if ok then q.len else 0, addr := 0,
                   data := if ok then data else if q.op = 6 ∧ st = 0 then data.take 8 else [] }
  match d.route now q.src with
  | (.port n, d) => d.enqueue n 1 src m
  | (_, d) => d

/-- A message that was to leave through a port that cannot carry it: a request of this device ends with LINK_DOWN, a
request in transit is answered LINK_DOWN, anything else is lost. -/
def Dev.bounce (d : Dev) (now : Nat) (m : Msg) : Dev :=
  if !m.isRequest then d
  else if m.src = d.devId then
    match d.sent m.tag with
    | some k => d.finishRemote now k 5 [] 0
    | none => d
  else d.respond now hubSrc m 5 0 []

/-- The traffic of a port is answered with LINK_DOWN (R312, R313, R317, R329): what is queued and what the Partner has
not acknowledged. -/
def Dev.dropTraffic (d : Dev) (now : Nat) (n : PortIx) : Dev :=
  let p := d.port n
  let msgs := (p.replay.filter (·.lastf)).filterMap (·.trans) ++ p.txq.map (·.msg)
  let d := d.setPort n { p with txq := [], replay := [], resend := [], replaysRow := 0, unpaid := [], updating := false }
  -- flits in transit leave the receive buffers of the ports they came through
  let d := p.txq.foldl (fun d t => match portIx (t.src - 16) with
    | some m => if 16 ≤ t.src then d.modPort m fun q => q.freeBatons t.vc t.flits.length else d
    | none => d) d
  msgs.foldl (fun d m => d.bounce now m) d

/-- A link that goes down or retrains: the Hurdle holds it keeps are lost (R269, R327), and a Hurdle whose arrival left
through it toward the parent is an orphan (R278). -/
def Dev.loseLink (d : Dev) (now : Nat) (n : PortIx) : Dev :=
  let d := (d.hurdles.map (·.1)).foldl (fun d h =>
    let x := d.hurdle h
    if x.state = 1 ∧ x.span ∧ x.sent ∧ fld (d.spanLo x.slot) 46 40 = n.val then d.setHurdle h { x with orphan := true }
    else d) d
  d.loseHolds now fun a => match a with
    | .link m _ => m == n
    | _ => false

end Sys2Proof.Machine
end

