-- ==== Sys2Proof/Machine/DmaOps.lean ====
section
/-! DEFINITION. DMA descriptors and transfers (R172 … R175, R218 … R222): the fields and checks of a descriptor, where its
operands lie, and moving the data. -/

namespace Sys2Proof.Machine

-- the descriptor (R172, R219)

/-- MODE: 0 COPY, 1 TR8, 2 TR16, 3 TR32, 4 FILL, 5 ADD. -/
def dmaMode (l : List Word) : Nat := descFld l 63 60
/-- ROWS of a TR mode. -/
def dmaRows (l : List Word) : Nat := descFld l 47 32
/-- PARAM. -/
def dmaParam (l : List Word) : Nat := descFld l 31 0
/-- Source elements per row of a TR mode. -/
def dmaCols (l : List Word) : Nat := descFld l 15 0
/-- SRC. -/
def dmaSrc (l : List Word) : Nat := descFld l 115 64
/-- DST. -/
def dmaDst (l : List Word) : Nat := descFld l 179 128
/-- SFAR. -/
def dmaSfar (l : List Word) : Bool := descFld l 116 116 == 1
/-- DFAR. -/
def dmaDfar (l : List Word) : Bool := descFld l 180 180 == 1
/-- LEN. -/
def dmaLen (l : List Word) : Nat := descFld l 223 192
/-- SSTRIDE. -/
def dmaSstride (l : List Word) : Nat := descFld l 287 256
/-- DSTRIDE. -/
def dmaDstride (l : List Word) : Nat := descFld l 319 288
/-- SIG_H, where SIG_V = 1. -/
def dmaSig (l : List Word) : Option HurdleIx := if descFld l 336 336 = 1 then some (Fin.ofNat 65536 (descFld l 335 320)) else none
/-- LAST. -/
def dmaLast (l : List Word) : Bool := descFld l 337 337 == 1

/-- Whether the mode is a TR mode. -/
def dmaIsTr (l : List Word) : Bool := decide (1 ≤ dmaMode l ∧ dmaMode l ≤ 3)
/-- Bytes of an element of a TR mode. -/
def dmaElem (l : List Word) : Nat := 2 ^ (dmaMode l - 1)

/-- Source extents: address and length. -/
def dmaSrcs (l : List Word) : List (Nat × Nat) :=
  if dmaIsTr l then (List.range (dmaRows l)).map fun r => (dmaSrc l + r * dmaSstride l, dmaCols l * dmaElem l)
  else if dmaMode l = 4 then [] else [(dmaSrc l, dmaLen l)]

/-- Destination extents. -/
def dmaDsts (l : List Word) : List (Nat × Nat) :=
  if dmaIsTr l then (List.range (dmaCols l)).map fun c => (dmaDst l + c * dmaDstride l, dmaRows l * dmaElem l)
  else [(dmaDst l, dmaLen l)]

/-- The mode word breaks R172. -/
def dmaBadMode (l : List Word) : Bool :=
  decide (5 < dmaMode l) ||
  (dmaIsTr l && (dmaRows l % 32 != 0 || dmaRows l == 0 || dmaCols l % 32 != 0 || dmaCols l == 0)) ||
  (dmaMode l == 5 && !adderPairs (descFld l 11 8) (descFld l 7 4))

/-- A field the mode uses breaks the alignment rules of R219. -/
def dmaMisaligned (l : List Word) : Bool :=
  let off (n : Nat) : Bool := n % 32 != 0
  off (dmaDst l) || (dmaMode l != 4 && off (dmaSrc l)) ||
  (if dmaIsTr l then off (dmaSstride l) || off (dmaDstride l) else off (dmaLen l))

/-- A far-tier extent leaves 0 … 4 TiB. -/
def farOutside (l : List (Nat × Nat)) : Bool := l.any fun e => decide (2 ^ 42 < e.1 + e.2)

/-- How a far-tier operand stops a descriptor (R220): FAULT, or ERROR for an ADD into the far tier. -/
def Dev.dmaFarStop (d : Dev) (asid : Nat) (l : List Word) : Option Nat :=
  let sfar := dmaSfar l && dmaMode l != 4
  if !sfar && !dmaDfar l then none
  else if !bit (d.reg (.resRoot (Fin.ofNat 16 asid))) 62 || !bit (d.reg .farCtl) 63 ||
      (sfar && (farOutside (dmaSrcs l) || dmaMode l == 5)) || (dmaDfar l && farOutside (dmaDsts l)) then some 4
  else if dmaMode l = 5 then some 5 else none

/-- Pieces within 128-byte lines (R115). -/
def linePieces (e : Nat × Nat) : List (Nat × Nat) := pieces (fun a => 128 - a % 128) (e.2 / 32 + 1) e.1 e.2

/-- Pieces of one message each: at most 4096 bytes, within one page (R296). -/
def msgPieces (e : Nat × Nat) : List (Nat × Nat) := pieces (fun a => min (4096 - a % 32) (2 ^ 21 - a % 2 ^ 21)) (e.2 / 32 + 1) e.1 e.2

/-- Pages, by first address, of an extent. -/
def pagesOf (e : Nat × Nat) : List Nat :=
  if e.2 = 0 then [] else (List.range (ceilDiv (e.1 % 2 ^ 21 + e.2) (2 ^ 21))).map fun i => (e.1 / 2 ^ 21 + i) * 2 ^ 21

/-- Pages a descriptor translates, with the kind of access: not the local window, not far-tier offsets. -/
def dmaPages (l : List Word) : List (Nat × Access) :=
  let s := if dmaSfar l then [] else (dmaSrcs l).flatMap pagesOf
  let t := if dmaDfar l then [] else (dmaDsts l).flatMap pagesOf
  nub (((s.filter fun a => !inWindow a).map fun a => (a, .load)) ++ ((t.filter fun a => !inWindow a).map fun a => (a, .store)))

/-- Destination pieces with their data: the source's bytes in order, or the transposed matrix (R173), or the pattern. -/
def dmaData (l : List Word) (src : List Byte) : List (Nat × List Byte) :=
  if dmaIsTr l then
    let e := dmaElem l
    let n := dmaCols l
    (List.range n).map fun c =>
      (dmaDst l + c * dmaDstride l,
        ((List.range (dmaRows l)).map fun r => (src.drop ((r * n + c) * e)).take e).flatten)
  else if dmaMode l = 4 then
    [(dmaDst l, (List.replicate (dmaLen l / 4) (leBytes 4 (dmaParam l))).flatten)]
  else [(dmaDst l, src)]

/-- Cut data along pieces. -/
def cutAlong : List (Nat × Nat) → List Byte → List (Nat × List Byte)
  | [], _ => []
  | (a, n) :: r, l => (a, l.take n) :: cutAlong r (l.drop n)

-- where operands lie

/-- Where a piece of an operand lies: local SRAM, a physical address, a far-tier offset. -/
inductive Loc where
  | sram (off : Nat) | mem (pa : Nat) | far (off : Nat)
  deriving DecidableEq, Repr

/-- Resolve an address by the pages translated: page ↦ physical address of it. -/
def locOf (pages : List (Nat × Nat)) (far : Bool) (a : Nat) : Option Loc :=
  if far then some (.far a)
  else if inWindow a then some (.sram (a - windowBase))
  else (pages.find? fun e => e.1 == a / 2 ^ 21 * 2 ^ 21).map fun e => .mem (e.2 + a % 2 ^ 21)

/-- What the translation of a page for a DMA channel comes to. -/
inductive PageRes where
  | at' (pa : Nat) | fault | wait
  deriving DecidableEq, Repr

/-- A walk stands at level 3 for a requester: its demand fault can be made (R196). -/
def Dev.noteFar (d : Dev) (w : Walk) : Dev :=
  if d.walks.any (fun x => x.who == w.who) then d else { d with walks := d.walks ++ [{ w with level := 3 }] }

/-- Translate one page for a DMA channel (R190, R191, R196): through the translation cache or by a walk; a page in the far
tier leaves the demand fault to be made. -/
def State.dmaPage (s : State) (c : CoreIx) (n asid va : Nat) (acc : Access) : PageRes × State :=
  if 2 ^ 52 ≤ va then (.fault, s)
  else match s.xlate (coreCluster c) asid va acc with
  | (.ok pa, s) => (.at' pa, s)
  | (.fault, s) => (.fault, s)
  | (.miss, s) => match s.walk asid va (s.dev.clusterId (coreCluster c)) with
    | (none, s) => (.fault, s)
    | (some (a, w), s) =>
      if acc = .store ∧ !bit w 59 ∧ pteRes w ≠ .here then (.fault, s)
      else match pteRes w with
      | .fault => (.fault, s)
      | .moving => (.wait, s)
      | .far => (.wait, s.onDev fun d => d.noteFar { who := .dma c n, asid := asid, va := va, acc := acc, level := 3, table := a })
      | .here =>
        let s := s.pteOr a 57
        if acc = .store ∧ !bit w 59 then (.fault, s)
        else (.at' (ptePhys w va), if acc = .store ∧ !bit w 56 then s.pteOr a 56 else s)

/-- Translate pages in order until one faults or waits. -/
def State.dmaXlate (c : CoreIx) (n asid : Nat) : List (Nat × Access) → State → Option (List (Nat × Nat)) × Bool × State
  | [], s => (some [], false, s)
  | (va, acc) :: r, s => match s.dmaPage c n asid va acc with
    | (.fault, s) => (none, true, s)
    | (.wait, s) => (none, false, s)
    | (.at' pa, s) => match State.dmaXlate c n asid r s with
      | (some l, b, s) => (some ((va, pa) :: l), b, s)
      | o => o

-- access to the pieces

/-- Record FAR_ERR at a far-tier offset (R426): SUBJ names the CXL port, a free value where no decoder serves the offset. -/
def State.farErr (s : State) (f : Nat) : State :=
  let q := match s.dev.farTarget f with
    | some (q, _, _) => q
    | none => s.dev.free.toNat % 2
  (s.record .farErr f q (idHub s.dev.devId)).onDev fun d => d.spend

/-- Read far-tier bytes within one sector run. -/
def State.farRead (s : State) (f n : Nat) : Option Read × State :=
  match s.dev.farKey f with
  | none => (none, s.farErr f)
  | some key =>
    let r := s.mem.read sectorGran s.dev.freeCtr key n
    (some r, s.onDev fun d => r.bad.foldl (fun d k => d.recordUe s.now (.far f) sectorGran (f + (k * sectorGran - key)) (r.poison.contains k)) (d.spend r.used))

/-- Write far-tier bytes. -/
def State.farWrite (s : State) (f : Nat) (l : List Byte) : Bool × State :=
  match s.dev.farKey f with
  | none => (false, s.farErr f)
  | some key => (true, { s with mem := s.mem.write sectorGran key l })

/-- What a piece of source data comes to: bytes, or the status at which the channel halts. -/
inductive Piece where
  | bytes (l : List Byte) | stop (st : Nat)
  deriving DecidableEq, Repr

/-- The outcome of a read as a piece. -/
def Piece.ofRead : Option Read × State → Piece × State
  | (none, s) => (.stop 5, s)
  | (some r, s) => (if r.bad ≠ [] then .stop 2 else .bytes r.bytes, s)

/-- Read one line piece for a DMA channel (R107, R179, R219). Local SRAM reads sector by sector old or new where a queued tensor
or vector instruction writes it (R78, R106); another device's lines are those that have arrived. -/
def State.dmaRead (s : State) (c : CoreIx) (n : Nat) (loc : Option Loc) (a len : Nat) : Piece × State :=
  match loc with
  | none => (.stop 4, s)
  | some (.sram off) =>
    let r := s.dev.sramView s.now c off len .none
    (if r.1.bad ≠ [] then .stop 2 else .bytes r.1.bytes, s.onDev fun _ => r.2)
  | some (.far f) => Piece.ofRead (s.farRead f len)
  | some (.mem pa) => match ((s.dev.core c).chan n).got.find? fun e => e.1 == a with
    | some e => (.bytes (e.2.take len), s)
    | none => match s.place pa with
      | .remote _ _ => (.stop 5, s)
      | .far f => Piece.ofRead (s.farRead f len)
      | _ => Piece.ofRead (s.readFor pa len)

/-- Read pieces in order: all bytes, zeros where a piece stops, and the statuses met. -/
def State.dmaReads (c : CoreIx) (n : Nat) (pages : List (Nat × Nat)) (far : Bool) :
    List (Nat × Nat) → State → List Byte × List (Nat × Nat) × List Nat × State
  | [], s => ([], [], [], s)
  | (a, len) :: r, s =>
    match s.dmaRead c n (locOf pages far a) a len with
    | (.bytes l, s) =>
      let (m, bad, st, s) := State.dmaReads c n pages far r s
      (l ++ m, bad, st, s)
    | (.stop k, s) =>
      let (m, bad, st, s) := State.dmaReads c n pages far r s
      (List.replicate len 0 ++ m, (a, len) :: bad, k :: st, s)

/-- Make a 2 MiB block live (R180): DRAM blocks first, then the direct window's. -/
def Dev.setLive (d : Dev) (p : PartIx) (b : Nat) : Dev :=
  if h : b / 64 < 390 then d.modReg (.sliceLive p ⟨b / 64, h⟩) fun w => setBit w (b % 64) true else d

/-- The live bit of the block at an offset of a partition. -/
def liveIndex (o : Nat) : Nat := if nearBase ≤ o then 24576 + (o - nearBase) / 2 ^ 21 else o / 2 ^ 21

/-- FILL writes a line piece without a read; a cached copy of the line is invalidated (R174). -/
def State.fillAt (s : State) (a : Nat) (l : List Byte) : Bool × State :=
  match s.relayBlocks a l.length with
  | (true, s) => (false, s)
  | (false, s) => match s.key a with
    | none => (false, s)
    | some key =>
      if l.length = 128 then
        let s := (s.remapCheck a).onDev fun d => ({ d with cache := d.cache.set none (a / 128) none }).breakResv (a / 128)
        let s := match s.place a with
          | .mem p c true => (s.onDev fun d => d.modSlice p c fun x => { x with wb := x.wb.filter (· != a / 128) }).regroup (a / 128)
          | _ => s
        (true, { s with mem := (s.mem.forget wordGran key 128).write (s.granAt a) key l })
      else s.memWrite a l

/-- Write one piece for a DMA channel; the status at which it halts, if it does. -/
def State.dmaWrite (s : State) (c : CoreIx) (n : Nat) (l : List Word) (loc : Option Loc) (data : List Byte) : Option Nat × State :=
  let add := dmaMode l == 5
  match loc with
  | none => (some 4, s)
  | some (.sram off) =>
    if add then (some 5, s) else (none, s.onDev fun d => d.modCore c fun k => k.sramWrite off data)
  | some (.far f) =>
    if add then (some 5, s)
    else match s.farWrite f data with
      | (ok, s) => (if ok then none else some 5, s)
  | some (.mem pa) => match s.place pa with
    | .remote dst addr =>
      let m : Msg := { src := 0, dst := dst, op := if add then 3 else 2, param := if add then dmaParam l % 4096 else 0
                       len := data.length / 32 - 1, addr := addr, data := data }
      match s.dev.sendRemote s.now (corePart c).val (.dma c n none) pa m with
      | (st, d) => (st.map fun _ => 5, s.onDev fun _ => d)
    | .far f =>
      if add then (some 5, s)
      else match s.farWrite f data with
        | (ok, s) => (if ok then none else some 5, s)
    | _ =>
      if s.roConflict pa data.length then (some 3, s)
      else if add then
        match s.addTransfer pa (descFld l 11 8) (descFld l 7 4) (descFld l 3 3 == 1) (descFld l 2 2 == 1) data with
        | (none, s) => (some 5, s)
        | (some _, s) => (none, s)
      else match (if dmaMode l = 4 then s.fillAt pa data else s.writeFor pa data) with
        | (ok, s) => (if ok then none else some 5, s)

/-- Write pieces in order; with `gate`, a predicate on their numbers, only the pieces it names of those that could be written. The
statuses met, each with the number of its piece. -/
def State.dmaWrites (c : CoreIx) (n : Nat) (l : List Word) (pages : List (Nat × Nat)) (gate : Nat → Bool) :
    Nat → List (Nat × List Byte) → State → List (Nat × Nat) × State
  | _, [], s => ([], s)
  | i, (a, data) :: r, s =>
    match s.dmaWrite c n l (locOf pages (dmaDfar l) a) data with
    | (some st, t) =>
      let (k, s) := State.dmaWrites c n l pages gate (i + 1) r t
      ((i, st) :: k, s)
    | (none, t) => State.dmaWrites c n l pages gate (i + 1) r (if gate i then t else s)

/-- Whether a piece goes to another device. -/
def State.isRemote (s : State) (loc : Option Loc) : Bool :=
  match loc with
  | some (.mem pa) => match s.place pa with
    | .remote _ _ => true
    | _ => false
  | _ => false

/-- The pieces in which a run of data leaves for its destination, with their offsets in the run: whole messages toward
another device, lines elsewhere. -/
def State.dmaOut (s : State) (l : List Word) (pages : List (Nat × Nat)) (e : Nat × List Byte) : List (Nat × Nat × List Byte) :=
  let ps := if s.isRemote (locOf pages (dmaDfar l) e.1) then msgPieces (e.1, e.2.length) else linePieces (e.1, e.2.length)
  (cutAlong ps e.2).map fun x => (x.1 - e.1, x)

/-- Whether the bytes at an offset of a destination run come from source pieces that could be read. -/
def dmaSound (l : List Word) (bad : List (Nat × Nat)) (off len : Nat) : Bool :=
  bad.all fun b =>
    if dmaIsTr l then
      (List.range (dmaRows l)).all fun r =>
        let a := dmaSrc l + r * dmaSstride l
        decide (b.1 + b.2 ≤ a ∨ a + dmaCols l * dmaElem l ≤ b.1 ∨ off + len ≤ r * dmaElem l ∨ (r + 1) * dmaElem l ≤ off)
    else decide (b.1 - dmaSrc l + b.2 ≤ off ∨ off + len ≤ b.1 - dmaSrc l)

/-- Remote requests of a channel that have not ended. -/
def Dev.chanRemotes (d : Dev) (c : CoreIx) (n : Nat) : Bool :=
  d.remotes.any fun e => e.2.any fun r => match r.who with
    | .dma x m _ => x == c && m == n
    | _ => false

/-- A channel halts at its descriptor. -/
def State.dmaHalt (s : State) (c : CoreIx) (n st : Nat) : State := s.onDev fun d => d.modCore c fun k => k.modChan n fun x => x.halt st

/-- Ask other devices for source lines, in order, while read slots are free (R113 … R115). -/
def State.dmaAsk (c : CoreIx) (n : Nat) (pages : List (Nat × Nat)) : List (Nat × Nat) → State → State
  | [], s => s
  | e :: r, s =>
    if !s.dev.slotFree c false then s
    else match locOf pages false e.1 with
      | some (.mem pa) => match s.place pa with
        | .remote dst addr =>
          let s := s.onDev fun d => d.modCore c fun k => k.modChan n fun x => { x with asked := x.asked ++ [e.1] }
          match s.dev.sendRemote s.now (corePart c).val (.dma c n (some e.1)) pa
              { src := 0, dst := dst, op := 1, len := e.2 / 32 - 1, addr := addr } with
          | (none, d) => State.dmaAsk c n pages r (s.onDev fun _ => d)
          | (some _, d) => (s.onDev fun _ => d).dmaHalt c n 5
        | _ => State.dmaAsk c n pages r s
      | _ => State.dmaAsk c n pages r s

/-- Blocks that a FILL covers entirely become live (R174). -/
def State.fillLive (s : State) (l : List Word) (pages : List (Nat × Nat)) : State :=
  if dmaMode l ≠ 4 then s
  else pages.foldl (fun s e =>
    if dmaDst l ≤ e.1 ∧ e.1 + 2 ^ 21 ≤ dmaDst l + dmaLen l then
      match s.place e.2 with
      | .mem p _ _ => s.onDev fun d => d.setLive p (liveIndex (e.2 % 2 ^ 36))
      | _ => s
    else s) s

/-- Translate the pages of a descriptor that its channel needs; a contribution's destination is twice its source, whose end may lie
in a later page (R229). The pages, whether one faulted. -/
def State.dmaResolve (s : State) (c : CoreIx) (n : Nat) (l : List Word) : Option (List (Nat × Nat)) × Bool × State :=
  match (s.dev.core c).asid with
  | none => (some [], false, s)
  | some asid => match State.dmaXlate c n asid (dmaPages l) s with
    | (some pages, b, s) =>
      let widens := dmaMode l == 5 && (match locOf pages (dmaDfar l) (dmaDst l) with
        | some (.mem pa) => (s.relayOf pa).isSome
        | _ => false)
      if !widens then (some pages, b, s)
      else
        let more := ((pagesOf (dmaDst l, 2 * dmaLen l)).filter fun a => !pages.any fun e => e.1 == a).map fun a => (a, Access.store)
        match State.dmaXlate c n asid more s with
        | (some extra, b, s) => (some (pages ++ extra), b, s)
        | o => o
    | o => o

/-- The contribution a descriptor makes, if it makes one (R229): the entry, and the physical addresses its source bytes widen to, page
by page. -/
def State.dmaContribution (s : State) (l : List Word) (pages : List (Nat × Nat)) (data : List Byte) :
    Option (PartIx × RelayEntry × List (Nat × List Byte)) :=
  let parts := (cutAlong ((pieces (fun a => (2 ^ 21 - (dmaDst l + 2 * a) % 2 ^ 21) / 2) (data.length / 32 + 1) 0 data.length)) data).filterMap
    fun x => match locOf pages (dmaDfar l) (dmaDst l + 2 * x.1) with
      | some (.mem pa) => some (pa, x.2)
      | _ => none
  if dmaMode l != 5 then none
  else (parts.head?.bind fun x => s.relayOf x.1).map fun e => (e.1, e.2, parts)

/-- One of the statuses met, freely chosen (which of several the channel shows is not stated). -/
def pickStatus (f : Word) (l : List Nat) : Nat := l.getD (f.toNat % l.length) 5

/-- The runs of this device's memory that a transfer touches. -/
def locRuns (pages : List (Nat × Nat)) (far : Bool) (l : List (Nat × Nat)) : List (Nat × Nat) :=
  l.filterMap fun e => match locOf pages far e.1 with
    | some (.mem pa) => some (pa, e.2)
    | _ => none

/-- Read the source and write the destination of a descriptor. Where any piece fails the channel halts with a status it met. Of the
other pieces each is written or not by a free choice; those of an ADD go out in the source's order, so those before the first that
fails are written, and of those after it a freely chosen number, in order (R175, log entry 35). -/
def State.dmaRun (s : State) (c : CoreIx) (n : Nat) (l : List Word) (pages : List (Nat × Nat)) : State :=
  let moved (s : State) : State := s.onDev fun d => d.modCore c fun k => k.modChan n fun y => { y with moved := true }
  let (src, bad, st, s) := State.dmaReads c n pages (dmaSfar l) ((dmaSrcs l).flatMap linePieces) s
  match s.dmaContribution l pages src with
  | some (p, e, parts) =>
    let whole := match bad with
      | [] => parts
      | b :: _ => ((s.dmaContribution l pages (src.take (b.1 - dmaSrc l))).map (·.2.2)).getD []
    match s.contribute p e (descFld l 11 8) (descFld l 7 4) whole with
    | (none, s) => s.dmaHalt c n (st.headD 5)
    | (some _, s) => match st with
      | [] => moved s
      | k :: _ => s.dmaHalt c n k
  | none =>
    -- a destination piece whose source could not be read is never written
    let all := (dmaData l src).flatMap (s.dmaOut l pages)
    let sound (x : Nat × Nat × List Byte) : Bool := dmaSound l bad x.1 x.2.2.length
    let data := (all.filter sound).map (·.2)
    let r := State.dmaWrites c n l pages (fun _ => true) 0 data s
    if st = [] ∧ r.1 = [] then moved (r.2.fillLive l pages)
    else
      let g := s.dev.freeCtr
      let s := s.onDev fun d => d.spend (data.length / 64 + 2)
      let first := min ((all.takeWhile sound).length) ((r.1.map (·.1)).foldl min data.length)
      let upTo := first + (Config.free (g + 1)).toNat % (data.length + 1 - first)
      let gate (i : Nat) : Bool := if dmaMode l = 5 then decide (i < upTo) else bit (Config.free (g + 1 + i / 64)) (i % 64)
      let w := State.dmaWrites c n l pages gate 0 data s
      w.2.dmaHalt c n (pickStatus (Config.free g) (st ++ r.1.map (·.2)))

/-- Make the transfer of the descriptor a channel runs: translate; ask for remote source data as read slots are free and wait for it;
then read and write in the channel's turn at the slices. -/
def State.dmaTransfer (s : State) (c : CoreIx) (n : Nat) : State :=
  let l := ((s.dev.core c).chan n).desc
  match s.dmaResolve c n l with
  | (none, true, s) => s.dmaHalt c n 4
  | (none, false, s) => s
  | (some pages, _, s) =>
    let srcs := (dmaSrcs l).flatMap linePieces
    let asked := ((s.dev.core c).chan n).asked
    match srcs.filter fun e => s.isRemote (locOf pages (dmaSfar l) e.1) && !asked.contains e.1 with
    | e :: r => State.dmaAsk c n pages (e :: r) s
    | [] =>
      if s.dev.chanRemotes c n then s
      else
        let here := srcs.filter fun e => !asked.contains e.1
        s.gated (.dma c n) (if dmaMode l = 5 then .adder else .dma) (srcDma c n) (locRuns pages (dmaSfar l) here)
          (locRuns pages (dmaDfar l) ((dmaDsts l).flatMap linePieces)) fun s => s.dmaRun c n l pages

end Sys2Proof.Machine
end

