-- ==== Sys2Proof/Machine/Dma.lean ====
section
/-! DEFINITION. The commands on DMA channels (R218 … R222): triggers, the start and the end of a descriptor, the transfer
modes. -/

namespace Sys2Proof.Machine

/-- Change a DMA channel of the device. -/
def Dev.modDma (d : Dev) (c : CoreIx) (n : Nat) (f : DmaCh → DmaCh) : Dev := d.modCore c fun k => k.modChan n f

/-- DMA_STAT (R218). -/
def DmaCh.statWord (x : DmaCh) : Word :=
  fput 63 48 x.done ||| fput 47 40 x.status ||| fput 34 34 x.pend.isSome.toNat |||
    fput 33 33 (x.phase == .halted).toNat |||
    fput 32 32 (x.phase == .begin || x.phase == .running || x.phase == .paused).toNat ||| fput 21 6 x.cur

/-- A chain begins at a descriptor: STATUS returns to OK. -/
def DmaCh.begin' (x : DmaCh) (cur : Nat) : DmaCh :=
  { x with phase := .begin, cur := cur % 65536, status := 0, desc := [], moved := false, asked := [], got := [] }

/-- The chain ends; a pending START then runs. -/
def DmaCh.finish (x : DmaCh) : DmaCh :=
  match x.pend with
  | some ch => { x.begin' ch with pend := none }
  | none => { x with phase := .idle }

/-- A False start of a DMA channel (R221, R338). -/
def State.dmaFalse (s : State) (c : CoreIx) (n : Nat) : State :=
  s.onDev fun d => d.falseStart s.now 2 (4 * s.nv.part.logical c.val + n) 0 (idCore d.devId c)

/-- START (R221). -/
def State.dmaGoStart (s : State) (c : CoreIx) (n chain : Nat) : State :=
  let x := (s.dev.core c).chan n
  if x.phase = .idle then s.onDev fun d => d.modDma c n fun x => x.begin' chain
  else if x.pend.isNone then s.onDev fun d => d.modDma c n fun x => { x with pend := some (chain % 65536) }
  else s.dmaFalse c n

/-- RESUME (R221): reruns CUR of a halted channel. -/
def State.dmaGoResume (s : State) (c : CoreIx) (n : Nat) : State :=
  if ((s.dev.core c).chan n).phase = .halted then s.onDev fun d => d.modDma c n fun x => x.begin' x.cur
  else s.dmaFalse c n

/-- ABANDON (R221, R347): ends a halted chain, STATUS unchanged; the holds its descriptors keep are lost. -/
def State.dmaGoAbandon (s : State) (c : CoreIx) (n : Nat) : State :=
  if ((s.dev.core c).chan n).phase = .halted then
    s.onDev fun d => (d.modDma c n fun x => x.finish).loseHolds s.now fun a => a == .dma c n
  else s.dmaFalse c n

/-- The instruction that wrote DMA_GO retires. -/
def State.retire (s : State) (c : CoreIx) (len : Nat := 4) : State := s.onDev fun d => d.modCore c fun k => k.retire len

/-- DMA_START (R221). -/
def execDmaStart (c : CoreIx) (n : Fin 4) (chain : Nat) (s : State) : Ans :=
  .next (s.issue c 4 fun s => (s.dmaGoStart c n.val chain).retire c)

/-- DMA_RESUME (R221). -/
def execDmaResume (c : CoreIx) (n : Fin 4) (s : State) : Ans := .next (s.issue c 4 fun s => (s.dmaGoResume c n.val).retire c)

/-- DMA_ABANDON (R221). -/
def execDmaAbandon (c : CoreIx) (n : Fin 4) (s : State) : Ans := .next (s.issue c 4 fun s => (s.dmaGoAbandon c n.val).retire c)

/-- The checks of a descriptor in the order of R219: the status of the first that fails. The first two are made before. -/
def Dev.dmaCheck (d : Dev) (c : CoreIx) (l : List Word) : Option Nat :=
  if dmaBadMode l then some 1
  else if dmaMisaligned l then some 6
  else d.dmaFarStop ((d.core c).asid.getD 0) l

/-- The descriptor starts: it joins SIG_H for its core (R268); with LEN = 0 a COPY, FILL or ADD has nothing to move. -/
def State.dmaBegins (s : State) (c : CoreIx) (n : Nat) (l : List Word) : State :=
  let s := match dmaSig l with
    | some h => match s.hurdleHome h with
      | .bank => s.onDev fun d => d.join h.val (.dma c n)
      | _ => s
    | none => s
  s.onDev fun d => d.modDma c n fun x =>
    { x with phase := .running, desc := l, moved := !dmaIsTr l && dmaLen l == 0, asked := [], got := [] }

/-- DMA_DESCRIPTOR_BEGIN (R219, R268): the next descriptor is read and checked; one with SIG_V = 1 waits while all 16 hold
entries of its core are in use, and any waits until no request of an earlier attempt is outstanding. -/
def execDmaDescriptorBegin (c : CoreIx) (n : Fin 4) (s : State) : Ans :=
  .next (
    let x := (s.dev.core c).chan n.val
    if !s.coreUp c || x.phase != .begin || s.dev.chanRemotes c n.val then s
    else if (s.dev.core c).scratch < 64 * x.cur + 64 then s.dmaHalt c n.val 6
    else
      let r := s.dev.sramRead s.now c (64 * x.cur) 64 .none
      let l := natWords 8 (ofLe r.1.bytes)
      let full := match dmaSig l with
        | some h => !s.dev.coreHas c h.val && decide (16 ≤ s.dev.coreHolds c)
        | none => false
      if r.1.bad ≠ [] then (s.onDev fun _ => r.2).dmaHalt c n.val 2
      else match s.dev.dmaCheck c l with
        | some st => (s.onDev fun _ => r.2).dmaHalt c n.val st
        | none => if full then s else (s.onDev fun _ => r.2).dmaBegins c n.val l)

/-- A transfer of the channel's descriptor, when it has this mode and has not been made. -/
def State.dmaMove (s : State) (c : CoreIx) (n mode : Nat) : State :=
  let x := (s.dev.core c).chan n
  s.when (s.coreUp c && !s.dev.coreClosed c && x.phase == .running && !x.moved && dmaMode x.desc == mode) (s.dmaTransfer c n)

/-- DMA_COPY (R172). -/
def execDmaCopy (c : CoreIx) (n : Fin 4) (s : State) : Ans := .next (s.dmaMove c n.val 0)

/-- DMA_TR8 (R173). -/
def execDmaTr8 (c : CoreIx) (n : Fin 4) (s : State) : Ans := .next (s.dmaMove c n.val 1)

/-- DMA_TR16 (R173). -/
def execDmaTr16 (c : CoreIx) (n : Fin 4) (s : State) : Ans := .next (s.dmaMove c n.val 2)

/-- DMA_TR32 (R173). -/
def execDmaTr32 (c : CoreIx) (n : Fin 4) (s : State) : Ans := .next (s.dmaMove c n.val 3)

/-- DMA_FILL (R174). -/
def execDmaFill (c : CoreIx) (n : Fin 4) (s : State) : Ans := .next (s.dmaMove c n.val 4)

/-- DMA_ADD (R175). -/
def execDmaAdd (c : CoreIx) (n : Fin 4) (s : State) : Ans := .next (s.dmaMove c n.val 5)

/-- The argument of an arrival made by hardware, whose value the manual does not give: an amount of 0 or 1 acts as 1 (R263),
the flag of a flag Hurdle is a free value. -/
def State.hwArrive (s : State) (c : CoreIx) (h : HurdleIx) : State :=
  let arg := s.dev.free.toNat % 2
  (s.onDev fun d => d.spend).arrive (some (corePart c)) h arg

/-- DMA_DESCRIPTOR_COMPLETE (R219, R267): once its transfer is made and every remote write of it is acknowledged, DONE
advances, SIG_H is arrived at, and the chain goes on with the next descriptor or ends at LAST. -/
def execDmaDescriptorComplete (c : CoreIx) (n : Fin 4) (s : State) : Ans :=
  .next (
    let x := (s.dev.core c).chan n.val
    s.when (s.coreUp c && x.phase == .running && x.moved && !s.dev.chanRemotes c n.val) (
      let s := s.onDev fun d =>
        let d := d.modDma c n.val fun x =>
          let x := { x with done := (x.done + 1) % 65536 }
          if dmaLast x.desc then x.finish else x.begin' (x.cur + 1)
        if dmaLast x.desc then d.keepHolds c fun a => a == .dma c n.val else d
      match dmaSig x.desc with
      | some h => s.hwArrive c h
      | none => s))

end Sys2Proof.Machine
end

