-- ==== Sys2Proof/Machine/Walks.lean ====
section
/-! DEFINITION. Translation misses, table walks, demand faults and invalidations (R187 … R193, R196). -/

namespace Sys2Proof.Machine

/-- The core of a requester. -/
def reqCore : Requester → CoreIx
  | .core c => c
  | .dma c _ => c

/-- The page-fault code of an access (R130, R190). -/
def pageFaultCode : Access → Word
  | .fetch => 12
  | .load => 13
  | .store => 15

/-- A pager's state. -/
def Dev.pager (d : Dev) (p : PartIx) : Pager := d.pagers.get {} p.val

/-- Change it. -/
def Dev.modPager (d : Dev) (p : PartIx) (f : Pager → Pager) : Dev := { d with pagers := d.pagers.modify {} p.val f }

/-- Whether a requester already walks or waits for a page. -/
def Dev.walking (d : Dev) (r : Requester) : Bool :=
  d.walks.any (fun w => w.who == r) || d.pagers.any fun e => e.2.demands.any fun x => x.who == r

/-- Whether a requester needs this translation: a core stalled on it; a DMA channel whose descriptor names the page. -/
def State.needs (s : State) (r : Requester) (va : Nat) (acc : Access) : Bool :=
  let k := s.dev.core (reqCore r)
  s.coreUp (reqCore r) && match r with
    | .core _ => k.stall == .xlate va acc
    | .dma _ n =>
      let x := k.chan n
      x.phase == .running && !x.moved && (dmaPages x.desc).contains (va / 2 ^ 21 * 2 ^ 21, acc) && va % 2 ^ 21 == 0

/-- The page fault of a requester (R190): a trap, or a channel's halt with FAULT. -/
def State.xlFault (s : State) (r : Requester) (va : Nat) (acc : Access) : State :=
  match r with
  | .core c => s.trap c (pageFaultCode acc) (BitVec.ofNat 64 va)
  | .dma c n => s.dmaHalt c n 4

/-- A requester's walk is over. -/
def State.endWalk (s : State) (r : Requester) : State :=
  s.onDev fun d => { d with walks := d.walks.filter fun w => w.who != r }

/-- A core that waited for a translation executes its instruction again. -/
def State.wakeXlate (s : State) (r : Requester) : State :=
  match r with
  | .core c => s.onDev fun d => d.modCore c fun k => { k with stall := .none }
  | .dma _ _ => s

/-- A lookup meets a changed word in entry `i` of a cluster's translation cache: it is rewritten corrected, or the entry is gone and
counts as a miss; what changed counts by the local-SRAM rule (R345), with the entry as the word (log entry 137). -/
def State.tlbUpset (s : State) (k : ClusterIx) (i : Nat) (u : Upset) : State :=
  if (s.dev.tlb.get none (256 * k.val + i)).isNone then s
  else s.onDev fun d =>
    let v := codeVerdict wordGran u
    let w := wear (d.cluster k).fix s.now (16 * clusterLines + i) false v
    let d := d.modCluster k fun x => { x with fix := w.1 }
    let d := match v with
      | .bad => d.setTlb k i none
      | _ => d
    if w.2 then d.change s.now (.cluster k) else d

/-- TRANSLATION_MISS (R187, R191): the walker starts at the root of the requester's address space. With RES_ROOT.V = 0 the
page is unmapped and WALK_BAD is recorded with level 3; a core with no task has no address space. -/
def execTranslationMiss (r : Requester) (va : Nat) (look : Lookup) (s : State) : Ans :=
  let acc := look.acc
  .next (s.when (s.needs r va acc && !s.dev.walking r) (
    let s := match look.hurt with
      | some (i, u) => s.tlbUpset (coreCluster (reqCore r)) i.val u
      | none => s
    match (s.dev.core (reqCore r)).asid with
    | none => s.xlFault r va acc
    | some asid =>
      let root := s.dev.reg (.resRoot (Fin.ofNat 16 asid))
      if bit root 63 then
        s.onDev fun d => { d with walks := d.walks ++
          [{ who := r, asid := asid, va := va, acc := acc, level := 2, table := fld root 51 16 * 65536 }] }
      else (s.walkBad va 3 asid (s.dev.clusterId (coreCluster (reqCore r)))).xlFault r va acc))

/-- A walk reaches the page entry (R190, R191): a store where W = 0 faults whatever LOC says; a page in the stack fills the translation cache and sets A; a page in the far
tier waits for its demand fault, a moving one for the move's end; the rest faults. -/
def State.walkEntry (s : State) (w : Walk) (a : Nat) (pte : Word) : State :=
  if w.acc = .store ∧ !bit pte 59 ∧ pteRes pte ≠ .here then (s.endWalk w.who).xlFault w.who w.va w.acc
  else match pteRes pte with
  | .fault => (s.endWalk w.who).xlFault w.who w.va w.acc
  | .moving => s.endWalk w.who
  | .far => s.onDev fun d => { d with walks := d.walks.map fun x => if x.who == w.who then { x with level := 3, table := a } else x }
  | .here =>
    let s := (s.endWalk w.who).pteOr a 57
    let s := s.onDev fun d => d.fillTlb (coreCluster (reqCore w.who))
      { asid := w.asid, vpn := w.va / 2 ^ 21, pteAt := a, pte := setBit pte 57 true }
    s.wakeXlate w.who

/-- TABLE_WALK_RESPONSE (R187, R191): the read of a cluster's oldest walk returns, a latency-critical read at the slices. -/
def execTableWalkResponse (k : ClusterIx) (u : Upset) (s : State) : Ans :=
  .next (match s.dev.walks.find? fun w => coreCluster (reqCore w.who) == k && decide (w.level ≤ 2) with
    | none => s
    | some w =>
      let a := w.table + 8 * vaIndex w.level w.va
      s.gated (.walk w.who) .core (reqCore w.who).val [(a, 8)] [] (crit := true) fun s =>
      let s := if s.tablePlace a then s.applyUpset a u else s
      match s.walkStep w.va w.level w.table with
      | (.bad, s) => ((s.walkBad w.va w.level w.asid (s.dev.clusterId k)).endWalk w.who).xlFault w.who w.va w.acc
      | (.unmapped, s) => (s.endWalk w.who).xlFault w.who w.va w.acc
      | (.next t, s) => s.onDev fun d => { d with walks := d.walks.map fun x =>
          if x.who == w.who then { x with level := w.level - 1, table := t } else x }
      | (.entry at' pte, s) => s.walkEntry w at' pte)

/-- DEMAND_FAULT (R96, R196): the requester stalls or pauses, and the pager of its partition is asked for the page. -/
def execDemandFault (r : Requester) (va : Nat) (acc : Access) (s : State) : Ans :=
  .next (match s.dev.walks.find? fun w => w.who == r && w.va == va && w.acc == acc && w.level == 3 with
    | none => s
    | some w =>
      let s := (s.endWalk r).onDev fun d => d.modPager (corePart (reqCore r)) fun g =>
        { g with demands := g.demands ++ [{ who := r, asid := w.asid, va := va, pteAt := w.table, acc := acc }] }
      match r with
      | .core _ => s
      | .dma c n => s.onDev fun d => d.modDma c n fun x => if x.phase = .running then { x with phase := .paused } else x)

-- invalidation (R192)

/-- Whether a translation is one that RES_INVAL names: EVERY, ALL of an address space, or one page. -/
def invalMatches (v : Word) (asid vpn : Nat) : Bool :=
  bit v 59 || (fld v 55 52 == asid && (bit v 60 || fld v 51 21 == vpn))

/-- Outstanding requests of control processors that used a page. -/
def Dev.reqsOn (d : Dev) (p : Nat → Nat → Bool) : List Nat :=
  d.reqs.filterMap fun e => e.2.bind fun q =>
    match (d.core q.core).asid with
    | some asid => if p asid (q.va / 2 ^ 21) then some e.1 else none
    | none => none

/-- DMA channels with remote requests outstanding in an address space. -/
def Dev.chansOn (d : Dev) (p : Nat → Bool) : List (CoreIx × Nat) :=
  nub (d.remotes.filterMap fun e => e.2.bind fun r => match r.who with
    | .dma c n _ => if (d.core c).asid.any p then some (c, n) else none
    | _ => none)

/-- Start an invalidation: matching translations and the walks for them are removed everywhere; it waits for every access that
used one. -/
def Dev.startInval (d : Dev) (v : Word) : Dev :=
  { (d.dropTlb fun e => invalMatches v e.asid e.vpn) with
    walks := d.walks.filter fun w => !invalMatches v w.asid (w.va / 2 ^ 21)
    inval := some { waits := d.reqsOn (invalMatches v), chans := d.chansOn fun a => bit v 59 || fld v 55 52 == a } }

/-- A write of RES_INVAL (R192): a GO while BUSY is merged into one following invalidation of every address space. -/
def State.invalWrite (s : State) (v : Word) : State :=
  let s := s.onDev fun d => d.modReg .resInval fun w => storeTyped .resInval w v
  if !bit v 63 then s
  else match s.dev.inval with
    | some i => s.onDev fun d => { d with inval := some { i with merged := true } }
    | none => s.onDev fun d => (d.startInval v).modReg .resInval fun w => setBit w 62 true

/-- INVALIDATE (R192). -/
def execInvalidate (o : Origin) (v : Word) (s : State) : Ans := .next (s.regWrite o .resInval fun s => s.invalWrite v)

/-- A request that has not been answered. -/
def Dev.reqOpen (d : Dev) (id : Nat) : Bool :=
  (d.reqs.get none id).any fun q => match q.st with
    | .done _ => false
    | _ => true

/-- INVALIDATE_DONE (R192): every access that used a removed translation has completed. -/
def execInvalidateDone (s : State) : Ans :=
  .next (match s.dev.inval with
    | none => s
    | some i =>
      s.when (!(i.waits.any s.dev.reqOpen) && !(i.chans.any fun e => s.dev.chanRemotes e.1 e.2)) (
        if i.merged then s.onDev fun d => d.startInval (setBit 0 59 true)
        else s.onDev fun d => ({ d with inval := none }).modReg .resInval fun w => setBit w 62 false))

/-- RES_CTL.REFUSED of a partition is set. -/
def Dev.refuseRes (d : Dev) (p : PartIx) : Dev := d.modReg (.resCtl p) fun w => setBit w 4 true

/-- A write of RES_ROOT (R187): refused, with REFUSED in every partition, while a queue of the address space is enabled. -/
def Dev.rootWrite (d : Dev) (a : Fin 16) (v : Word) : Dev :=
  let used := (List.finRange 8).any fun p => (List.finRange 64).any fun q =>
    let w := d.reg (.resQcfg p q)
    bit w 63 && fld w 61 58 == a.val
  if used then (List.finRange 8).foldl Dev.refuseRes d
  else d.modReg (.resRoot a) fun w => storeTyped (.resRoot a) w v

/-- RES_ROOT_WRITE. -/
def execResRootWrite (o : Origin) (a : Fin 16) (v : Word) (s : State) : Ans :=
  .next (s.regWrite o (.resRoot a) fun s => s.onDev fun d => d.rootWrite a v)

end Sys2Proof.Machine
end

