-- ==== Sys2Proof/Machine/Pager.lean ====
section
/-! DEFINITION. The pagers (R194 … R199): the frame pool, page moves, victims, demand faults and hints. -/

namespace Sys2Proof.Machine

/-- BASE of the pool, in frames. -/
def Dev.poolBase (d : Dev) (p : PartIx) : Nat := fld (d.reg (.resPpool p)) 14 0

/-- Frames of the pool in use; none while it is not enabled. -/
def Dev.poolCount (d : Dev) (p : PartIx) : Nat := let w := d.reg (.resPpool p); if bit w 31 then fld w 30 16 else 0

/-- Frames of the pool by number (DRAM offset ÷ 2 MiB), lowest first. -/
def Dev.poolFrames (d : Dev) (p : PartIx) : List Nat := (List.range (d.poolCount p)).map (d.poolBase p + ·)

/-- The lowest free frame of the pool. -/
def Dev.freeFrame (d : Dev) (p : PartIx) : Option Nat := (d.poolFrames p).find? fun j => (d.pager p).frames.get 0 j == 0

/-- Set what maps a frame: the address of its page entry plus one, 0 for none. The frame is a physical address ÷ 2 MiB. -/
def Dev.setFrame (d : Dev) (frame v : Nat) : Dev :=
  d.modPager (Fin.ofNat 8 (frame / 32768)) fun g => { g with frames := g.frames.set 0 (frame % 32768) v }

/-- Page entries of pages in regions that running launches declared (R197). -/
def State.regionPtes (s : State) : List Nat :=
  (List.finRange 576).flatMap fun c =>
    let k := s.dev.core c
    match k.asid with
    | none => []
    | some asid => k.regions.flatMap fun r => (pagesOf (r.base, r.length)).filterMap fun va => (s.pageEntry asid va).map (·.1)

/-- The pager invalidates the translations of one page entry (R195, R197). -/
def Dev.dropPte (d : Dev) (a : Nat) : Dev :=
  { (d.dropTlb fun e => e.pteAt == a) with walks := d.walks.filter fun w => !(w.level == 0 && w.table + 8 * vaIndex 0 w.va == a) }

/-- A page entry as it stands; zero where it cannot be read, so that it counts as unmapped. -/
def State.pte (s : State) (a : Nat) : Word := (s.peekWord a).getD 0

/-- Whether R197 skips a page: pinned, in a declared region, moving. -/
def State.unmovable (s : State) (a : Nat) : Bool :=
  let w := s.pte a
  bit w 58 || fld w 61 60 == 2 || s.regionPtes.contains a

/-- Sweep frames in order for a victim (R197): a page with A = 1 that is not skipped has A cleared and its translations
invalidated; the first with A = 0 is the victim. -/
def State.sweep (s : State) (p : PartIx) : List Nat → Option (Nat × Nat) × State
  | [] => (none, s)
  | j :: r =>
    let m := (s.dev.pager p).frames.get 0 j
    if m = 0 ∨ s.unmovable (m - 1) then s.sweep p r
    else if bit (s.pte (m - 1)) 57 then
      ((s.ptePut (m - 1) (setBit (s.pte (m - 1)) 57 false)).onDev fun d => d.dropPte (m - 1)).sweep p r
    else (some (j, m - 1), s.onDev fun d => d.modPager p fun g => { g with hand := j + 1 })

/-- The order of a sweep: twice round the circle of the pool, starting after the last victim. -/
def Dev.sweepOrder (d : Dev) (p : PartIx) : List Nat :=
  let l := d.poolFrames p
  let a := l.filter (fun j => decide ((d.pager p).hand ≤ j)) ++ l.filter (fun j => decide (j < (d.pager p).hand))
  a ++ a

/-- Step 1 of a move (R195): LOC = 0b10 and the page's translations invalidated. -/
def State.startMove (s : State) (p : PartIx) (m : Move) : State :=
  let s := s.ptePut m.pteAt (setFld m.old 61 60 2)
  s.onDev fun d => (d.dropPte m.pteAt).modPager p fun g => { g with moves := g.moves ++ [m] }

/-- Start bringing a page into a free frame of the pool. -/
def State.moveIn (s : State) (p : PartIx) (why : MoveWhy) (asid va a j : Nat) : State :=
  let frame := 32768 * p.val + j
  (s.startMove p { inward := true, why := why, asid := asid, va := va, pteAt := a, old := s.pte a, frame := frame }).onDev
    fun d => d.setFrame frame (a + 1)

/-- Start writing a page out. -/
def State.moveOut (s : State) (p : PartIx) (why : MoveWhy) (a frame : Nat) : State :=
  s.startMove p { inward := false, why := why, asid := 0, va := 0, pteAt := a, old := s.pte a, frame := frame }

/-- Whether the pager can start another move (R195). -/
def Dev.mayMove (d : Dev) (p : PartIx) : Bool := decide ((d.pager p).moves.length < 2)

/-- Whether a move outward will free a frame of the pool. -/
def Dev.freeing (d : Dev) (p : PartIx) : Bool :=
  d.pagers.any fun e => e.2.moves.any fun m => !m.inward && m.frame / 32768 == p.val

/-- A demand is over: its requester translates again; a DMA channel goes on. -/
def State.endDemand (s : State) (p : PartIx) (x : Demand) : State :=
  let s := s.onDev fun d => d.modPager p fun g => { g with demands := g.demands.filter fun y => y.who != x.who }
  match x.who with
  | .core _ => s
  | .dma c n => s.onDev fun d => d.modDma c n fun y => if y.phase = .paused then { y with phase := .running } else y

/-- PAGE_MOVE_START (R195, R196): the oldest demand fault is served: into a free frame, or a victim is written out first; with
no frame and no victim it fails with NOFRAME. A page that no longer lies in the far tier is translated again. -/
def execPageMoveStart (p : PartIx) (s : State) : Ans :=
  .next (match (s.dev.pager p).demands with
    | [] => s
    | x :: _ =>
      if !s.dev.partUp p || !s.dev.mayMove p then s
      else if pteRes (s.pte x.pteAt) != .far then s.endDemand p x
      else match s.dev.freeFrame p with
        | some j => s.moveIn p .demand x.asid x.va x.pteAt j
        | none =>
          if s.dev.freeing p then s
          else match s.sweep p (s.dev.sweepOrder p) with
            | (some (j, a), s) => s.moveOut p .victim a (32768 * p.val + j)
            | (none, s) =>
              let s := (s.endDemand p x).onDev fun d => d.modReg (.resPstat p) fun w => setBit w 1 true
              s.xlFault x.who x.va x.acc)

-- the copy (R195)

/-- The far-tier pieces of a page: 512 of 4 KiB (R424). -/
def farPieces (f : Nat) : List Nat := (List.range 512).map fun i => f + 4096 * i

/-- The first far-tier piece that cannot be reached. -/
def Dev.farBroken (d : Dev) (f : Nat) : Option Nat := (farPieces f).find? fun g => (d.farKey g).isNone

/-- Bring one line of a page from the far tier, its uncorrectable sectors poisoned (R179). -/
def State.lineIn (s : State) (key f a : Nat) : State :=
  if (s.key a).isNone then s
  else
    let bad := (List.range 4).filter fun j => (s.mem.badAt (key + 32 * j)).isSome
    let s := s.onDev fun d => bad.foldl (fun d j =>
      d.recordUe s.now (.far (f + 32 * j)) sectorGran (f + 32 * j) ((s.mem.badAt (key + 32 * j)).getD false)) d
    let s := (s.remapCheck a).enterAt a true
    let m := Memory.copyRange wordGran s.mem s.mem key a 128
    ({ s with mem := bad.foldl (fun m j => m.poison (s.granAt a) (a + 32 * j) 32) m }).regroupAt a

/-- Write one line of a page to the far tier, through the slice; what cannot be read is written poisoned (R179, log entry 125). -/
def State.lineOut (s : State) (a key : Nat) : State :=
  if (s.key a).isNone then { s with mem := s.mem.poison sectorGran key 128 }
  else
    let g := s.granAt a
    let bad := (List.range (128 / g)).filter fun j => (s.mem.badAt (a + g * j)).isSome
    let s := (s.remapCheck a).onDev fun d => bad.foldl (fun d j =>
      d.recordUe s.now (s.place a) g (a + g * j) ((s.mem.badAt (a + g * j)).getD false)) d
    let m := (Memory.copyRange wordGran s.mem ⟨s.mem.cells, []⟩ a key 128)
    { s with mem := bad.foldl (fun m j => m.poison sectorGran (key + g * j) g) m }

/-- Copy a page between its far-tier home and a frame, line by line. -/
def State.copyPage (s : State) (f frame : Nat) (inward : Bool) : State :=
  (List.range 16384).foldl (fun s i =>
    let a := frame * 2 ^ 21 + 128 * i
    let key := (s.dev.farKey (f + 128 * i)).getD 0
    if inward then s.lineIn key (f + 128 * i) a else s.lineOut a key) s

/-- The lines of a frame. -/
def frameLines (frame : Nat) : List Nat := (List.range 16384).map (frame * 16384 + ·)

/-- Whether requests to a frame are on their way. -/
def Dev.frameBusy (d : Dev) (frame : Nat) : Bool :=
  d.reqs.any fun e => e.2.any fun q => q.addr / 2 ^ 21 == frame && d.reqOpen e.1

/-- The demands that waited for a page entry are over. -/
def State.releaseDemands (s : State) (a : Nat) : State :=
  (List.finRange 8).foldl (fun s p => ((s.dev.pager p).demands.filter fun x => x.pteAt == a).foldl (fun s x => s.endDemand p x) s) s

/-- The end of a move inward: the frame's block is live, the page lies in it (R195). -/
def State.endMoveIn (s : State) (m : Move) : State :=
  let s := s.copyPage (fld m.old 52 32 * 2 ^ 21) m.frame true
  let s := s.onDev fun d => d.setLive (Fin.ofNat 8 (m.frame / 32768)) (m.frame % 32768)
  let w := setBit (setBit (setFld (setFld m.old 61 60 0) 31 1 m.frame) 56 false) 57 (m.why == .demand)
  s.ptePut m.pteAt (if m.why = .hintPin then setBit w 58 true else w)

/-- The end of a move outward: a page with D = 1 has been written to its far-tier home, the frame is free (R195). -/
def State.endMoveOut (s : State) (m : Move) : State :=
  let s := if bit m.old 56 then s.copyPage (fld m.old 52 32 * 2 ^ 21) m.frame false else s
  let s := (frameLines m.frame).foldl State.loseLine s
  (s.ptePut m.pteAt (setBit (setFld m.old 61 60 1) 56 false)).onDev fun d => d.setFrame m.frame 0

/-- PAGE_COPY_DONE (R195): a move of the pager ends, once the requests that used the page have been served and the slices have let
its copy pass, in their PAGER class. A far-tier error
completion leaves the entry as it was before step 1 and records FAR_ERR. -/
def execPageCopyDone (p : PartIx) (i : Fin 2) (farErr : Bool) (s : State) : Ans :=
  .next (match (s.dev.pager p).moves[i.val]? with
    | none => s
    | some m =>
      let run := [(m.frame * 2 ^ 21, 2 ^ 21)]
      if !s.dev.partUp p || s.dev.frameBusy m.frame then s
      else s.gated (.pager m.pteAt) .pager p.val (if m.inward then [] else run) (if m.inward then run else []) fun s =>
        let s := s.onDev fun d => d.modPager p fun g => { g with moves := g.moves.eraseIdx i.val }
        let f := fld m.old 52 32 * 2 ^ 21
        let copies := m.inward || bit m.old 56
        let broken := if copies then (if farErr then some f else s.dev.farBroken f) else none
        let s := match broken with
          | some g =>
            let s := (s.farErr g).ptePut m.pteAt m.old
            if m.inward then s.onDev fun d => d.setFrame m.frame 0 else s
          | none => if m.inward then s.endMoveIn m else s.endMoveOut m
        s.releaseDemands m.pteAt)

-- hints (R198)

/-- OP of a hint: 1 PREFETCH, 2 EVICT, 3 PREFETCH_PIN, 4 UNPIN. -/
def hintOp (h : Nat) : Nat := nbits h 63 60

/-- Pages of a hint. -/
def hintPages (h : Nat) : Nat := nbits h 11 0 + 1

/-- Count skipped pages. -/
def Dev.ignoreHints (d : Dev) (p : PartIx) (n : Nat) : Dev := d.modReg (.resPstat p) fun w => satAdd w 47 32 n

/-- Hints with a reserved OP at the front: every page of theirs is skipped and counted. -/
def Dev.skipReserved (d : Dev) (p : PartIx) : Nat → Dev
  | 0 => d
  | k + 1 => match (d.pager p).hints with
    | (h, n) :: r =>
      if 1 ≤ hintOp h ∧ hintOp h ≤ 4 then d
      else ((d.ignoreHints p (hintPages h - n)).modPager p fun g => { g with hints := r }).skipReserved p k
    | [] => d

/-- The front hint's next page is dealt with; after its last page the hint is done. -/
def Dev.hintStep (d : Dev) (p : PartIx) : Dev :=
  let d := d.modPager p fun g => match g.hints with
    | (h, n) :: r => { g with hints := if n + 1 < hintPages h then (h, n + 1) :: r else r }
    | [] => g
  d.skipReserved p 256

/-- The front hint ends. -/
def Dev.hintEnd (d : Dev) (p : PartIx) : Dev := (d.modPager p fun g => { g with hints := g.hints.tail }).skipReserved p 256

/-- Submit a 16-byte hint (R198, R222): the pager of its PART takes it, or it is dropped and counted in HDROP with 256 waiting. -/
def State.submitHint (s : State) (h : Nat) : State :=
  let p : PartIx := Fin.ofNat 8 (nbits h 50 48)
  if !s.nv.part.enabled p || !s.dev.partUp p then s
  else if 256 ≤ (s.dev.pager p).hints.length then s.onDev fun d => d.modReg (.resPstat p) fun w => satAdd w 63 48 1
  else s.onDev fun d => (d.modPager p fun g => { g with hints := g.hints ++ [(h, 0)] }).skipReserved p 256

/-- Staging of RES_HINT by partition and origin: the first word. -/
def hintKey (p : PartIx) (o : Origin) : Nat := 3 * p.val + (match o with | .fn0 => 0 | .fn1 => 1 | .firmware => 2)

/-- Read the control area of a core for a unit beside it: `n` bytes as a number. -/
def State.controlRead (s : State) (c : CoreIx) (off n : Nat) : Nat × State :=
  let r := s.dev.sramRead s.now c off n .none
  (ofLe r.1.bytes, s.onDev fun _ => r.2)

/-- A store of a core's runtime to the control area that acts on the dispatcher or the pager (R97, R209): machine mode. -/
def State.controlStore (s : State) (c : CoreIx) (off : Nat) (f : State → State) : State :=
  s.issue c 4 fun s =>
    if (s.dev.core c).mach then f s else s.trap c 7 (BitVec.ofNat 64 (windowBase + off))

/-- HINT_SUBMIT (R198, R209): the window write of bytes 8 … 15, or a core's store to HINT. -/
def execHintSubmit (b : Submitter) (p : PartIx) (s : State) : Ans :=
  .next (match b with
    | .window o last => s.regWrite o (.resHint p 1) fun s =>
        s.submitHint ((s.dev.hintStage.get 0 (hintKey p o)).toNat + last.toNat * 2 ^ 64)
    | .core c => s.controlStore c 0x3FF860 fun s =>
        match s.controlRead c 0x3FF850 16 with
        | (h, s) => (s.submitHint h).retire c)

/-- What a hint finds of its next page. -/
structure HintPage where
  asid : Nat
  va   : Nat
  at'  : Nat
  pte  : Word
  deriving DecidableEq, Repr

/-- The page the front hint of an OP deals with next, where the pager may turn to it: no demand fault waits. None of the
hint's page table is in reach, or it is unmanaged: (true, none). -/
def State.hintPage (s : State) (p : PartIx) (op : Nat) : Bool × Option HintPage × State :=
  match (s.dev.pager p).hints with
  | (h, n) :: _ =>
    if hintOp h ≠ op ∨ !s.dev.partUp p ∨ (s.dev.pager p).demands ≠ [] then (false, none, s)
    else
      let va := nbits h 115 64 / 2 ^ 21 * 2 ^ 21 + n * 2 ^ 21
      let asid := nbits h 59 56
      match s.walk asid va (idUnit s.dev.devId p.val 0) with
      | (some (a, w), s) =>
        if bit w 63 && bit w 62 && decide (fld w 61 60 ≠ 3) then (true, some { asid := asid, va := va, at' := a, pte := w }, s)
        else (true, none, s)
      | (none, s) => (true, none, s)
  | [] => (false, none, s)

/-- Deal with the next page of the front hint: `f` where it is mapped and managed, else it is skipped and counted. -/
def State.onHint (s : State) (p : PartIx) (op : Nat) (f : HintPage → State → State) : State :=
  match s.hintPage p op with
  | (false, _, _) => s
  | (true, none, s) => s.onDev fun d => (d.ignoreHints p 1).hintStep p
  | (true, some x, s) => f x s

/-- PREFETCH or PREFETCH_PIN of a page (R198). -/
def State.prefetchPage (s : State) (p : PartIx) (pin : Bool) (x : HintPage) : State :=
  match fld x.pte 61 60 with
  | 0 => (if pin then s.pteOr x.at' 58 else s).onDev fun d => d.hintStep p
  | 1 =>
    if !s.dev.mayMove p then s
    else match s.dev.freeFrame p with
      | some j => (s.moveIn p (if pin then .hintPin else .hint) x.asid x.va x.at' j).onDev fun d => d.hintStep p
      | none =>
        if s.dev.freeing p then s
        else match s.sweep p (s.dev.sweepOrder p) with
          | (some (j, a), s) => s.moveOut p .victim a (32768 * p.val + j)
          | (none, s) => s.onDev fun d => (d.ignoreHints p 1).hintEnd p
  | _ => s

/-- HINT_PREFETCH (R198). -/
def execHintPrefetch (p : PartIx) (s : State) : Ans := .next (s.onHint p 1 fun x s => s.prefetchPage p false x)

/-- HINT_PREFETCH_PIN (R198). -/
def execHintPrefetchPin (p : PartIx) (s : State) : Ans := .next (s.onHint p 3 fun x s => s.prefetchPage p true x)

/-- HINT_EVICT (R197, R198): a page that R197 would skip is skipped and counted; one in the far tier stays there. -/
def execHintEvict (p : PartIx) (s : State) : Ans :=
  .next (s.onHint p 2 fun x s =>
    if fld x.pte 61 60 = 1 then s.onDev fun d => d.hintStep p
    else if s.unmovable x.at' then s.onDev fun d => (d.ignoreHints p 1).hintStep p
    else if !s.dev.mayMove p then s
    else (s.moveOut p .evict x.at' (fld x.pte 31 1)).onDev fun d => d.hintStep p)

/-- HINT_UNPIN (R198): clears PIN and moves nothing; the entry of a moving page is written only by its move (R195), so the
hint waits for that. -/
def execHintUnpin (p : PartIx) (s : State) : Ans :=
  .next (s.onHint p 4 fun x s => if fld x.pte 61 60 = 2 then s else (s.ptePut x.at' (setBit (s.pte x.at') 58 false)).onDev fun d => d.hintStep p)

/-- PAGER_POOL_WRITE (R194): a write that sets EN is refused, EN staying 0, when the pool leaves the enabled DRAM or overlaps an
enabled allocator pool. -/
def Dev.poolBad (d : Dev) (pt : Part) (p : PartIx) (w : Word) : Bool :=
  let b := fld w 14 0
  let n := fld w 30 16
  decide (pt.dramSize / 2 ^ 21 < b + n) ||
    (List.finRange 4).any fun i =>
      let a := d.reg (.resApool p i)
      bit a 63 && !bit a 62 && decide (b < fld a 14 0 + fld a 30 16 ∧ fld a 14 0 < b + n)

/-- A write of RES_PPOOL: the other fields are stored either way. -/
def State.poolWrite (s : State) (p : PartIx) (v : Word) : State :=
  s.onDev fun d =>
    let w := storeTyped (.resPpool p) (d.reg (.resPpool p)) v
    if bit w 31 && d.poolBad s.nv.part p w then
      (d.setReg (.resPpool p) (setBit w 31 false)).modReg (.resPstat p) fun x => setBit x 0 true
    else d.setReg (.resPpool p) w

@[inherit_doc Dev.poolBad]
def execPagerPoolWrite (o : Origin) (p : PartIx) (v : Word) (s : State) : Ans :=
  .next (s.regWrite o (.resPpool p) fun s => s.poolWrite p v)

/-- RES_PSTAT as read (R199): FREE counts the pool's free frames, INFLIGHT the moves. -/
def Dev.pstatWord (d : Dev) (p : PartIx) : Word :=
  setFld (setFld (d.reg (.resPstat p)) 31 16 ((d.poolFrames p).filter fun j => (d.pager p).frames.get 0 j == 0).length) 15 8
    (d.pager p).moves.length

/-- RES_PSTAT_READ (R199). -/
def execResPstatRead (o : Origin) (p : PartIx) (s : State) : Ans := .next (s.readClear o (.resPstat p) (s.dev.pstatWord p))

end Sys2Proof.Machine
end

