-- ==== Sys2Proof/Machine/Alloc.lean ====
section
/-! DEFINITION. The buffer allocator (R200 … R206): pools, the buffer table, placing, holds, sweeps. -/

namespace Sys2Proof.Machine

/-- Partition of a handle (R201). -/
def bufPart (h : Nat) : PartIx := Fin.ofNat 8 (nbits h 18 16)

/-- Address of a handle's table entry. -/
def Dev.bufAt (d : Dev) (h : Nat) : Nat := fld (d.reg (.resBuft (bufPart h))) 51 20 * 2 ^ 20 + 16 * (h % 65536)

/-- RES_CTL.AEN of a partition. -/
def Dev.allocOn (d : Dev) (p : PartIx) : Bool := bit (d.reg (.resCtl p)) 0

/-- A buffer table entry (R202). -/
structure Buf where
  lo : Word
  hi : Word
  deriving DecidableEq, Repr

namespace Buf
/-- STATE: 0 empty, 1 live, 2 dropped, 3 recomputing -/
def state (b : Buf) : Nat := fld b.lo 63 62
/-- TAG: 0 keep, 1 drop-after-forward, 2 recompute -/
def tag (b : Buf) : Nat := fld b.lo 61 60
/-- POOL -/
def pool (b : Buf) : Fin 4 := Fin.ofNat 4 (fld b.lo 59 58)
/-- size in bytes -/
def size (b : Buf) : Nat := 65536 * 2 ^ fld b.lo 57 54
/-- USERS -/
def users (b : Buf) : Nat := fld b.lo 53 42
/-- physical address -/
def addr (b : Buf) : Nat := fld b.lo 35 0 * 65536
/-- RCDESC -/
def rcdesc (b : Buf) : Nat := fld b.hi 51 0
/-- whether the buffer occupies its space: live or recomputing, or still held -/
def placed (b : Buf) : Bool := b.state == 1 || b.state == 3 || b.users != 0
end Buf

/-- A table entry as it stands, for the allocator's own view of its space: none where it cannot be read. -/
def State.bufPeek (s : State) (h : Nat) : Option Buf :=
  match s.peekWord (s.dev.bufAt h), s.peekWord (s.dev.bufAt h + 8) with
  | some lo, some hi => some ⟨lo, hi⟩
  | some lo, none => some ⟨lo, 0⟩
  | _, _ => none

/-- Read a table entry for a task: where it cannot be read its words are free values (the manual gives no outcome). -/
def State.bufRead (s : State) (h : Nat) : Buf × State :=
  match s.bufPeek h with
  | some b => (b, s)
  | none => (⟨Config.free s.dev.freeCtr, Config.free (s.dev.freeCtr + 1)⟩, s.onDev fun d => d.spend 2)

/-- Store the low word of a table entry. -/
def State.bufPut (s : State) (h : Nat) (lo : Word) : State := s.putWord (s.dev.bufAt h) lo

/-- Handles of a partition whose table entries have been written. -/
def State.bufList (s : State) (p : PartIx) : List Nat :=
  let base := fld (s.dev.reg (.resBuft p)) 51 20 * 2 ^ 20
  (nub ((s.mem.slice base 0x100000).map fun c => (c.1 - base) / 16)).map fun e => 65536 * p.val + e

/-- First byte and size of a pool (R200); a pool not in use has none. -/
def Dev.poolExtent (d : Dev) (p : PartIx) (i : Fin 4) : Nat × Nat :=
  let w := d.reg (.resApool p i)
  if bit w 63 then
    (2 ^ 36 * p.val + (if bit w 62 then nearBase else 0) + fld w 14 0 * 2 ^ 21, fld w 30 16 * 2 ^ 21)
  else (0, 0)

/-- Ranges of a pool in use by placed buffers. -/
def State.placedIn (s : State) (p : PartIx) (i : Fin 4) : List (Nat × Nat) :=
  (s.bufList p).filterMap fun h => (s.bufPeek h).bind fun b =>
    if b.placed && b.pool == i then some (b.addr, b.size) else none

/-- Where a buffer is placed (R203): the lowest offset of its pool aligned to its size whose whole range is free. -/
def State.placeBuf (s : State) (h : Nat) (b : Buf) : Option Nat :=
  let (base, n) := s.dev.poolExtent (bufPart h) b.pool
  let used := s.placedIn (bufPart h) b.pool
  ((List.range (n / b.size)).map fun k => base + k * b.size).find? fun a =>
    !(used.any fun u => decide (a < u.1 + u.2 ∧ u.1 < a + b.size))

/-- What naming a buffer comes to (R203 … R205): held; failed with a REASON; to wait for the recompute of this buffer, for
room in the recompute list, or for space. -/
inductive SlotRes where
  | ok | fail (reason : Nat) | recompute | full | space
  deriving DecidableEq, Repr

/-- A table entry's low word with a new state, address and number of users. -/
def Buf.update (b : Buf) (state addr users : Nat) : Word :=
  setFld (setFld (setFld b.lo 63 62 state) 35 0 (addr / 65536)) 53 42 users

/-- A hold is added. -/
def State.addHold (s : State) (h : Nat) (b : Buf) : State := s.bufPut h (b.update b.state b.addr (b.users + 1))

/-- Drops waiting for USERS to reach 0 (R204). -/
def Dev.dispOf (d : Dev) (p : PartIx) : Dispatcher := d.disp.get {} p.val

/-- Change a dispatcher. -/
def Dev.modDisp (d : Dev) (p : PartIx) (f : Dispatcher → Dispatcher) : Dev := { d with disp := d.disp.modify {} p.val f }

/-- A drop that waits for a buffer's last hold is not made any more. -/
def Dev.forgetDrop (d : Dev) (h : Nat) : Dev :=
  d.modDisp (bufPart h) fun x => { x with drops := x.drops.filter (· != h) }

/-- A hold ends (R215): USERS falls by one; a drop that waited for it is made. -/
def State.endHold (s : State) (h : Nat) : State :=
  match s.bufRead h with
  | (b, s) =>
    let u := b.users - 1
    if u = 0 ∧ b.state = 1 ∧ (s.dev.dispOf (bufPart h)).drops.contains h then
      (s.bufPut h (b.update 2 b.addr 0)).onDev fun d => d.forgetDrop h
    else s.bufPut h (b.update b.state b.addr u)

/-- Holds end. -/
def State.endHolds (s : State) (l : List Nat) : State := l.foldl State.endHold s

/-- The last consumer of a buffer has ended in success (R204): live becomes empty, whatever drop was waiting; its space stays
taken while it is held. -/
def State.lastUse (s : State) (h : Nat) : State :=
  match s.bufRead h with
  | (b, s) => if b.state = 1 then (s.bufPut h (b.update 0 b.addr b.users)).onDev fun d => d.forgetDrop h else s

/-- The forward-end sweep of a partition (R204). -/
def State.fwdSweep (s : State) (p : PartIx) : State :=
  (s.bufList p).foldl (fun s h => match s.bufPeek h with
    | none => s
    | some b =>
      if b.state = 1 ∧ (b.tag = 1 ∨ b.tag = 2) then
        if b.users = 0 then s.bufPut h (b.update 2 b.addr 0)
        else s.onDev fun d => d.modDisp p fun x => if x.drops.contains h then x else { x with drops := x.drops ++ [h] }
      else s) s

/-- The step-end sweep of a partition (R204). -/
def State.stepSweep (s : State) (p : PartIx) : State :=
  (s.bufList p).foldl (fun s h => match s.bufPeek h with
    | none => s
    | some b =>
      if b.state = 2 ∨ (b.state = 1 ∧ b.tag ≠ 0 ∧ b.users = 0) then s.bufPut h (b.update 0 b.addr b.users) else s) s

/-- Whether the pools of a partition keep a write that sets AEN from being accepted (R200). -/
def Dev.poolsBad (d : Dev) (pt : Part) (p : PartIx) : Bool :=
  let on := (List.finRange 4).filter fun i => bit (d.reg (.resApool p i)) 63
  let near (i : Fin 4) := bit (d.reg (.resApool p i)) 62
  let base (i : Fin 4) := fld (d.reg (.resApool p i)) 14 0
  let count (i : Fin 4) := fld (d.reg (.resApool p i)) 30 16
  let pool := d.reg (.resPpool p)
  on.any fun i =>
    decide ((if near i then d.nearSize p else pt.dramSize) / 2 ^ 21 < base i + count i) ||
    (on.any fun j => i != j && near i == near j && decide (base i < base j + count j ∧ base j < base i + count i)) ||
    (!near i && bit pool 31 && decide (base i < fld pool 14 0 + fld pool 30 16 ∧ fld pool 14 0 < base i + count i))

/-- A write of RES_CTL (R200, R206): one that sets AEN is refused where the pools are bad; FWD_END and STEP_END run their
sweeps. -/
def State.resCtlWrite (s : State) (p : PartIx) (v : Word) : State :=
  if bit v 0 && !s.dev.allocOn p && s.dev.poolsBad s.nv.part p then s.onDev fun d => d.refuseRes p
  else
    let s := s.onDev fun d => d.modReg (.resCtl p) fun w => storeTyped (.resCtl p) w v
    let s := if bit v 7 then s.fwdSweep p else s
    if bit v 8 then s.stepSweep p else s

/-- ALLOCATOR_ENABLE (R200). -/
def execAllocatorEnable (o : Origin) (p : PartIx) (v : Word) (s : State) : Ans :=
  .next (s.regWrite o (.resCtl p) fun s => s.resCtlWrite p v)

/-- A write of RES_APOOL or RES_BUFT (R200, R201): stored only while AEN is 0. -/
def State.allocCfg (s : State) (r : Reg) (p : PartIx) (v : Word) : State :=
  s.onDev fun d => if d.allocOn p then d.refuseRes p else d.modReg r fun w => storeTyped r w v

/-- ALLOCATOR_CONFIG_WRITE (R200, R201): RES_APOOL of a pool, or RES_BUFT. -/
def execAllocatorConfigWrite (o : Origin) (p : PartIx) (i : Option (Fin 4)) (v : Word) (s : State) : Ans :=
  .next (match i with
    | some i => s.regWrite o (.resApool p i) fun s => s.allocCfg (.resApool p i) p v
    | none => s.regWrite o (.resBuft p) fun s => s.allocCfg (.resBuft p) p v)

/-- FWD_END_SWEEP (R204, R206). -/
def execFwdEndSweep (o : Origin) (p : PartIx) (s : State) : Ans :=
  .next (s.regWrite o (.resCtl p) fun s => s.fwdSweep p)

/-- STEP_END_SWEEP (R204, R206). -/
def execStepEndSweep (o : Origin) (p : PartIx) (s : State) : Ans :=
  .next (s.regWrite o (.resCtl p) fun s => s.stepSweep p)

end Sys2Proof.Machine
end

