-- ==== Sys2Proof/Machine/Flags.lean ====
section
/-! DEFINITION. The arithmetic of the control processor (R92: RV64IMAFDC, by the RISC-V unprivileged specification):
integer results, and floating-point results with the flags NV, DZ, OF, UF and NX of fflags. -/

namespace Sys2Proof.Machine

/-- The low 32 bits, sign-extended. -/
def sext32 (v : Word) : Word := (v.setWidth 32).signExtend 64

/-- The result of OP and OP-IMM (funct3; `alt` is SUB or SRA). -/
def aluOp (f3 : Nat) (alt : Bool) (a b : Word) : Word :=
  match f3 with
  | 0 => if alt then a - b else a + b
  | 1 => a <<< (b.toNat % 64)
  | 2 => if a.slt b then 1 else 0
  | 3 => if a.ult b then 1 else 0
  | 4 => a ^^^ b
  | 5 => if alt then a.sshiftRight (b.toNat % 64) else a >>> (b.toNat % 64)
  | 6 => a ||| b
  | _ => a &&& b

/-- The result of OP-32 and OP-IMM-32: ADDW, SUBW, SLLW, SRLW, SRAW. -/
def aluOpW (f3 : Nat) (alt : Bool) (a b : Word) : Word :=
  let x : Word32 := a.setWidth 32
  let n := b.toNat % 32
  match f3 with
  | 0 => sext32 (if alt then a - b else a + b)
  | 1 => (x <<< n).signExtend 64
  | _ => (if alt then x.sshiftRight n else x >>> n).signExtend 64

/-- Signed and unsigned division of `n`-bit operands: the quotient by zero is −1, the remainder the dividend; the most
negative number by −1 gives itself and 0. -/
def divInt (n : Nat) (signed rem : Bool) (a b : Nat) : Nat :=
  if signed then
    let x := sint n a
    let y := sint n b
    if y = 0 then (if rem then unint n x else 2 ^ n - 1) else unint n (if rem then x.tmod y else x.tdiv y)
  else if b = 0 then (if rem then a else 2 ^ n - 1)
  else if rem then a % b else a / b

/-- The M extension on 64 bits, by funct3. -/
def mulOp (f3 : Nat) (a b : Word) : Word :=
  match f3 with
  | 0 => a * b
  | 1 => BitVec.ofInt 64 ((a.toInt * b.toInt) / 2 ^ 64)
  | 2 => BitVec.ofInt 64 ((a.toInt * (b.toNat : Int)) / 2 ^ 64)
  | 3 => BitVec.ofNat 64 (a.toNat * b.toNat / 2 ^ 64)
  | 4 => BitVec.ofNat 64 (divInt 64 true false a.toNat b.toNat)
  | 5 => BitVec.ofNat 64 (divInt 64 false false a.toNat b.toNat)
  | 6 => BitVec.ofNat 64 (divInt 64 true true a.toNat b.toNat)
  | _ => BitVec.ofNat 64 (divInt 64 false true a.toNat b.toNat)

/-- MULW, DIVW, DIVUW, REMW, REMUW, by funct3. -/
def mulOpW (f3 : Nat) (a b : Word) : Word :=
  let x := a.toNat % 2 ^ 32
  let y := b.toNat % 2 ^ 32
  let r := match f3 with
    | 0 => x * y
    | 4 => divInt 32 true false x y
    | 5 => divInt 32 false false x y
    | 6 => divInt 32 true true x y
    | _ => divInt 32 false true x y
  sext32 (BitVec.ofNat 64 r)

/-- The branch comparison of funct3. -/
def branchTaken (f3 : Nat) (a b : Word) : Bool :=
  match f3 with
  | 0 => a == b
  | 1 => a != b
  | 4 => a.slt b
  | 5 => !a.slt b
  | 6 => a.ult b
  | _ => !a.ult b

-- floating point

/-- Flag bits of fflags. -/
def ffNV : Nat := 16
@[inherit_doc ffNV]
def ffDZ : Nat := 8
@[inherit_doc ffNV]
def ffOF : Nat := 4
@[inherit_doc ffNV]
def ffUF : Nat := 2
@[inherit_doc ffNV]
def ffNX : Nat := 1

/-- A floating-point result: bits of its format and flags raised. -/
abbrev FRes := Nat × Nat

/-- The rounding mode of a code. -/
def rndOf : Nat → Rnd
  | 0 => .ne | 1 => .tz | 2 => .dn | 3 => .up | _ => .mm

/-- Whether a NaN is signaling. -/
def Fmt.isSnan (f : Fmt) (n : Nat) : Bool := (f.decode n).isNan && !n.testBit (f.mb - 1)

/-- A NaN result; invalid when a given operand is signaling. -/
def Fmt.nanRes (f : Fmt) (l : List Nat) : FRes := (f.nanBits, if l.any f.isSnan then ffNV else 0)

/-- An invalid operation. -/
def Fmt.invalid (f : Fmt) : FRes := (f.nanBits, ffNV)

/-- Round ±m × 2^e with the flags of IEEE 754: overflow goes to infinity or the largest finite value by the rounding
direction, tininess is detected after rounding. -/
def Fmt.roundF (f : Fmt) (rm : Rnd) (neg : Bool) (m : Nat) (e : Int) : FRes :=
  let r := f.round rm neg m e
  if r.ovf then
    let toInf := match rm with
      | .tz => false
      | .dn => neg
      | .up => !neg
      | _ => true
    (if toInf then f.infBits neg else r.bits, ffOF + ffNX)
  else (r.bits, if r.inexact then (if r.tiny then ffUF + ffNX else ffNX) else 0)

/-- Round an exact sum; an exact zero takes the sign its operands share, else + (− when rounding down). -/
def Fmt.roundSum (f : Fmt) (rm : Rnd) (a b : Bool) (d : Dy) : FRes :=
  if d.z = 0 then (f.sign (if a = b then a else rm = .dn), 0)
  else f.roundF rm (decide (d.z < 0)) d.z.natAbs d.e

/-- FADD on decoded operands; `l` are the operands' bits. -/
def Fmt.addVal (f : Fmt) (rm : Rnd) (l : List Nat) (a b : FVal) : FRes :=
  match a, b with
  | .nan, _ => f.nanRes l
  | _, .nan => f.nanRes l
  | .inf x, .inf y => if x = y then (f.infBits x, 0) else f.invalid
  | .inf x, _ => (f.infBits x, 0)
  | _, .inf y => (f.infBits y, 0)
  | x, y => f.roundSum rm x.sign y.sign (x.dy.add y.dy)

/-- FADD and FSUB. -/
def Fmt.addF (f : Fmt) (rm : Rnd) (sub : Bool) (a b : Nat) : FRes :=
  f.addVal rm [a, b] (f.decode a) (let y := f.decode b; if sub then y.negate else y)

/-- FMUL. -/
def Fmt.mulF (f : Fmt) (rm : Rnd) (a b : Nat) : FRes :=
  match f.decode a, f.decode b with
  | .nan, _ => f.nanRes [a, b]
  | _, .nan => f.nanRes [a, b]
  | x, y =>
    let neg := x.sign != y.sign
    if x.isInf || y.isInf then (if x.isZero || y.isZero then f.invalid else (f.infBits neg, 0))
    else f.roundF rm neg (x.dy.z.natAbs * y.dy.z.natAbs) (x.dy.e + y.dy.e)

/-- FDIV. -/
def Fmt.divF (f : Fmt) (rm : Rnd) (a b : Nat) : FRes :=
  match f.decode a, f.decode b with
  | .nan, _ => f.nanRes [a, b]
  | _, .nan => f.nanRes [a, b]
  | .inf _, .inf _ => f.invalid
  | .inf x, y => (f.infBits (x != y.sign), 0)
  | x, .inf y => (f.sign (x.sign != y), 0)
  | .fin s m e, .fin t n k =>
    let neg := s != t
    if n = 0 then (if m = 0 then f.invalid else (f.infBits neg, ffDZ))
    else
      let q := m * 2 ^ 128
      f.roundF rm neg (2 * (q / n) + (if q % n = 0 then 0 else 1)) (e - k - 129)

/-- FSQRT. -/
def Fmt.sqrtF (f : Fmt) (rm : Rnd) (a : Nat) : FRes :=
  match f.decode a with
  | .nan => f.nanRes [a]
  | .inf n => if n then f.invalid else (f.infBits false, 0)
  | .fin neg m e =>
    if m = 0 then (f.sign neg, 0)
    else if neg then f.invalid
    else let r := sqrtDy m e; f.roundF rm false r.z.natAbs r.e

/-- The fused multiply-adds: ±(a × b) ± c, rounded once. -/
def Fmt.fmaF (f : Fmt) (rm : Rnd) (negP negC : Bool) (a b c : Nat) : FRes :=
  let x := f.decode a
  let y := f.decode b
  let z := let z := f.decode c; if negC then z.negate else z
  if (x.isInf && y.isZero) || (x.isZero && y.isInf) then f.invalid
  else if x.isNan || y.isNan then f.nanRes [a, b, c]
  else
    let neg := (x.sign != y.sign) != negP
    if x.isInf || y.isInf then f.addVal rm [a, b, c] (.inf neg) z
    else f.addVal rm [a, b, c] (.fin neg (x.dy.z.natAbs * y.dy.z.natAbs) (x.dy.e + y.dy.e)) z

/-- FMIN and FMAX: −0 is below +0, one NaN gives the other operand. -/
def Fmt.minMaxF (f : Fmt) (maxi : Bool) (a b : Nat) : FRes :=
  let fl := if f.isSnan a || f.isSnan b then ffNV else 0
  let x := f.decode a
  let y := f.decode b
  (if x.isNan && y.isNan then f.nanBits else if x.isNan then b else if y.isNan then a
    else if x.below y != maxi then a else b, fl)

/-- Whether two values are equal. -/
def FVal.same (x y : FVal) : Bool :=
  match x, y with
  | .inf a, .inf b => a == b
  | .fin _ _ _, .fin _ _ _ => (x.dy.add y.dy.neg).z == 0
  | _, _ => false

/-- FLE, FLT and FEQ by funct3 0, 1 and 2: FEQ is quiet. -/
def Fmt.cmpF (f : Fmt) (f3 a b : Nat) : FRes :=
  let x := f.decode a
  let y := f.decode b
  if x.isNan || y.isNan then
    (0, if f3 = 2 then (if f.isSnan a || f.isSnan b then ffNV else 0) else ffNV)
  else
    let eq := x.same y
    let r := match f3 with
      | 0 => eq || x.below y
      | 1 => !eq && x.below y
      | _ => eq
    (r.toNat, 0)

/-- FCLASS. -/
def Fmt.classF (f : Fmt) (a : Nat) : Nat :=
  match f.decode a with
  | .nan => if f.isSnan a then 2 ^ 8 else 2 ^ 9
  | .inf n => if n then 1 else 2 ^ 7
  | .fin neg m _ =>
    if m = 0 then (if neg then 2 ^ 3 else 2 ^ 4)
    else if (a >>> f.mb) % 2 ^ f.eb = 0 then (if neg then 2 ^ 2 else 2 ^ 5)
    else (if neg then 2 ^ 1 else 2 ^ 6)

/-- Conversion to an `n`-bit integer: out of range and NaN saturate and are invalid. -/
def Fmt.toIntF (f : Fmt) (rm : Rnd) (n : Nat) (signed : Bool) (a : Nat) : FRes :=
  let lo : Int := if signed then -(2 ^ (n - 1)) else 0
  let hi : Int := if signed then 2 ^ (n - 1) - 1 else 2 ^ n - 1
  match f.decode a with
  | .nan => (unint n hi, ffNV)
  | .inf neg => (unint n (if neg then lo else hi), ffNV)
  | .fin neg m e =>
    let k := if 0 ≤ e then m * 2 ^ e.toNat else roundShift rm neg m (-e).toNat
    let exact := decide (0 ≤ e) || m % 2 ^ (-e).toNat == 0
    let v : Int := if neg then -(k : Int) else k
    if v < lo then (unint n lo, ffNV) else if hi < v then (unint n hi, ffNV)
    else (unint n v, if exact then 0 else ffNX)

/-- Conversion from an integer. -/
def Fmt.ofIntF (f : Fmt) (rm : Rnd) (v : Int) : FRes := f.roundF rm (decide (v < 0)) v.natAbs 0

/-- Conversion between formats. -/
def Fmt.convF (f g : Fmt) (rm : Rnd) (a : Nat) : FRes :=
  match f.decode a with
  | .nan => (g.nanBits, if f.isSnan a then ffNV else 0)
  | .inf n => (g.infBits n, 0)
  | .fin n m e => g.roundF rm n m e

/-- An f register's value in a format: a binary32 not NaN-boxed reads as the canonical NaN. -/
def unbox (dbl : Bool) (w : Word) : Nat :=
  if dbl then w.toNat else if fld w 63 32 = 0xFFFFFFFF then fld w 31 0 else Fmt.fp32.nanBits

/-- A result for an f register: a binary32 is NaN-boxed. -/
def box (dbl : Bool) (n : Nat) : Word := if dbl then BitVec.ofNat 64 n else BitVec.ofNat 64 (n % 2 ^ 32 + 0xFFFFFFFF00000000)

end Sys2Proof.Machine
end

