-- ==== Sys2Proof/Machine/Optim.lean ====
section
/-! DEFINITION. The arithmetic of the Anchor (R240 … R250): FP32 operations of its lanes, the moment encodings, the
rules element by element, and the matrix engine with the programs of NS and KF. -/

namespace Sys2Proof.Machine

-- FP32 lanes (R234): every operation rounds once to nearest even; operands may be any decoded value

/-- A value of FP32 from its bits. -/
def f32 (n : Nat) : FVal := Fmt.fp32.decode n

/-- Sum. -/
def fAdd (a b : FVal) : FVal := f32 (Fmt.fp32.addVal .ne [] a b).1

/-- Difference. -/
def fSub (a b : FVal) : FVal := fAdd a b.negate

/-- Product. -/
def fMul (a b : FVal) : FVal :=
  match a, b with
  | .nan, _ => .nan
  | _, .nan => .nan
  | .fin s m e, .fin t n k => f32 (Fmt.fp32.roundF .ne (s != t) (m * n) (e + k)).1
  | x, y => if x.isZero || y.isZero then .nan else .inf (x.sign != y.sign)

/-- Quotient. -/
def fDiv (a b : FVal) : FVal :=
  match a, b with
  | .nan, _ => .nan
  | _, .nan => .nan
  | .inf _, .inf _ => .nan
  | .inf x, y => .inf (x != y.sign)
  | x, .inf y => .fin (x.sign != y) 0 0
  | .fin s m e, .fin t n k =>
    if n = 0 then (if m = 0 then .nan else .inf (s != t))
    else
      let sh := 128 + Nat.log2 n
      let q := m * 2 ^ sh
      f32 (Fmt.fp32.roundF .ne (s != t) (2 * (q / n) + (if q % n = 0 then 0 else 1)) (e - k - sh - 1)).1

/-- Square root of an FP32 value. -/
def fSqrt (a : FVal) : FVal := f32 (Fmt.fp32.sqrtF .ne (fp32Of a)).1

/-- A power with a whole exponent, as one operation: the exact power rounded once (DEDUCED, log entry 40). -/
def fPow (a : FVal) (t : Nat) : FVal :=
  match a with
  | .fin s m e => f32 (Fmt.fp32.roundF .ne (s && t % 2 == 1) (m ^ t) (e * t)).1
  | .inf s => if t = 0 then f32 0x3F800000 else .inf (s && t % 2 == 1)
  | .nan => if t = 0 then f32 0x3F800000 else .nan

/-- 1.0 -/
def fOne : FVal := .fin false 1 0
/-- +0 -/
def fZero : FVal := .fin false 0 0

-- clamping (R250)

/-- The value written in place of a NaN or an infinity, and whether it replaces one. -/
def clampVal : FVal → FVal × Bool
  | .nan => (f32 Fmt.fp32.maxMag, true)
  | .inf s => (f32 (Fmt.fp32.maxBits s), true)
  | x => (x, false)

-- moments (R246, R247)

/-- First-moment element: E4M3 element × 2^(scale − 127), a scale of 255 being NaN. -/
def decM (scale el : Nat) : FVal :=
  if scale = 255 then .nan
  else match Fmt.e4m3.decode el with
    | .fin s m e => .fin s m (e + scale - 127)
    | x => x

/-- floor(2^(448 + j/8)), by three square roots. -/
def eighthRoot (j : Nat) : Nat := isqrt 450 (isqrt 898 (isqrt 1796 (2 ^ (3584 + j)) 0) 0) 0

/-- Second-moment code: 0, or 2^(scale − 127) × 2^((c − 255) ÷ 8); an irrational value is kept with 448 fraction bits
and a sticky bit below them, enough for every rounding made of it. -/
def decV (scale c : Nat) : FVal :=
  if c = 0 then fZero
  else if scale = 255 then .nan
  else
    let k : Int := (c : Int) - 255
    let q := k / 8
    let j := (k % 8).toNat
    if j = 0 then .fin false 1 (scale - 127 + q) else .fin false (2 * eighthRoot j + 1) (scale - 127 + q - 449)

/-- floor(16 log2 v) of a positive value. -/
def log16 (m : Nat) (e : Int) : Int := log2N (m ^ 16) + 16 * e

/-- ceil(log2 v) of a positive value. -/
def ceilLog2 (m : Nat) (e : Int) : Int := (if m = 2 ^ Nat.log2 m then log2N m else log2N m + 1) + e

/-- The code of a positive value against block exponent X (R247). -/
def codeV (x : Int) (m : Nat) (e : Int) : Nat := (clampI 0 255 (255 + ((log16 m e + 1) / 2 - 8 * x))).toNat

/-- Whether a value is below zero. -/
def FVal.negative : FVal → Bool
  | .fin s m _ => s && m != 0
  | .inf s => s
  | .nan => false

/-- A block of second moments, all finite: scale, codes, whether the scale was clamped. Free bytes stand where R247 gives no
value: the code of a negative value, the scale of a block whose X is below −127, and both where every value is negative
(log entry 41). -/
def encV (fr : Nat → Byte) (vs : List FVal) : Nat × List Nat × Bool :=
  let pos := vs.filter fun x => !x.isZero && !x.negative
  let xs := pos.map fun x => match x with
    | .fin _ m e => ceilLog2 m e
    | _ => 0
  match xs with
  | [] =>
    if vs.all FVal.negative && vs != [] then ((fr 32).toNat, (List.range vs.length).map fun i => (fr i).toNat, false)
    else (0, vs.map fun _ => 0, false)
  | t :: r =>
    let top := r.foldl max t
    let ovf := decide (254 < top + 127)
    let x := if ovf then 127 else top
    let codes := (vs.zip (List.range vs.length)).map fun e => match e.1 with
      | .fin s m k => if m = 0 then 0 else if s then (fr e.2).toNat else codeV x m k
      | _ => 0
    (if x + 127 < 0 then (fr 32).toNat else (x + 127).toNat, codes, ovf)

-- rules element by element (R240, R241)

/-- Words of a hyperparameter set by name. -/
structure Hyper where
  w : List Word
  deriving DecidableEq, Repr

namespace Hyper
/-- Word `i` as an FP32 value. -/
def v (h : Hyper) (i : Nat) : FVal := f32 (fld (h.w.getD i 0) 31 0)
/-- Word `i` as an integer. -/
def n (h : Hyper) (i : Nat) : Nat := fld (h.w.getD i 0) 31 0
end Hyper

/-- FOLD of one element: m′ and v′. -/
def foldElem (kind : Nat) (h : Hyper) (g w m v : FVal) : FVal × FVal :=
  if kind = 1 ∨ kind = 2 then
    let g2 := if kind = 1 then fAdd g (fMul (h.v 4) w) else g
    (fAdd (fMul (h.v 1) m) (fMul (fSub fOne (h.v 1)) g2),
      fAdd (fMul (h.v 2) v) (fMul (fSub fOne (h.v 2)) (fMul g2 g2)))
  else (fAdd (fMul (h.v 1) m) g, fZero)

/-- Apply of one element: w′ (R240, R241); `d` is the element of DIR. Operations are made as the rule is written, from
left to right (DEDUCED, log entry 40). -/
def applyElem (kind : Nat) (h : Hyper) (t : Nat) (w m v d : FVal) : FVal :=
  let lr := h.v 0
  let wd := h.v 4
  if kind = 0 then fSub w (fMul lr (fAdd m (fMul wd w)))
  else if kind = 1 ∨ kind = 2 then
    let mh := fDiv m (fSub fOne (fPow (h.v 1) t))
    let vh := fDiv v (fSub fOne (fPow (h.v 2) t))
    let den := fAdd (fSqrt vh) (h.v 3)
    if kind = 1 then fSub w (fDiv (fMul lr mh) den)
    else fSub w (fMul lr (fAdd (fDiv mh den) (fMul wd w)))
  else fSub w (fMul lr (fAdd d (fMul wd w)))

-- the matrix engine (R244)

/-- A value rounded to BF16. -/
def bf16Of : FVal → Nat
  | .nan => Fmt.bf16.nanBits
  | .inf s => Fmt.bf16.infBits s
  | .fin s m e => (Fmt.bf16.roundF .ne s m e).1

/-- A value as BF16 holds it. -/
def toBf (x : FVal) : FVal := Fmt.bf16.decode (bf16Of x)

/-- At most 64 products added exactly to an FP32 accumulator, rounded once. -/
def macRun (acc : FVal) (l : List (FVal × FVal)) : FVal :=
  let bad := acc.isNan || l.any fun p => p.1.isNan || p.2.isNan || (p.1.isInf && p.2.isZero) || (p.1.isZero && p.2.isInf)
  let infs := (if acc.isInf then [acc.sign] else []) ++
    (l.filter fun p => p.1.isInf || p.2.isInf).map fun p => p.1.sign != p.2.sign
  if bad || (infs.contains true && infs.contains false) then .nan
  else match infs with
    | s :: _ => .inf s
    | [] =>
      let d := l.foldl (fun d p => d.add (p.1.dy.mul p.2.dy)) acc.dy
      f32 (Fmt.fp32.roundF .ne (decide (d.z < 0)) d.z.natAbs d.e).1

/-- An inner product, rounded after every 64 values; `k` bounds the number of runs. -/
def dotRun : Nat → FVal → List (FVal × FVal) → FVal
  | 0, acc, _ => acc
  | k + 1, acc, l => if l.isEmpty then acc else dotRun k (macRun acc (l.take 64)) (l.drop 64)

/-- A matrix by rows. -/
abbrev Mat := List (List FVal)

/-- Transpose, with `c` columns. -/
def Mat.trans (c : Nat) (a : Mat) : Mat := (List.range c).map fun j => a.map fun r => r.getD j fZero

/-- The product of `a` and the transpose of `b`. -/
def Mat.mulT (a b : Mat) : Mat := a.map fun x => b.map fun y => dotRun (x.length / 64 + 1) fZero (x.zip y)

/-- The product of `a` and `b`, `c` columns. -/
def Mat.mul (c : Nat) (a b : Mat) : Mat := a.mulT (b.trans c)

/-- Element by element. -/
def Mat.map2 (f : FVal → FVal → FVal) (a b : Mat) : Mat := (a.zip b).map fun p => (p.1.zip p.2).map fun e => f e.1 e.2

/-- Element by element. -/
def Mat.map1 (f : FVal → FVal) (a : Mat) : Mat := a.map fun r => r.map f

/-- Identity times a value. -/
def Mat.diag (n : Nat) (x : FVal) : Mat :=
  (List.range n).map fun i => (List.range n).map fun j => if i = j then x else fZero

/-- The sum of squares, element after element. -/
def sumSquares (acc : FVal) (l : List FVal) : FVal := l.foldl (fun a x => fAdd a (fMul x x)) acc

/-- NS_ITER rounds of the quintic iteration on an X of `r` rows and `c` columns, r ≤ c (R241). -/
def nsIter (h : Hyper) (r c : Nat) : Nat → Mat → Mat
  | 0, x => x
  | k + 1, x =>
    let a := (x.mulT x).map1 toBf
    let b := (Mat.map2 (fun y z => fAdd (fMul (h.v 7) y) (fMul (h.v 8) z)) a (a.mul r a)).map1 toBf
    nsIter h r c k ((Mat.map2 (fun y z => fAdd (fMul (h.v 6) y) z) x (b.mul c x)).map1 toBf)

/-- The direction D of NS (R241): u, `r` rows and `c` columns, and the sum of squares of u. -/
def nsDir (h : Hyper) (r c : Nat) (u : Mat) (ss : FVal) : Mat :=
  let den := fAdd (fSqrt ss) (h.v 3)
  let x := u.map1 fun e => toBf (fDiv e den)
  let d := if c < r then (nsIter h c r (h.n 9) (x.trans c)).trans r else nsIter h r c (h.n 9) x
  d.map1 fun e => fMul (h.v 5) e

/-- KF_ITER rounds of the coupled Newton iteration (R242). -/
def newtonIter (n : Nat) : Nat → Mat → Mat → Mat
  | 0, y, _ => y
  | k + 1, y, m =>
    let tm := (Mat.map2 (fun a b => fDiv (fSub a b) (f32 0x40800000)) (Mat.diag n (f32 0x40A00000)) m).map1 toBf
    let t2 := (tm.mul n tm).map1 toBf
    let t4 := (t2.mul n t2).map1 toBf
    newtonIter n k ((y.mul n tm).map1 toBf) ((t4.mul n m).map1 toBf)

/-- The inverse fourth root of a statistic (R242), each element as the engine leaves it in BF16. -/
def newtonRoot (h : Hyper) (n : Nat) (p : Mat) : Mat :=
  let a := Mat.map2 fAdd p (Mat.diag n (h.v 11))
  let c := fSqrt (sumSquares fZero a.flatten)
  let c4 := fDiv fOne (fSqrt (fSqrt c))
  newtonIter n (h.n 13) (Mat.diag n (toBf c4)) (a.map1 fun e => toBf (fDiv e c))

/-- A new factor statistic (R242): KF_BETA × P plus the engine's product. -/
def statNew (h : Hyper) (p q : Mat) : Mat := Mat.map2 (fun x y => fAdd (fMul (h.v 10) x) y) p q

/-- The direction D of KF (R242): SCALE × Lr × u × Rr, the scale taken last (DEDUCED, log entry 40). -/
def kfDir (h : Hyper) (c : Nat) (lr u rr : Mat) : Mat :=
  ((((lr.mul c (u.map1 toBf)).map1 toBf).mul c rr)).map1 fun e => fMul (h.v 5) e

end Sys2Proof.Machine
end

