-- ==== Sys2Proof/Machine/Anchor.lean ====
section
/-! DEFINITION. The Anchors (R223 … R261): START and its checks, the Relay's entries, FOLD rule by rule, the vote and
the apply phase, the registers of TRAIN and ANCHp. -/

namespace Sys2Proof.Machine

-- tables (R227, R237)

/-- A rule of the rule table: its index, word 0, the addresses of words 1 … 10. -/
structure Rule where
  idx  : Nat
  w0   : Word
  addr : List Nat
  deriving DecidableEq, Repr

namespace Rule
/-- RULE: 0 SGDM, 1 ADAM, 2 ADAMW, 3 NS, 4 KF -/
def kind (r : Rule) : Nat := fld r.w0 63 60
/-- HPSET -/
def hpset (r : Rule) : Nat := fld r.w0 59 56
/-- ROWS -/
def rows (r : Rule) : Nat := fld r.w0 55 42
/-- COLS -/
def cols (r : Rule) : Nat := fld r.w0 41 28
/-- WFMT -/
def wfmt (r : Rule) : Nat := fld r.w0 27 26
/-- NESTEROV -/
def nest (r : Rule) : Bool := bit r.w0 25
/-- SR -/
def sr (r : Rule) : Bool := bit r.w0 24
/-- NRELAY -/
def nrelay (r : Rule) : Nat := fld r.w0 23 12
/-- Elements of the block. -/
def elems (r : Rule) : Nat := r.rows * r.cols
/-- NS or KF. -/
def matrix (r : Rule) : Bool := r.kind == 3 || r.kind == 4
/-- ADAM or ADAMW. -/
def adam (r : Rule) : Bool := r.kind == 1 || r.kind == 2
/-- The address of word `j`, 1 … 10. -/
def at' (r : Rule) (j : Nat) : Nat := r.addr.getD (j - 1) 0
end Rule

/-- Rules of a partition's table; none with EMPTY = 1 (R236). -/
def Dev.ruleCount (d : Dev) (p : PartIx) : Nat := let w := d.reg (.anchRules p); if bit w 0 then 0 else fld w 63 52 + 1

/-- Rule `i` as its table reads; none where word 0 cannot be read. -/
def State.rule (s : State) (p : PartIx) (i : Nat) : Option Rule :=
  let a := fld (s.dev.reg (.anchRules p)) 51 7 * 128 + 128 * i
  if !s.inPart p a then none
  else (s.peekWord a).map fun w =>
    { idx := i, w0 := w, addr := (List.range 10).map fun j => fld ((s.peekWord (a + 8 * (j + 1))).getD 0) 51 0 }

/-- The rules of a partition, in index order; one that cannot be read is left out. -/
def State.rules (s : State) (p : PartIx) : List Rule := (List.range (s.dev.ruleCount p)).filterMap (s.rule p)

/-- The Relay entries of a partition. -/
def State.relays (s : State) (p : PartIx) : List RelayEntry := (List.range (s.dev.relayCount p)).map (s.relayEntry p)

/-- The hyperparameter set a rule names, as sampled at START. -/
def Anchor.hyper (a : Anchor) (r : Rule) : Hyper := { w := (a.hp.drop (16 * r.hpset)).take 16 }

/-- The hyperparameter sets as they stand. -/
def Dev.hpNow (d : Dev) (p : PartIx) : List Word :=
  ((List.finRange 16).map fun x => (List.finRange 16).map fun w => d.reg (.anchHp p x w)).flatten

-- the checks of START (R239)

/-- Whether a rule's word 0 and the integers of its hyperparameter set are in range. -/
def Rule.fits (r : Rule) (h : Hyper) : Bool :=
  decide (r.kind ≤ 4) && decide (1 ≤ r.rows ∧ r.rows ≤ if r.matrix then 8192 else 16383) &&
  decide (r.cols % 32 = 0 ∧ 32 ≤ r.cols ∧ r.cols ≤ if r.matrix then 8192 else 16352) &&
  (r.kind != 3 || decide (1 ≤ h.n 9 ∧ h.n 9 ≤ 8)) &&
  (r.kind != 4 || decide (1 ≤ h.n 12 ∧ h.n 12 ≤ 65535 ∧ 1 ≤ h.n 13 ∧ h.n 13 ≤ 16))

/-- Whether entries, each at most once, fill 0 … n − 1 without gap or overlap; `k` bounds their number. -/
def tiles (l : List (Nat × Nat)) : Nat → Nat → Nat → Bool
  | 0, pos, n => pos == n
  | k + 1, pos, n => match l.filter fun e => e.1 == pos with
    | [e] => tiles l k (pos + e.2) n
    | [] => pos == n
    | _ => false

/-- Whether the entries of a rule cover its block and are as many as NRELAY says. -/
def Rule.covered (r : Rule) (es : List RelayEntry) : Bool :=
  let l := (es.filter fun e => e.rule == r.idx).map fun e => (e.eoff, e.nelem)
  l.length == r.nrelay && (l.map (·.2)).sum == r.elems && tiles l l.length 0 r.elems

/-- Whether an entry is one R227 allows, for a rule of the table, with its range in the direct share in use. -/
def State.relayFits (s : State) (p : PartIx) (e : RelayEntry) : Bool :=
  decide (e.nelem % 32 = 0 ∧ 32 ≤ e.nelem ∧ e.nelem ≤ 2 ^ 26 ∧ e.eoff % 32 = 0 ∧ 1 ≤ e.expect ∧ e.base % 64 = 0) &&
  decide (e.rule < s.dev.ruleCount p) &&
  decide (p.val * 2 ^ 36 + nearBase ≤ e.base ∧ e.base + 4 * e.nelem ≤ p.val * 2 ^ 36 + nearBase + s.dev.nearSize p)

/-- Whether the ranges of a list of entries are disjoint. -/
def disjoint : List RelayEntry → Bool
  | [] => true
  | e :: r => (r.all fun f => decide (e.base + 4 * e.nelem ≤ f.base ∨ f.base + 4 * f.nelem ≤ e.base)) && disjoint r

/-- Whether START finds consistent tables (R239); an entry that R227 does not allow is inconsistent too (log entry 42). -/
def State.tablesOk (s : State) (p : PartIx) : Bool :=
  let noRules := bit (s.dev.reg (.anchRules p)) 0
  let noRelay := bit (s.dev.reg (.anchRelay p)) 0
  if noRules && noRelay then true
  else if noRules != noRelay then false
  else
    let rs := s.rules p
    let es := s.relays p
    let hp := s.dev.hpNow p
    rs.length == s.dev.ruleCount p && (es.all (s.relayFits p)) && disjoint es &&
      rs.all fun r => r.fits { w := (hp.drop (16 * r.hpset)).take 16 } && r.covered es

-- the registers that show the Anchor

/-- Change ANCH_STAT. -/
def State.anchStat (s : State) (p : PartIx) (f : Word → Word) : State := s.onDev fun d => d.modReg (.anchStat p) f

/-- ANCH_STAT.STATE becomes `n`. -/
def State.anchEnter (s : State) (p : PartIx) (n : Nat) : State := s.anchStat p fun w => setFld w 63 61 n

/-- A write or command is refused. -/
def State.anchRefuse (s : State) (p : PartIx) : State := s.anchStat p fun w => setBit w 55 true

/-- ATTN, with the message of function 0 when it becomes 1 (R259, R419). -/
def State.anchAttn (s : State) (p : PartIx) : State :=
  if bit (s.dev.reg (.anchStat p)) 56 then s else (s.anchStat p fun w => setBit w 56 true).onDev fun d => d.msix 0 2

/-- The Hurdle with a number. -/
def hurdleIx (n : Nat) : HurdleIx := Fin.ofNat 65536 n

/-- Whether an arrival at a Hurdle is refused with PARTICIPANT_LOST or FORCED: it has failed, or its home resets (R270). -/
def State.hurdleGone (s : State) (h : HurdleIx) : Bool :=
  match s.hurdleHome h with
  | .bank => (s.dev.hurdle h.val).state == 3
  | .fused => false
  | .resetting => true

/-- VOTE_H receives the Anchor's flag, NONFIN OR INCOMPLETE (R253). A VOTE_H that has failed receives no arrival, and its
failure is the outcome (R252). -/
def State.castVote (s : State) (p : PartIx) : State :=
  let w := s.dev.reg (.anchStat p)
  let h := hurdleIx (fld (s.dev.reg (.anchCtl p)) 63 48)
  let lost := (s.dev.anchor p).outcome == some none || s.hurdleGone h
  let s := (s.anchEnter p 2).onDev fun d => d.modAnchor p fun a =>
    { a with voted := true, outcome := if lost then some none else none }
  if lost then s else s.arrive (some p) h (bit w 58 || bit w 57).toNat

/-- DONE_H receives the Anchor's arrival when DONE_V = 1. -/
def State.anchDone (s : State) (p : PartIx) : State :=
  let c := s.dev.reg (.anchCtl p)
  if bit c 14 then s.arrive (some p) (hurdleIx (fld c 47 32)) 0 else s

-- START (R228, R260)

/-- The Anchor joins every Hurdle it will arrive at in the step (R268): VOTE_H, DONE_H, the READY_H of its entries. -/
def State.anchJoin (s : State) (p : PartIx) : State :=
  let c := s.dev.reg (.anchCtl p)
  let ready := if bit (s.dev.reg (.anchRelay p)) 0 then [] else (s.relays p).filterMap (·.ready)
  (fld c 63 48 :: (if bit c 14 then [fld c 47 32] else []) ++ ready).foldl (fun s h =>
    match s.hurdleHome (hurdleIx h) with
    | .bank => s.onDev fun d => d.join (hurdleIx h).val (.anchor p)
    | _ => s) s

/-- A START runs (R228, step 1; R239; R253): what the step uses is sampled and the flags of the step before are cleared. -/
def State.anchRun (s : State) (p : PartIx) : State :=
  let s := s.anchStat p fun w => setBit w 59 false
  if !s.tablesOk p then s.anchRefuse p
  else
    let st := s.dev.reg .trainStep
    let ls := sint 8 (fld (s.dev.reg .trainLs) 7 0)
    let empty := bit (s.dev.reg (.anchRules p)) 0
    let s := s.onDev fun d => d.modAnchor p fun a =>
      { step := fld st 31 0, t := fld st 63 32, lsExp := ls, hp := d.hpNow p, armed := !empty, trigs := a.trigs }
    let s := s.anchStat p fun w => setFld (setFld (setFld w 63 61 1) 58 57 0) 15 0 0
    let s := s.anchJoin p
    if empty then s.castVote p else s

/-- A pending START runs when the Anchor stands in IDLE with HOLD = 0. -/
def State.anchPend (s : State) (p : PartIx) : State :=
  let w := s.dev.reg (.anchStat p)
  if fld w 63 61 = 0 ∧ bit w 59 ∧ !bit (s.dev.reg (.anchCtl p)) 13 then s.anchRun p else s

/-- The Anchor returns to IDLE. -/
def State.anchIdle (s : State) (p : PartIx) : State := (s.anchEnter p 0).anchPend p

/-- A START (R260) from a source with SUBJ and WHO. -/
def State.anchTrigger (s : State) (p : PartIx) (subj who : Nat) : State :=
  let c := s.dev.reg (.anchCtl p)
  let w := s.dev.reg (.anchStat p)
  if bit c 12 && fld w 63 61 == 0 && !bit c 13 then s.anchRun p
  else if bit c 12 && !bit w 59 then s.anchStat p fun w => setBit w 59 true
  else (s.anchStat p fun w => satAdd w 47 32 1).onDev fun d => d.falseStart s.now 3 p.val subj who

/-- ANCHOR_START (R260): ANCH_CMD START, or a release of START_H that the Anchor has seen. -/
def execAnchorStart (b : StartBy) (p : PartIx) (s : State) : Ans :=
  .next (match b with
    | .cmd o => s.regWrite o (.anchCmd p) fun s => s.anchTrigger p 0 (idOrigin s.dev.devId o)
    | .release =>
      if (s.dev.anchor p).trigs = 0 then s
      else
        let s := s.onDev fun d => d.modAnchor p fun a => { a with trigs := a.trigs - 1 }
        s.when (s.dev.partUp p) (s.anchTrigger p (fld (s.dev.reg (.anchCtl p)) 31 16) (idHurdle s.dev.devId)))

/-- ANCHOR_ABANDON (R259): LOST or STALE to IDLE. -/
def State.anchAbandon (s : State) (p : PartIx) : State :=
  if s.dev.anchState p = 4 ∨ s.dev.anchState p = 6 then s.anchIdle p else s.anchRefuse p

/-- ANCHOR_ABANDON. -/
def execAnchorAbandon (o : Origin) (p : PartIx) (s : State) : Ans :=
  .next (s.regWrite o (.anchCmd p) fun s => s.anchAbandon p)

-- memory as the Anchor reads and writes it (R234)

/-- Read bytes of the partition; bytes out of the Anchor's reach are free values (log entry 43). -/
def State.anchRead (p : PartIx) (s : State) (a n : Nat) : List Byte × State :=
  (spanPieces a n).foldl (fun (acc : List Byte × State) e =>
    let s := acc.2
    let lost : List Byte × State :=
      (acc.1 ++ (List.range e.2).map (freeByte s.dev.freeCtr), s.onDev fun d => d.spend (ceilDiv e.2 8))
    if s.inPart p e.1 then
      match s.memRead e.1 e.2 with
      | (some r, t) => (acc.1 ++ r.bytes, t)
      | (none, _) => lost
    else lost) ([], s)

/-- Write bytes of the partition; what lies out of reach is not written. -/
def State.anchWrite (p : PartIx) (s : State) (a : Nat) (l : List Byte) : State :=
  (spanPieces a l.length).foldl (fun s e =>
    if s.inPart p e.1 then (s.memWrite e.1 ((l.drop (e.1 - a)).take e.2)).2 else s) s

/-- Little-endian numbers of `w` bytes each. -/
def numsOf (w n : Nat) (l : List Byte) : List Nat := (List.range n).map fun i => ofLe ((l.drop (w * i)).take w)

/-- The bytes of numbers of `w` bytes each. -/
def packLe (w : Nat) (l : List Nat) : List Byte := (l.map (leBytes w)).flatten

/-- The bank that R248 calls committed, or the other one; `j` is the word of bank 0's address in the rule. -/
def Rule.bank (r : Rule) (j : Nat) (b : Bool) : Nat := r.at' (j + b.toNat)

/-- ANCH_STAT.BANK. -/
def Dev.anchBank (d : Dev) (p : PartIx) : Bool := bit (d.reg (.anchStat p)) 60

/-- Count clamped values (R250). -/
def State.countClamps (s : State) (p : PartIx) (rule kind n : Nat) : State :=
  if n = 0 then s
  else
    let s := s.onDev fun d => d.modReg (.anchClamp p) fun w => setFld (setFld (satAdd w 63 32 n) 31 28 kind) 11 0 rule
    (List.range n).foldl (fun s _ => s.record .anchClamp 0 (4096 * kind + rule) (idUnit s.dev.devId p.val 0)) s

/-- Clamp a list of values, counting replacements. -/
def State.clamps (s : State) (p : PartIx) (rule kind : Nat) (l : List FVal) : List FVal × State :=
  let c := l.map clampVal
  (c.map (·.1), s.countClamps p rule kind (c.filter (·.2)).length)

/-- Draw the random addends of `n` elements from ANCH_SEED when SR = 1 (R236). -/
def State.draws (s : State) (p : PartIx) (sr : Bool) (n : Nat) : List Nat × State :=
  let (l, seed) := drawAll sr n (fld (s.dev.reg (.anchSeed p)) 31 0)
  (l, if sr then s.onDev fun d => d.setReg (.anchSeed p) (BitVec.ofNat 64 seed) else s)

/-- VEC_CTL's rounding field for a rule: stochastic with SR = 1. -/
def Rule.ctl (r : Rule) : Word := if r.sr then 2 else 0

/-- The moments of block `j` in a bank. -/
def State.readMoments (p : PartIx) (s : State) (r : Rule) (bank j : Nat) : List FVal × List FVal × State :=
  let n := r.elems
  let (mb, s) := s.anchRead p (bank + 32 * j) 32
  let (sc, s) := s.anchRead p (bank + 2 * n + 2 * j) 2
  let (vb, s) := if r.adam then s.anchRead p (bank + n + 32 * j) 32 else (List.replicate 32 0, s)
  let sm := (sc.getD 0 0).toNat
  let sv := (sc.getD 1 0).toNat
  (mb.map fun b => decM sm b.toNat, if r.adam then vb.map fun b => decV sv b.toNat else List.replicate 32 fZero, s)

/-- Encode block `j` of new moments into a bank (R246 … R248, R250). Matrix rules keep no second moment and leave its bytes
as they are. -/
def State.writeMoments (p : PartIx) (s : State) (r : Rule) (bank j : Nat) (m v : List FVal) : State :=
  let n := r.elems
  let (m, s) := s.clamps p r.idx 1 m
  let (rs, s) := s.draws p r.sr 32
  let b := mxBlock r.ctl 2 rs (m.map fp32Of)
  let s := s.anchWrite p (bank + 32 * j) (packLe 1 b.2.1)
  let s := s.anchWrite p (bank + 2 * n + 2 * j) [BitVec.ofNat 8 b.1]
  if r.matrix then s
  else
    let (v, s) := s.clamps p r.idx 2 v
    let c := s.dev.freeCtr
    let e := encV (freeByte c) v
    let s := (s.countClamps p r.idx 2 e.2.2.toNat).onDev fun d => d.spend 5
    (s.anchWrite p (bank + n + 32 * j) (packLe 1 e.2.1)).anchWrite p (bank + 2 * n + 2 * j + 1) [BitVec.ofNat 8 e.1]

-- FOLD (R228, R232, R240)

/-- A range becomes +0.0 as a FILL writes it (R228, R174): every aligned 2 MiB block it covers entirely becomes live. -/
def State.anchFill (p : PartIx) (s : State) (a n : Nat) : State :=
  let first := ceilDiv a (2 ^ 21)
  (s.anchWrite p a (List.replicate n 0)).onDev fun d =>
    (List.range ((a + n) / 2 ^ 21 - first)).foldl (fun d i => d.setLive p (liveIndex ((first + i) * 2 ^ 21 % 2 ^ 36))) d

/-- RELAY_ARMED (R228, steps 2 and 3): every range is +0.0 and GOT 0, the entries are active, each READY_H named receives an
arrival. -/
def execRelayArmed (p : PartIx) (s : State) : Ans :=
  let a := s.dev.anchor p
  .next (s.when (s.dev.anchState p == 1 && a.armed && !a.ready)
    (s.anchorTurn p fun s =>
      let es := s.relays p
      let s := es.foldl (fun s e => (s.anchFill p e.base (4 * e.nelem)).putRelay p e.idx 0 1) s
      let s := s.onDev fun d => d.modAnchor p fun a => { a with ready := true }
      es.foldl (fun s e => match e.ready with
        | some h => s.arrive (some p) (hurdleIx h) 0
        | none => s) s))

/-- RELAY_CONTRIBUTION (R229, R230): a widening add whose destination lies in an entry of this partition. -/
def execRelayContribution (p : PartIx) (addr op fmt : Nat) (data : List Byte) (s : State) : Ans :=
  .next (match s.relayOf addr with
    | some (q, e) => s.when (q == p) (s.contribute p e op fmt [(addr, data)]).2
    | none => s)

/-- Whether every Relay entry of a rule has been consumed. -/
def State.ruleReady (s : State) (p : PartIx) (i : Nat) : Bool :=
  (s.relays p).all fun e => e.rule != i || e.state == 3

/-- Fold block `j` of a Relay entry (R240, R241). -/
def State.foldBlock (p : PartIx) (r : Rule) (e : RelayEntry) (s : State) (j : Nat) : State :=
  let a := s.dev.anchor p
  let h := a.hyper r
  let b := e.eoff / 32 + j
  let (sb, s) := s.anchRead p (e.base + 128 * j) 128
  let g := (numsOf 4 32 sb).map fun x => fMul (f32 x) (.fin false 1 (-a.lsExp))
  let (m, v, s) := s.readMoments p r (r.bank 4 (s.dev.anchBank p)) b
  let (wb, s) := if r.kind = 1 then s.anchRead p (r.at' 1 + 128 * b) 128 else ([], s)
  let w := (numsOf 4 32 wb).map f32
  let out := (List.range 32).map fun i =>
    foldElem r.kind h (g.getD i fZero) (w.getD i fZero) (m.getD i fZero) (v.getD i fZero)
  let s := s.writeMoments p r (r.bank 4 (!s.dev.anchBank p)) b (out.map (·.1)) (out.map (·.2))
  if r.matrix then
    let u := (g.zip out).map fun x => if r.nest then fAdd x.1 (fMul (h.v 1) x.2.1) else x.2.1
    let base := 2 ^ 28 * r.idx + 32 * b
    let put (t : Tbl Word32) (l : List FVal) : Tbl Word32 :=
      ((List.range 32).zip l).foldl (fun t x => t.set 0 (base + x.1) (BitVec.ofNat 32 (fp32Of x.2))) t
    s.onDev fun d => d.modAnchor p fun a => { a with
      g := put a.g g, u := put a.u u
      sumsq := a.sumsq.modify 0 r.idx fun x => BitVec.ofNat 32 (fp32Of (sumSquares (f32 x.toNat) u)) }
  else s

/-- RELAY_ENTRY_CONSUMED (R232): the fold of a complete entry reads its sums, element after element; its range then
reads +0.0 and it is consumed. -/
def execRelayEntryConsumed (p : PartIx) (i : Nat) (s : State) : Ans :=
  let e := s.relayEntry p i
  .next (match s.rule p e.rule with
    | some r => s.when (s.dev.anchState p == 1 && !s.dev.partClosed p && (s.dev.anchor p).ready && decide (i < s.dev.relayCount p) && e.state == 2)
      (s.anchorTurn p fun s =>
        let s := (List.range (e.nelem / 32)).foldl (State.foldBlock p r e) s
        (s.anchWrite p e.base (List.replicate (4 * e.nelem) 0)).putRelay p i e.got 3)
    | none => s)

/-- A block of a matrix rule from a table of its elements. -/
def Rule.mat (r : Rule) (t : Tbl Word32) : Mat :=
  (List.range r.rows).map fun i => (List.range r.cols).map fun j => f32 (t.get 0 (2 ^ 28 * r.idx + r.cols * i + j)).toNat

/-- An n × n matrix of FP32 in memory. -/
def State.readMat (p : PartIx) (s : State) (a n : Nat) : Mat × State :=
  (List.range n).foldl (fun (acc : Mat × State) i =>
    let (l, s) := acc.2.anchRead p (a + 4 * n * i) (4 * n)
    (acc.1 ++ [(numsOf 4 n l).map f32], s)) ([], s)

/-- Store DIR as BF16. -/
def State.writeDir (p : PartIx) (s : State) (r : Rule) (d : Mat) : State :=
  s.anchWrite p (r.at' 6) (packLe 2 (d.flatten.map bf16Of))

/-- A BF16 value where an overflow is a free choice between infinity and the largest finite value (log entry 44). -/
def bfFree (rm : Rnd) (toInf : Bool) (x : FVal) : Nat :=
  match x with
  | .fin s m e =>
    let r := Fmt.bf16.round rm s m e
    if r.ovf && toInf then Fmt.bf16.infBits s else r.bits
  | x => bf16Of x

/-- The roots of one factor (R242): refreshed from the new statistic, or the committed bank's bytes copied unchanged. -/
def State.newRoot (p : PartIx) (s : State) (r : Rule) (h : Hyper) (refresh : Bool) (n old new : Nat) (stat : Mat) :
    Mat × State :=
  if refresh then
    let (l, s) := s.clamps p r.idx 4 (newtonRoot h n stat).flatten
    let f := s.dev.freeCtr
    let bits := (l.zip (List.range l.length)).map fun x => bfFree .ne (bit (Config.free (f + x.2 / 64)) (x.2 % 64)) x.1
    let s := (s.onDev fun d => d.spend (l.length / 64 + 1)).anchWrite p new (packLe 2 bits)
    ((List.range n).map fun i => ((bits.drop (n * i)).take n).map Fmt.bf16.decode, s)
  else
    let (l, s) := s.anchRead p old (2 * n * n)
    let v := (numsOf 2 (n * n) l).map Fmt.bf16.decode
    ((List.range n).map fun i => (v.drop (n * i)).take n, s.anchWrite p new l)

/-- The matrix phase of a rule whose last entry has been consumed (R241, R242). -/
def State.ruleMatrix (p : PartIx) (s : State) (r : Rule) : State :=
  let a := s.dev.anchor p
  let h := a.hyper r
  let u := r.mat a.u
  if r.kind = 3 then s.writeDir p r (nsDir h r.rows r.cols u (f32 (a.sumsq.get 0 r.idx).toNat))
  else
    let b := s.dev.anchBank p
    let g := (r.mat a.g).map1 toBf
    let offR := 4 * r.rows * r.rows
    let (l, s) := s.readMat p (r.bank 7 b) r.rows
    let (q, s) := s.readMat p (r.bank 7 b + offR) r.cols
    let gt := g.trans r.cols
    let (l', s) := s.clamps p r.idx 3 (statNew h l (g.mulT g)).flatten
    let (q', s) := s.clamps p r.idx 3 (statNew h q (gt.mulT gt)).flatten
    let s := s.anchWrite p (r.bank 7 (!b)) (packLe 4 (l'.map fp32Of))
    let s := s.anchWrite p (r.bank 7 (!b) + offR) (packLe 4 (q'.map fp32Of))
    let rowsOf (n : Nat) (l : List FVal) : Mat := (List.range n).map fun i => (l.drop (n * i)).take n
    let refresh := a.t % h.n 12 == 0
    let (lr, s) := s.newRoot p r h refresh r.rows (r.bank 9 b) (r.bank 9 (!b)) (rowsOf r.rows l')
    let offQ := 2 * r.rows * r.rows
    let (rr, s) := s.newRoot p r h refresh r.cols (r.bank 9 b + offQ) (r.bank 9 (!b) + offQ) (rowsOf r.cols q')
    s.writeDir p r (kfDir h r.cols lr u rr)

/-- RULE_FOLDED (R240 … R242, R252): the rule's last entry has been consumed; a matrix rule takes the engine in rule index
order (R245). With the last rule folded the Anchor votes. -/
def execRuleFolded (p : PartIx) (rule : Nat) (s : State) : Ans :=
  let a := s.dev.anchor p
  .next (match s.rule p rule with
    | none => s
    | some r =>
      let first := !r.matrix || (s.rules p).all fun q =>
        !q.matrix || decide (rule ≤ q.idx) || a.folded.contains q.idx || !s.ruleReady p q.idx
      s.when (s.dev.anchState p == 1 && !s.dev.partClosed p && a.ready && decide (rule < s.dev.ruleCount p) && !a.folded.contains rule &&
          s.ruleReady p rule && first)
        (s.anchorTurn p fun s =>
          let s := if r.matrix then s.ruleMatrix p r else s
          let s := s.onDev fun d => d.modAnchor p fun a => { a with folded := a.folded ++ [rule] }
          let s := s.anchStat p fun w => wrapAdd w 15 0 1
          if (s.dev.anchor p).folded.length = s.dev.ruleCount p then s.castVote p else s))

/-- Every entry that is not consumed becomes idle. -/
def State.idleRelays (s : State) (p : PartIx) : State :=
  if (s.dev.anchor p).armed then
    (s.relays p).foldl (fun s e => if e.state = 3 then s else s.putRelay p e.idx e.got 0) s
  else s

/-- FOLD_TIMEOUT (R252): INCOMPLETE is set, entries not consumed refuse contributions, and the Anchor votes. FOLD_S = 0 sets
no limit. -/
def execFoldTimeout (p : PartIx) (s : State) : Ans :=
  .next (s.when (s.dev.anchState p == 1 && fld (s.dev.reg (.anchCtl p)) 5 0 != 0)
    (((s.anchStat p fun w => setBit w 57 true).idleRelays p).castVote p))

-- the vote (R252 … R258)

/-- Partitions whose Anchor waits for the outcome it has now been given. -/
def Dev.decidedAnchors (d : Dev) (res : Option Bool) (states : List Nat) : List PartIx :=
  (List.finRange 8).filter fun p => (d.anchor p).outcome == some res && states.contains (d.anchState p)

/-- A count one higher; beyond the largest value of its field the manual states none, and it is free value `n` (log entry 46). -/
def countUp (n : Nat) (w : Word) (hi lo : Nat) : Word :=
  if fld w hi lo + 1 < 2 ^ (hi + 1 - lo) then setFld w hi lo (fld w hi lo + 1) else setFld w hi lo (Config.free n).toNat

/-- TRAIN at the end of a decided vote (R226): once for the step that stands in TRAIN_STEP. A CLEAN that GROW_N has come to lie
below reaches it at the next clean vote (DEDUCED, log entry 46). -/
def Dev.trainStep (d : Dev) (step : Nat) (skip : Bool) : Dev :=
  let st := d.reg .trainStep
  if fld st 31 0 ≠ step then d
  else
    let n := d.freeCtr
    let ls := d.reg .trainLs
    let e := sint 8 (fld ls 7 0)
    let lim (v : Int) : Nat := unint 8 v
    let st := countUp n st 31 0
    if skip then
      let e' := if bit ls 63 then (if sint 8 (fld ls 23 16) < e then e - 1 else e) else e
      ((d.setReg .trainStep st).setReg .trainLs (setFld (setFld ls 47 32 0) 7 0 (lim e'))).spend 3
    else
      let grow := fld ls 62 48
      let up := decide (grow ≠ 0 ∧ grow ≤ fld ls 47 32 + 1)
      let e' := if up && decide (e < sint 8 (fld ls 31 24)) then e + 1 else e
      ((d.setReg .trainStep (countUp (n + 1) st 63 32)).setReg .trainLs
        (setFld (if up then setFld ls 47 32 0 else countUp (n + 2) ls 47 32) 7 0 (lim e'))).spend 3

/-- ANCH_VOTE of a partition (R259). -/
def Dev.setVote (d : Dev) (p : PartIx) (skip via : Bool) (step : Nat) : Dev :=
  d.setReg (.anchVote p) (fput 63 63 1 ||| fput 62 62 skip.toNat ||| fput 61 61 via.toNat ||| fput 31 0 step)

/-- One Anchor acts on a decision: a clean one flips BANK and starts the apply phase (R255), a skip ends the step (R256). -/
def State.anchDecide (skip : Bool) (s : State) (p : PartIx) : State :=
  let s := s.onDev fun d => d.modAnchor p fun a => { a with outcome := none }
  if skip then (s.anchDone p).anchIdle p
  else s.anchStat p fun w => setFld (setBit w 60 (!bit w 60)) 63 61 3

/-- A release of VOTE_H reaches the hub (R254, steps 6 and 7): ANCH_VOTE of every enabled partition, TRAIN, and the
Anchors. -/
def State.voteRelease (s : State) (skip : Bool) : State :=
  match s.dev.decidedAnchors (some skip) [2, 5] with
  | [] => s
  | p :: r =>
    let step := (s.dev.anchor p).step
    let s := s.onDev fun d =>
      ((List.finRange 8).filter s.nv.part.enabled).foldl (fun d q => d.setVote q skip false step) (d.trainStep step skip)
    (p :: r).foldl (State.anchDecide skip) s

/-- VOTE_CLEAN (R255). -/
def execVoteClean (s : State) : Ans := .next (s.voteRelease false)

/-- VOTE_SKIP (R256). -/
def execVoteSkip (s : State) : Ans := .next (s.voteRelease true)

/-- VOTE_LOST (R252, R257): VOTE_H failed while the Anchor was in FOLD or VOTE. -/
def execVoteLost (s : State) : Ans :=
  .next ((s.dev.decidedAnchors none [1, 2]).foldl (fun s p =>
    let s := s.onDev fun d => d.modAnchor p fun a => { a with outcome := none }
    let s := ((s.idleRelays p).anchEnter p 4).anchAttn p
    s.record .voteAttn (s.dev.anchor p).step 0 (idUnit s.dev.devId p.val 0)) s)

/-- VOTE_TIMEOUT (R252): VOTE_MS has elapsed with no outcome. -/
def execVoteTimeout (p : PartIx) (s : State) : Ans :=
  .next (s.when (s.dev.anchState p == 2 && (s.dev.anchor p).outcome.isNone)
    (((s.anchEnter p 5).anchAttn p).record .voteAttn (s.dev.anchor p).step 1 (idUnit s.dev.devId p.val 0)))

/-- RESOLVE (R258, R259): an UNDECIDED Anchor acts as on a release; refused in another state or with another STEP. -/
def State.anchResolve (s : State) (p : PartIx) (skip : Bool) (v : Word) : State :=
  let step := (s.dev.anchor p).step
  if s.dev.anchState p ≠ 5 ∨ fld v 31 0 ≠ step then s.anchRefuse p
  else (s.onDev fun d => (d.trainStep step skip).setVote p skip true step).anchDecide skip p

/-- ANCHOR_RESOLVE_CLEAN. -/
def execAnchorResolveClean (o : Origin) (p : PartIx) (v : Word) (s : State) : Ans :=
  .next (s.regWrite o (.anchCmd p) fun s => s.anchResolve p false v)

/-- ANCHOR_RESOLVE_SKIP. -/
def execAnchorResolveSkip (o : Origin) (p : PartIx) (v : Word) (s : State) : Ans :=
  .next (s.regWrite o (.anchCmd p) fun s => s.anchResolve p true v)

/-- ANCH_CMD_BADCMD (R259): a code other than 1 … 4. -/
def execAnchCmdBadcmd (o : Origin) (p : PartIx) (v : Word) (s : State) : Ans :=
  .next (s.regWrite o (.anchCmd p) fun s =>
    s.when (decide (fld v 63 60 = 0 ∨ 4 < fld v 63 60)) (s.anchStat p fun w => setBit w 54 true))

/-- A write of ANCH_CMD by its code. -/
def State.anchCmdWrite (o : Origin) (p : PartIx) (v : Word) (s : State) : State :=
  match fld v 63 60 with
  | 1 => s.anchTrigger p 0 (idOrigin s.dev.devId o)
  | 2 => s.anchAbandon p
  | 3 => s.anchResolve p false v
  | 4 => s.anchResolve p true v
  | _ => s.anchStat p fun w => setBit w 54 true

-- APPLY (R240, R249, R255)

/-- New master weights of block `j`. -/
def State.applyBlock (p : PartIx) (r : Rule) (bank : Nat) (acc : List FVal × State) (j : Nat) : List FVal × State :=
  let s := acc.2
  let a := s.dev.anchor p
  let h := a.hyper r
  let (wb, s) := s.anchRead p (r.at' 1 + 128 * j) 128
  let (m, v, s) := if r.matrix then ([], [], s) else s.readMoments p r bank j
  let (db, s) := if r.matrix then s.anchRead p (r.at' 6 + 64 * j) 64 else ([], s)
  let w := (numsOf 4 32 wb).map f32
  let d := (numsOf 2 32 db).map Fmt.bf16.decode
  let l := (List.range 32).map fun i =>
    applyElem r.kind h (a.t + 1) (w.getD i fZero) (m.getD i fZero) (v.getD i fZero) (d.getD i fZero)
  let (l, s) := s.clamps p r.idx 0 l
  (acc.1 ++ l, s.anchWrite p (r.at' 1 + 128 * j) (packLe 4 (l.map fp32Of)))

/-- The working copy (R249), elements drawn for in row-major order (log entry 45). -/
def State.writeWork (p : PartIx) (s : State) (r : Rule) (w : List FVal) : State :=
  if r.wfmt = 0 then s
  else
    let (rs, s) := s.draws p r.sr w.length
    let rm (i : Nat) : Rnd := storeRnd r.ctl (rs.getD i 0)
    if r.wfmt = 1 then
      let f := s.dev.freeCtr
      let bits := (w.zip (List.range w.length)).map fun x =>
        bfFree (rm x.2) (bit (Config.free (f + x.2 / 64)) (x.2 % 64)) x.1
      (s.onDev fun d => d.spend (w.length / 64 + 1)).anchWrite p (r.at' 2) (packLe 2 bits)
    else if r.wfmt = 2 then
      s.anchWrite p (r.at' 2) (packLe 1 ((w.zip (List.range w.length)).map fun x =>
        (narrowFloat .e4m3 (rm x.2) true x.1).1))
    else
      ((List.range (ceilDiv r.rows 32)).map fun jb => (List.range r.cols).map fun n => (jb, n)).flatten.foldl
        (fun s e =>
          let ix := (List.range (min 32 (r.rows - 32 * e.1))).map fun i => (32 * e.1 + i) * r.cols + e.2
          let b := mxBlock r.ctl 2 (ix.map fun i => rs.getD i 0) (ix.map fun i => fp32Of (w.getD i fZero))
          let s := (ix.zip b.2.1).foldl (fun s x => s.anchWrite p (r.at' 2 + x.1) (packLe 1 [x.2])) s
          s.anchWrite p (r.at' 3 + e.1 * r.cols + e.2) [BitVec.ofNat 8 b.1]) s

/-- Apply one rule. -/
def State.applyRule (p : PartIx) (s : State) (r : Rule) : State :=
  let (w, s) := (List.range (r.elems / 32)).foldl (State.applyBlock p r (r.bank 4 (s.dev.anchBank p))) ([], s)
  s.writeWork p r w

/-- APPLY_DONE (R255): the rules are applied in index order; DONE_H, then IDLE. -/
def execApplyDone (p : PartIx) (s : State) : Ans :=
  .next (s.when (s.dev.anchState p == 3 && !s.dev.partClosed p)
    (s.anchorTurn p fun s => (((s.rules p).foldl (State.applyRule p) s).anchDone p).anchIdle p))

-- registers (R224, R236, R250, R259)

/-- The wait on START_H that a new START_V or START_H places (R266): it ends at once where the Hurdle is RELEASED, which is a
trigger; the next one ends at the next advance of GEN (log entry 133). -/
def State.startWait (s : State) (p : PartIx) (old : Word) : State :=
  let c := s.dev.reg (.anchCtl p)
  let h := hurdleIx (fld c 31 16)
  s.when (bit c 15 && (!bit old 15 || fld old 31 16 != fld c 31 16) && s.hurdleHome h == .bank && (s.dev.hurdle h.val).state == 2)
    (s.onDev fun d => d.modAnchor p fun a => { a with trigs := a.trigs + 1 })

/-- ANCH_CTL (R236): HOLD in every state, the other fields in IDLE. A pending START runs once HOLD is 0. -/
def State.anchCtlWrite (p : PartIx) (v : Word) (s : State) : State :=
  let w := s.dev.reg (.anchCtl p)
  if s.dev.anchState p = 0 then ((s.onDev fun d => d.setReg (.anchCtl p) v).startWait p w).anchPend p
  else
    let s' := s.onDev fun d => d.setReg (.anchCtl p) (setBit w 13 (bit v 13))
    if setBit w 13 false = setBit v 13 false then s' else s'.anchRefuse p

/-- ANCH_CTL_WRITE. -/
def execAnchCtlWrite (o : Origin) (p : PartIx) (v : Word) (s : State) : Ans :=
  .next (s.regWrite o (.anchCtl p) fun s => s.anchCtlWrite p v)

/-- ANCH_RULES, ANCH_RELAY, ANCH_SEED and ANCH_HP (R236): stored in IDLE. A SEED of 0 becomes 1 (R119); bits [6:5] of
ANCH_RELAY.BASE are zero by the register's layout. -/
def State.anchConfigWrite (p : PartIx) (r : Reg) (v : Word) (s : State) : State :=
  if s.dev.anchState p ≠ 0 then s.anchRefuse p
  else match r with
    | .anchSeed _ => s.onDev fun d => d.setReg r (fput 31 0 (if fld v 31 0 = 0 then 1 else fld v 31 0))
    | .anchRelay _ => s.onDev fun d =>
      (d.setReg r (storeTyped r (d.reg r) v)).modAnchor p fun a => { a with armed := false, ready := false }
    | _ => s.onDev fun d => d.setReg r (storeTyped r (d.reg r) v)

/-- ANCH_CONFIG_WRITE, at an offset of the partition's block. -/
def execAnchConfigWrite (o : Origin) (p : PartIx) (off : Nat) (v : Word) (s : State) : Ans :=
  .next (match Reg.ofAnch p off with
    | some r => match r with
      | .anchRules _ | .anchRelay _ | .anchSeed _ | .anchHp _ _ _ => s.regWrite o r fun s => s.anchConfigWrite p r v
      | _ => s
    | none => s)

/-- TRAIN (R224): refused while any Anchor is outside IDLE; REFUSED itself is cleared as W1C. -/
def State.trainWrite (ls : Bool) (v : Word) (s : State) : State :=
  let r := if ls then Reg.trainLs else .trainStep
  if (List.finRange 8).any fun p => s.dev.anchState p != 0 then
    s.onDev fun d => d.modReg .trainLs fun w => setBit w 8 true
  else s.onDev fun d => d.setReg r (storeTyped r (d.reg r) v)

/-- TRAIN_WRITE. -/
def execTrainWrite (o : Origin) (ls : Bool) (v : Word) (s : State) : Ans :=
  .next (s.regWriteV o (if ls then .trainLs else .trainStep) v fun s => s.trainWrite ls v)

/-- ANCH_STAT_READ (R259). -/
def execAnchStatRead (o : Origin) (p : PartIx) (s : State) : Ans :=
  .next (s.readClear o (.anchStat p) (s.dev.reg (.anchStat p)))

/-- ANCH_CLAMP_READ (R250). -/
def execAnchClampRead (o : Origin) (p : PartIx) (s : State) : Ans :=
  .next (s.readClear o (.anchClamp p) (s.dev.reg (.anchClamp p)))

end Sys2Proof.Machine
end

