-- ==== Sys2Proof/Machine/Comm.lean ====
section
/-! DEFINITION. The communication area of the dictionary (R402, R403): values and defaults of its stored entries. -/

namespace Sys2Proof.Machine

/-- Key of a communication entry: 256 × index + subindex. -/
def commKey (index sub : Nat) : Nat := 256 * index + sub

/-- The node ID read from the straps at power good (R398). -/
def Dev.nodeId (d : Dev) : Nat := d.bootEnv.nodeId % 128

/-- A mapping parameter: index, subindex, length in bits (R403). -/
def mapParam (index sub bits : Nat) : Nat := 65536 * index + 256 * sub + bits

/-- The default mappings of TPDOs 0 and 1 (R403). -/
def tpdoDefault : Nat → List Nat
  | 0 => mapParam 0x2100 0x10 16 :: (List.range 9).map (fun i => mapParam 0x2203 (i + 1) 16) ++ [mapParam 0x2380 0 64]
  | 1 => [mapParam 0x2900 1 64, mapParam 0x2600 1 32, mapParam 0x2600 2 32] ++ (List.range 8).map fun p => mapParam (0x2120 + p) 6 16
  | _ => []

/-- Defaults of the stored communication entries (R402). -/
def commDefault (node index sub : Nat) : Nat :=
  if index = 0x1014 then 0x80 + node
  else if index = 0x1017 then 100
  else if 0x1400 ≤ index ∧ index < 0x1404 then
    if sub = 1 then 0x80000200 + 0x100 * (index - 0x1400) + node else if sub = 2 then 0xFE else 0
  else if 0x1800 ≤ index ∧ index < 0x1810 then
    let j := index - 0x1800
    if sub = 1 then (if j ≤ 3 then 0x180 + 0x100 * j + node else 0x80000000)
    else if sub = 2 then 0xFE else if sub = 5 then (if j ≤ 1 then 100 else 0) else 0
  else if 0x1A00 ≤ index ∧ index < 0x1A10 then
    let l := tpdoDefault (index - 0x1A00)
    if sub = 0 then l.length else l.getD (sub - 1) 0
  else 0

/-- A stored communication entry as it stands; the table keeps a value one above itself, 0 for the default. -/
def Dev.commVal (d : Dev) (index sub : Nat) : Nat :=
  match d.comm.get 0 (commKey index sub) with
  | 0 => commDefault d.nodeId index sub
  | n + 1 => n

/-- Set a communication entry. -/
def Dev.setComm (d : Dev) (index sub v : Nat) : Dev := { d with comm := d.comm.set 0 (commKey index sub) (v + 1) }

/-- A CAN FD frame leaves; a node ID of 0 keeps the device silent (R398). -/
def Dev.can (d : Dev) (f : Frame) : Dev := if d.nodeId = 0 then d else d.emit (.can f)

end Sys2Proof.Machine
end

