-- ==== Sys2Proof/Machine/Cipher.lean ====
section
/-! DEFINITION. AES-256-GCM (R316), of FIPS 197 and NIST SP 800-38D. -/

namespace Sys2Proof.Machine

/-- Multiply by x in the field of AES. -/
def aesX (a : Nat) : Nat := if a < 128 then 2 * a else (2 * a) ^^^ 0x11B

/-- Product in the field of AES; the last argument counts the bits of `b` still to use. -/
def aesMul (a b : Nat) : Nat → Nat
  | 0 => 0
  | n + 1 => (if b.testBit 0 then a else 0) ^^^ aesMul (aesX a) (b / 2) n

/-- a to the power 2^(n+1) − 2; with n = 7 the inverse of a, and 0 for 0. -/
def aesPow (a : Nat) : Nat → Nat
  | 0 => 1
  | n + 1 => let y := aesMul (aesPow a n) a 8; aesMul y y 8

/-- The substitution of SubBytes: the inverse, then the affine map. -/
def aesSub (b : Byte) : Byte :=
  let y : Byte := BitVec.ofNat 8 (aesPow b.toNat 7)
  y ^^^ y.rotateLeft 1 ^^^ y.rotateLeft 2 ^^^ y.rotateLeft 3 ^^^ y.rotateLeft 4 ^^^ 0x63

/-- Bytewise sum of two runs. -/
def addBytes (a b : List Byte) : List Byte := a.zipWith (· ^^^ ·) b

/-- The key schedule, newest word first; `n` words are still to be made, `i` is the number of the next. -/
def aesExpand : Nat → Nat → List (List Byte) → List (List Byte)
  | 0, _, w => w
  | n + 1, i, w =>
    let t := w.headD []
    let t := if i % 8 = 0 then
        addBytes ((t.drop 1 ++ t.take 1).map aesSub) [BitVec.ofNat 8 (2 ^ (i / 8 - 1)), 0, 0, 0]
      else if i % 8 = 4 then t.map aesSub
      else t
    aesExpand n (i + 1) (addBytes t (w.getD 7 []) :: w)

/-- Round keys 0 … 14 of a 256-bit key, 16 bytes each. -/
def aesKeys (key : List Byte) : List (List Byte) :=
  let w := (aesExpand 52 8 (((List.range 8).map fun i => (key.drop (4 * i)).take 4).reverse)).reverse
  (List.range 15).map fun r => ((w.drop (4 * r)).take 4).flatten

/-- MixColumns on one column. -/
def aesColumn (c : List Byte) : List Byte :=
  let g (i : Nat) : Nat := (c.getD (i % 4) 0).toNat
  (List.range 4).map fun i => BitVec.ofNat 8 (aesMul (g i) 2 2 ^^^ aesMul (g (i + 1)) 3 2 ^^^ g (i + 2) ^^^ g (i + 3))

/-- SubBytes and ShiftRows. -/
def aesShuffle (s : List Byte) : List Byte :=
  (List.range 16).map fun i => aesSub (s.getD ((i + 4 * (i % 4)) % 16) 0)

/-- AES-256 of one block under round keys. -/
def aesBlock (keys : List (List Byte)) (b : List Byte) : List Byte :=
  let s := ((keys.drop 1).take 13).foldl (fun s k =>
    addBytes (((List.range 4).map fun i => aesColumn (((aesShuffle s).drop (4 * i)).take 4)).flatten) k) (addBytes b (keys.headD []))
  addBytes (aesShuffle s) (keys.getD 14 [])

/-- Product of two blocks as GCM numbers their bits, the first the highest; `n` bits of `x` are still to use. -/
def ghashMul (x : Nat) : Nat → Nat → Nat
  | 0, _ => 0
  | n + 1, v =>
    (if x.testBit n then v else 0) ^^^ ghashMul x n (if v.testBit 0 then (v / 2) ^^^ (0xE1 <<< 120) else v / 2)

/-- GHASH of blocks under the hash key. -/
def ghash (h : Nat) (blocks : List (List Byte)) : Nat := blocks.foldl (fun y b => ghashMul (y ^^^ ofBe b) 128 h) 0

/-- A run cut into blocks of 16 bytes, the last filled with zeros. -/
def blocksOf (l : List Byte) : List (List Byte) :=
  (List.range (ceilDiv l.length 16)).map fun i => padTo 16 0 (l.drop (16 * i))

/-- The big-endian bytes of a number. -/
def beBytes (n v : Nat) : List Byte := (leBytes n v).reverse

/-- AES-256-GCM with a 96-bit IV: the ciphertext and the tag cut to 96 bits. -/
def gcmSeal (key iv aad plain : List Byte) : List Byte × List Byte :=
  let k := aesKeys key
  let stream (i : Nat) : List Byte := aesBlock k (iv ++ beBytes 4 i)
  let c := addBytes plain ((List.range (ceilDiv plain.length 16)).flatMap fun i => stream (i + 2))
  let h := ofBe (aesBlock k (List.replicate 16 0))
  let s := ghash h (blocksOf aad ++ blocksOf c ++ [beBytes 8 (8 * aad.length) ++ beBytes 8 (8 * c.length)])
  (c, (addBytes (beBytes 16 s) (stream 1)).take 12)

end Sys2Proof.Machine
end

