-- ==== Sys2Proof/Machine/Curve.lean ====
section
/-! DEFINITION. The curve P-384: the shared secret of a link's handshake (R315), ECDSA signatures over SHA-384 (R315, R408,
R430). Of SEC 1 and FIPS 186. A public key is the 96 bytes x ‖ y, a signature r ‖ s, each number big-endian. -/

namespace Sys2Proof.Machine

/-- The prime of the field. -/
def curveP : Nat := 2 ^ 384 - 2 ^ 128 - 2 ^ 96 + 2 ^ 32 - 1

/-- The constant term of the curve; its linear one is −3. -/
def curveB : Nat := 0xb3312fa7e23ee7e4988e056be3f82d19181d9c6efe8141120314088f5013875ac656398d8a2ed19d2a85c8edd3ec2aef

/-- The order of the base point. -/
def curveN : Nat := 0xffffffffffffffffffffffffffffffffffffffffffffffffc7634d81f4372ddf581a0db248b0a77aecec196accc52973

/-- a^e modulo m; the last argument counts the bits of e still to use, highest first. -/
def powMod (m a e : Nat) : Nat → Nat
  | 0 => 1
  | n + 1 =>
    let r := powMod m a (e / 2) n
    let r := r * r % m
    if e.testBit 0 then r * a % m else r

/-- Inverse modulo a prime of 384 bits. -/
def invMod (m a : Nat) : Nat := powMod m a (m - 2) 384

/-- A point of the curve; none is the point at infinity. -/
abbrev Point := Option (Nat × Nat)

/-- The base point. -/
def curveG : Point :=
  some (0xaa87ca22be8b05378eb1c71ef320ad746e1d3b628ba79b9859f741e082542a385502f25dbf55296c3a545e3872760ab7,
    0x3617de4a96262c6f5d9e98bf9292dc29f8f41dbd289a147ce9da3113b5f0b8c00a60b1ce1d7e819d7a431d7c90ea0e5f)

/-- Difference modulo the prime. -/
def subP (a b : Nat) : Nat := (a + curveP - b) % curveP

/-- The point on the line of slope `k` through two points. -/
def Point.onLine (k : Nat) (a b : Nat × Nat) : Point :=
  let x := subP (subP (k * k % curveP) a.1) b.1
  some (x, subP (k * subP a.1 x % curveP) a.2)

/-- Sum of two points. -/
def Point.add : Point → Point → Point
  | none, q => q
  | p, none => p
  | some a, some b =>
    if a.1 = b.1 then
      if (a.2 + b.2) % curveP = 0 then none
      else Point.onLine (subP (3 * a.1 * a.1 % curveP) 3 * invMod curveP (2 * a.2 % curveP) % curveP) a b
    else Point.onLine (subP b.2 a.2 * invMod curveP (subP b.1 a.1) % curveP) a b

/-- Multiple of a point; the last argument counts the bits of `k` still to use. -/
def Point.mul (p : Point) (k : Nat) : Nat → Point
  | 0 => none
  | n + 1 =>
    let q := Point.mul p (k / 2) n
    let q := q.add q
    if k.testBit 0 then q.add p else q

/-- The point of a public key, where it names one of the curve. -/
def pointOf (key : List Byte) : Point :=
  let x := ofBe (key.take 48)
  let y := ofBe ((key.drop 48).take 48)
  if key.length = 96 ∧ x < curveP ∧ y < curveP ∧ y * y % curveP = (subP (x * x % curveP * x % curveP) (3 * x % curveP) + curveB) % curveP then some (x, y)
  else none

/-- The 96 bytes of a point. -/
def Point.bytes : Point → List Byte
  | some (x, y) => beBytes 48 x ++ beBytes 48 y
  | none => List.replicate 96 0

/-- The public key of a private one. -/
def publicKey (k : Nat) : List Byte := (Point.mul curveG k 384).bytes

/-- The secret a private key shares with a Partner's public key; none where that key is no point of the curve. -/
def ecdhSecret (k : Nat) (key : List Byte) : Option (List Byte) :=
  match pointOf key with
  | none => none
  | p => (Point.mul p k 384).map fun q => beBytes 48 q.1

/-- ECDSA verification of a message by a public key. -/
def ecdsaOk (key msg sig : List Byte) : Bool :=
  let r := ofBe (sig.take 48)
  let s := ofBe ((sig.drop 48).take 48)
  let e := ofBe (sha384 msg)
  let w := invMod curveN s
  decide (sig.length = 96 ∧ 1 ≤ r ∧ r < curveN ∧ 1 ≤ s ∧ s < curveN) && (pointOf key).isSome &&
    match (Point.mul curveG (e * w % curveN) 384).add (Point.mul (pointOf key) (r * w % curveN) 384) with
    | some q => q.1 % curveN == r
    | none => false

/-- ECDSA signature of a message by a private key, with the per-signature secret number `k`. -/
def ecdsaSign (key k : Nat) (msg : List Byte) : List Byte :=
  match Point.mul curveG k 384 with
  | none => List.replicate 96 0
  | some q =>
    let r := q.1 % curveN
    beBytes 48 r ++ beBytes 48 (invMod curveN k * (ofBe (sha384 msg) + r * key) % curveN)

end Sys2Proof.Machine
end

