-- ==== Sys2Proof/Machine/Wire.lean ====
section
/-! DEFINITION. What crosses a fibre: the link header (R295), the transaction header (R296), the 256 bytes of a flit with their tag
and CRC-32C (R294, R316), the codewords that carry flits and their dealing to the wavelengths (R293). -/

namespace Sys2Proof.Machine

-- headers (R295, R296)

/-- KIND of a flit. -/
def FlitKind.code : FlitKind → Nat
  | .header => 0 | .data => 1 | .idle => 2 | .reserved => 3

@[inherit_doc FlitKind.code]
def FlitKind.ofCode (n : Nat) : FlitKind :=
  if n % 4 = 0 then .header else if n % 4 = 1 then .data else if n % 4 = 2 then .idle else .reserved

/-- `v` as the `n` bits at `lo` of a header. -/
def hput (lo n v : Nat) : Nat := (v % 2 ^ n) * 2 ^ lo

/-- The link header of a flit. -/
def Flit.link (f : Flit) : Nat :=
  hput 52 12 f.seq + hput 40 12 f.ack + hput 39 1 f.nak.toNat + hput 37 2 f.vc + hput 35 2 f.kind.code + hput 34 1 f.lastf.toNat +
    hput 33 1 f.kph.toNat + hput 20 12 f.bcum + hput 18 2 f.bvc

/-- The transaction header of a message. -/
def Msg.head (m : Msg) : Nat :=
  hput 112 16 m.src + hput 96 16 m.dst + hput 91 5 m.op + hput 84 7 m.len + hput 80 4 m.status + hput 64 16 m.tag + hput 52 12 m.param +
    hput 0 40 m.addr

/-- The message a transaction header opens. -/
def Msg.ofHead (w : Nat) : Msg :=
  { src := nbits w 127 112, dst := nbits w 111 96, op := nbits w 95 91, len := nbits w 90 84, status := nbits w 83 80,
    tag := nbits w 79 64, param := nbits w 63 52, addr := nbits w 39 0 }

-- flits (R294)

/-- Bytes 8 … 239 of a flit in clear. -/
def Flit.body (f : Flit) : List Byte :=
  match f.kind, f.trans with
  | .header, some m => leBytes 16 m.head ++ padTo 216 0 f.data
  | .header, none => List.replicate 16 0 ++ padTo 216 0 f.data
  | .data, _ => padTo 232 0 f.data
  | _, _ => List.replicate 232 0

/-- Bytes 0 … 239 of a flit in clear. -/
def Flit.clear (f : Flit) : List Byte := leBytes 8 f.link ++ f.body

/-- The flit that bytes 0 … 239 in clear spell. -/
def Flit.parse (l : List Byte) : Flit :=
  let h := ofLe (l.take 8)
  let b := (l.drop 8).take 232
  let kind := FlitKind.ofCode (nbits h 36 35)
  { seq := nbits h 63 52, ack := nbits h 51 40, nak := h.testBit 39, vc := nbits h 38 37, kind := kind, lastf := h.testBit 34,
    kph := h.testBit 33, bcum := nbits h 31 20, bvc := nbits h 19 18,
    trans := if kind = .header then some (Msg.ofHead (ofLe (b.take 16))) else none,
    data := if kind = .header then b.drop 16 else if kind = .data then b else [] }

/-- One byte of CRC-32C, its lowest bit first: polynomial 0x1EDC_6F41 with its bits reversed. -/
def crc32Byte (r : Nat) (b : Byte) : Nat :=
  (List.range 8).foldl (fun r i => (r / 2) ^^^ (if r.testBit 0 != b.getLsbD i then 0x82F63B78 else 0)) r

/-- CRC-32C of a run of bytes. -/
def crc32c (l : List Byte) : Nat := (l.foldl crc32Byte 0xFFFFFFFF) ^^^ 0xFFFFFFFF

/-- A flit as sent: AES-256-GCM over bytes 8 … 239 under the direction's key and salt, the link header authenticated, transmission
number `ctr` in the IV (R316; its byte order is log entry 136); the tag, the CRC over all of it. -/
def sealFlit (key : List Byte) (ctr : Nat) (clear : List Byte) : List Byte :=
  let head := clear.take 8
  let c := gcmSeal (key.take 32) ((key.drop 32).take 4 ++ leBytes 8 ctr) head ((clear.drop 8).take 232)
  let b := head ++ c.1 ++ c.2
  b ++ leBytes 4 (crc32c b)

/-- Whether the CRC finds flipped bits of a flit: the CRC of a sum is the sum of the CRCs, so what it makes of the flips does not
depend on the flit. -/
def crcFinds (flips : List Nat) : Bool :=
  let e := flipIn (List.replicate 256 0) flips
  (e.take 252).foldl crc32Byte 0 != ofLe (e.drop 252)

-- codewords (R293)

/-- Multiply by α in GF(2^10) with x^10 + x^3 + 1. -/
def gf10Double (a : Nat) : Nat := if a < 512 then 2 * a else (2 * a) ^^^ 0x409

/-- Product in GF(2^10); the last argument counts the bits of `b` still to use. -/
def gf10Mul (a b : Nat) : Nat → Nat
  | 0 => 0
  | n + 1 => (if b.testBit 0 then a else 0) ^^^ gf10Mul (gf10Double a) (b / 2) n

/-- α^n. -/
def gf10Pow : Nat → Nat
  | 0 => 1
  | n + 1 => gf10Double (gf10Pow n)

/-- The generator of RS(544,514), the product of x − α^0 … x − α^29, its leading 1 left out, highest power first. -/
def rsGenerator : List Nat :=
  ((List.range 30).foldl (fun g i => (g ++ [0]).zipWith (· ^^^ ·) (0 :: g.map fun c => gf10Mul c (gf10Pow i) 10)) [1]).drop 1

/-- The 30 check symbols of data symbols in order. -/
def rs30Check (data : List Nat) : List Nat :=
  data.foldl (fun r s =>
    let f := s ^^^ r.headD 0
    (r.drop 1 ++ [0]).zipWith (· ^^^ ·) (rsGenerator.map fun c => gf10Mul c f 10)) (List.replicate 30 0)

/-- A codeword of 5120 bits of flits: the control word with PHASE, the bits, 514 symbols in all, then the check symbols (their bit
order is log entry 136). -/
def codeword (phase : Bool) (bits : Nat) : List Nat :=
  let w := phase.toNat * 2 ^ 19 + 2 ^ 20 * bits
  let d := (List.range 514).map fun i => (w / 2 ^ (10 * i)) % 1024
  d ++ rs30Check d

/-- The symbols of a codeword dealt to the wavelengths in rotation. -/
def deal (c : List Nat) : List (List Nat) := (List.range 8).map fun w => (List.range 68).map fun i => c.getD (8 * i + w) 0

/-- The two codewords that carry five flits, by wavelength. -/
def codewordPair (flits : List (List Byte)) : List (List Nat) × List (List Nat) :=
  let w := ofLe flits.flatten
  (deal (codeword false (w % 2 ^ 5120)), deal (codeword true (w / 2 ^ 5120)))

end Sys2Proof.Machine
end

