-- ==== Sys2Proof/Machine/Ports.lean ====
section
/-! DEFINITION. One optical port as a machine (R301 … R320, R324, R326): its states, retraining, failures, what it
receives and what it sends. -/

namespace Sys2Proof.Machine

/-- Set LINK_PSTAT.STATE; a port that comes up or goes down may change the egress of destinations (R321). -/
def Dev.setPortState (d : Dev) (n : PortIx) (st : Nat) : Dev :=
  (d.modReg (.linkPstat n) fun w => setFld w 63 60 st).markEgress

/-- Set a bit of LINK_PSTAT. -/
def Dev.flagPort (d : Dev) (n : PortIx) (i : Nat) : Dev := d.modReg (.linkPstat n) fun w => setBit w i true

/-- Ports in training or retraining with a turn (R309). -/
def Dev.turns (d : Dev) : Nat := ((List.finRange 64).filter fun n => (d.port n).holdsTurn).length

/-- A port waits for a turn, behind every port now waiting when `behind` (R309). -/
def Dev.askTurn (d : Dev) (n : PortIx) (behind : Bool) : Dev :=
  if behind then { (d.modPort n fun p => { p with turn := some (d.turnCtr + 1), holdsTurn := false }) with turnCtr := d.turnCtr + 1 }
  else d.modPort n fun p => { p with turn := some 0, holdsTurn := false }

/-- Whether a port may leave DARK (R309). -/
def Dev.mayLight (d : Dev) (n : PortIx) : Bool := d.optEn && decide (10 ≤ d.phase ∧ d.phase ≠ 15) && bit (d.reg (.linkPcfg n)) 0 && d.devId != 0xFFFF

/-- A dark port that may train begins to wait (R308, R309). -/
def Dev.lightPort (d : Dev) (n : PortIx) : Dev :=
  if d.portState n = 0 ∧ d.mayLight n then (d.setPortState n 1).askTurn n false else d

/-- Every dark port that may train begins to wait; ports of a fused partition do not exist. -/
def State.lightPorts (s : State) : State :=
  s.onDev fun d => ((List.finRange 64).filter fun n => s.nv.part.enabled (portPart n) && s.nv.portGood n).foldl Dev.lightPort d

/-- A port stops training and keeps no turn. -/
def Port.idle (p : Port) : Port := { p with turn := none, holdsTurn := false, auth := .none, retrainAsk := false, calib := false }

/-- The ports toward a device: those of its winning route entry, and those whose Partner it is. -/
def Dev.toward (d : Dev) (dev : Nat) : List PortIx :=
  ((d.routeWinners dev).head?.toList.flatMap fun i =>
    ((portIx (fld (d.routeLo i) 55 49)).toList ++ (portIx (fld (d.routeLo i) 48 42)).toList)) ++
  (List.finRange 64).filter fun n => (d.port n).peerDev == dev

/-- Whether a device can be reached through some port that carries traffic. -/
def Dev.reachable (d : Dev) (dev : Nat) : Bool := (d.toward dev).any fun n => d.portState n == 5 || d.portState n == 6

/-- The device field of an identity (R280). -/
def idDevice (id : Nat) : Nat := nbits id 27 12

/-- Messages held for senders that satisfy `p` become stale (R288, R327). -/
def Dev.staleChans (d : Dev) (p : Nat → Bool) : Dev :=
  (d.chans.map (·.1)).foldl (fun d i =>
    let x := d.chans.get {} i
    if x.full ∧ (x.bind.any p) then { d with chans := d.chans.set {} i { x with stale := true } } else d) d

/-- Port `n` has gone: channels bound to remote cores of a device that can no longer be reached (R327). -/
def Dev.staleLost (d : Dev) (n : PortIx) : Dev :=
  d.staleChans fun id => nbits id 31 28 == 1 && idDevice id != d.devId && (d.toward (idDevice id)).contains n &&
    !d.reachable (idDevice id)

/-- A port enters DOWN (R313): recorded, its traffic answered, its holds lost; the loopback test runs. -/
def Dev.portDown (d : Dev) (now : Nat) (n : PortIx) : Dev :=
  let d := (d.setPortState n 7).modPort n fun p => { p.idle with looping := true, downOk := false }
  let d := d.record now .linkDown 0 n.val (idUnit d.devId (portPart n).val (369 + n.val % 8))
  ((d.dropTraffic now n).loseLink now n).staleLost n

/-- A training fails (R311, R313): after three in a row the port is DOWN, before that it waits for another turn. -/
def Dev.trainFails (d : Dev) (now : Nat) (n : PortIx) : Dev :=
  let k := (d.port n).fails + 1
  let d := d.modPort n fun p => { p.idle with fails := k }
  if 3 ≤ k then d.portDown now n
  else if d.portState n = 6 then d.askTurn n false
  else (d.setPortState n 1).askTurn n false

/-- An UP link begins to train again (R313); a retrain asked for while one is in progress is merged into it. -/
def Dev.retrain (d : Dev) (now : Nat) (n : PortIx) : Dev :=
  if d.portState n ≠ 5 then d
  else
    let d := (d.setPortState n 6).modReg (.linkPstat n) fun w => satAdd w 31 16 1
    let d := d.modPort n fun p => { p.idle with replaysRow := 0, protoTimes := [] }
    (d.askTurn n false).loseLink now n

/-- A tag, chain or signature failure (R317): the third within 10 minutes quarantines the port. Answers whether it did. -/
def Dev.authFails (d : Dev) (now : Nat) (n : PortIx) : Bool × Dev :=
  let times := now :: (d.port n).authFails.filter (fun t => now < t + 600000000000)
  let q := decide (3 ≤ times.length)
  let d := (d.modPort n fun p => { p with authFails := times }).modReg (.linkPerr n) fun w => satAdd w 47 40 1
  let d := d.record now .linkAuth 0 (n.val + if q then 64 else 0) (idUnit d.devId (portPart n).val (369 + n.val % 8))
  if q then
    let was := d.portState n = 5 ∨ d.portState n = 6
    let d := (d.setPortState n 8).modPort n Port.idle
    (true, if was then ((d.dropTraffic now n).loseLink now n).staleLost n else d)
  else (false, d)

/-- A handshake failure fails the training as well. -/
def Dev.handshakeFails (d : Dev) (now : Nat) (n : PortIx) : Dev :=
  let r := d.authFails now n
  if r.1 then r.2 else r.2.trainFails now n

/-- A protocol error (R326): counted and recorded; 16 within 1 s begin a retrain. -/
def Dev.protoError (d : Dev) (now : Nat) (n : PortIx) (op : Nat) : Dev :=
  let times := now :: (d.port n).protoTimes.filter (fun t => now < t + 1000000000)
  let d := (d.modPort n fun p => { p with protoTimes := times }).modReg (.linkPerr n) fun w => satAdd w 23 16 1
  let d := d.record now .linkProto 0 (op % 32 * 256 + n.val) (idUnit d.devId (portPart n).val (369 + n.val % 8))
  if 16 ≤ times.length then d.retrain now n else d

-- receiving

/-- Data bytes a message of these header fields carries (R297). -/
def Msg.expect (m : Msg) : Nat := if [2, 3, 4, 5, 8, 0x10, 0x11, 0x12, 0x13, 0x14].contains m.op then 32 * (m.len + 1) else 0

/-- Whether a message breaks the format rules of R297. -/
def Msg.malformed (m : Msg) (vc : Nat) : Bool :=
  !([1, 2, 3, 4, 5, 6, 8, 9, 0x10, 0x11, 0x12, 0x13, 0x14].contains m.op) || vc != opVc m.op || decide (6 < m.status) ||
  (m.isRequest && m.status != 0) ||
  (m.op == 3 && !adderPairs (nbits m.param 11 8) (nbits m.param 7 4)) ||
  (m.op == 4 && !(decide (1 ≤ nbits m.param 11 8 ∧ nbits m.param 11 8 ≤ 9) && [13, 14].contains (nbits m.param 7 4) && m.len == 0)) ||
  (m.op == 5 && m.len != 1) || (decide (0x10 ≤ m.op) && m.len != 0)

/-- A management message whose KIND, SUB or answer bit R300 does not give (log entry 91). -/
def Msg.unknown (m : Msg) : Bool :=
  (m.op == 0x10 && decide (3 < m.byte 4)) || (m.op == 0x12 && decide (m.byte 0 = 0 ∨ 4 < m.byte 0)) ||
  (m.op == 0x13 && decide (1 < m.byte 3))

/-- The ingress filter (R320). -/
def Dev.ingressOk (d : Dev) (n : PortIx) (src : Nat) : Bool :=
  src == (d.port n).peerDev || (src != d.devId && match d.routeWinners src with
    | i :: _ => bit (d.reg (.linkRoute i 1)) n.val
    | [] => false)

/-- A message that breaks the format rules (R326): its flits are discarded, and a request is answered PROTO. -/
def Dev.badMsg (d : Dev) (now : Nat) (n : PortIx) (x : RxMsg) : Dev :=
  let d := (d.protoError now n x.msg.op).modPort n fun p => p.freeBatons x.vc x.flits
  if x.msg.isRequest && d.ingressOk n x.msg.src then d.respond now hubSrc x.msg 6 0 [] else d

/-- A whole message has arrived on a virtual channel of a port (R319, R320, R326). -/
def Dev.deliver (d : Dev) (now : Nat) (n : PortIx) (x : RxMsg) : Dev :=
  let m := x.msg
  let free (d : Dev) : Dev := d.modPort n fun p => p.freeBatons x.vc x.flits
  if m.malformed x.vc then d.badMsg now n x
  else if !d.ingressOk n m.src then
    let d := free (d.modReg (.linkPerr n) fun w => satAdd w 39 32 1)
    d.record now .linkIngress 0 (m.src % 65536 * 64 + n.val) (idRemote (d.port n).peerDev)
  else if m.dst = d.devId then
    if m.unknown then d.badMsg now n x else d.modPort n fun p => { p with rx := p.rx ++ [x] }
  else match d.route now m.dst with
    | (.port e, d) => d.enqueue e x.vc (16 + n.val) m
    | (r, d) =>
      let d := free d
      if m.isRequest then d.respond now hubSrc m (if r = .down then 5 else 4) 0 [] else d

/-- The token bucket of a port (R324): depth BURST KiB, filled at RATE bytes per ns. -/
def Dev.bucketLevel (d : Dev) (now : Nat) (n : PortIx) : Int :=
  let w := d.reg (.linkRcap n)
  let p := d.port n
  min (1024 * max 1 (fld w 47 32) : Nat) (p.bucket + (clampN 1 100 (fld w 63 48) * (now - p.bucketAt) : Nat))

/-- A flit of a request or reduction channel that lands on this device takes 256 bytes; what the bucket lacks it owes. -/
def Dev.takeTokens (d : Dev) (now : Nat) (n : PortIx) (vc : Nat) (m : Msg) : Dev :=
  if (vc = 0 ∨ vc = 2) ∧ m.dst = d.devId then
    let l := d.bucketLevel now n
    d.modPort n fun p => { p with bucket := l - 256, bucketAt := now }
  else d

-- the receive buffer (R303, R304)

/-- Flits of the receive buffer each virtual channel has (R303): the management channel 64, the others as LINK_VCBUF divides. -/
def Dev.rxSize (d : Dev) (n : PortIx) (vc : Nat) : Nat :=
  let w := d.reg (.linkVcbuf n)
  if vc = 0 then fld w 47 32 else if vc = 1 then fld w 31 16 else if vc = 2 then fld w 15 0 else 64

/-- Flits a virtual channel holds in the receive buffer: of messages delivered, of the one that is open, of those in transit. -/
def Dev.rxHeld (d : Dev) (n : PortIx) (vc : Nat) : Nat :=
  let p := d.port n
  ((p.rx.filter fun m => m.vc == vc).map (·.flits)).sum + ((p.open'.get none vc).map (·.flits)).getD 0 +
    (d.ports.map fun e => ((e.2.txq.filter fun t => t.src == 16 + n.val && t.vc == vc).map fun t => t.flits.length).sum).sum

/-- A TIME flit crosses the SerDes (R300, R328): its T1 and the time of its arrival are kept. -/
def Dev.timeArrives (d : Dev) (now : Nat) (n : PortIx) (m : Msg) : Dev :=
  if m.op = 0x11 then d.modPort n fun p => { p with timeT1 := ofLe (m.data.take 8), timeT2 := now } else d

/-- The body of a flit received in order: a message begins, goes on or ends. -/
def Dev.body (d : Dev) (now : Nat) (n : PortIx) (f : Flit) : Dev :=
  let p := d.port n
  let done (d : Dev) (x : RxMsg) : Dev :=
    let want := 1 + ceilDiv (x.msg.expect - 216) 232
    if x.flits ≠ want then d.badMsg now n x
    else d.deliver now n { x with msg := { x.msg with data := x.msg.data.take (if x.msg.op = 9 then 8 else x.msg.expect) } }
  match f.kind, f.trans with
  | .header, some m =>
    let x : RxMsg := { vc := f.vc, msg := { m with data := f.data }, flits := 1, came := now }
    let d := match p.open'.get none f.vc with
      | some y => d.badMsg now n y
      | none => d
    let d := (d.takeTokens now n f.vc m).timeArrives now n x.msg
    if f.lastf then done (d.modPort n fun p => { p with open' := p.open'.set none f.vc none }) x
    else d.modPort n fun p => { p with open' := p.open'.set none f.vc (some x) }
  | .data, _ =>
    match p.open'.get none f.vc with
    | none => (d.protoError now n 0).modPort n fun p => p.freeBatons f.vc 1
    | some y =>
      let x := { y with msg := { y.msg with data := y.msg.data ++ f.data }, flits := y.flits + 1 }
      let d := d.takeTokens now n f.vc y.msg
      if f.lastf then done (d.modPort n fun p => { p with open' := p.open'.set none f.vc none }) x
      else d.modPort n fun p => { p with open' := p.open'.set none f.vc (some x) }
  | _, _ => (d.protoError now n 0).modPort n fun p => p.freeBatons f.vc 1

/-- The link header of a flit that passed its CRC (R301, R302, R304): the acknowledgement frees the replay buffer, BCUM
returns Batons, NAK asks for a replay. -/
def Dev.linkHeader (d : Dev) (n : PortIx) (f : Flit) : Dev :=
  let p := d.port n
  let covered (g : Flit) : Bool := decide ((f.ack + 4096 - g.seq) % 4096 < 2048)
  let kept := p.replay.filter fun g => !covered g
  let back := (f.bcum + 4096 - p.bcumIn.get 0 f.bvc) % 4096
  let p := { p with
    replay := kept
    replaysRow := if kept.length < p.replay.length then 0 else p.replaysRow
    resend := if f.nak then kept else p.resend.filter fun g => !covered g
    bcumIn := p.bcumIn.set 0 f.bvc f.bcum
    unpaid := p.unpaid.filter fun q => kept.any fun g => g.seq == q
    batons := p.batons.modify 0 f.bvc (· + back) }
  let d := d.setPort n p
  if f.nak ∧ kept ≠ [] then
    (d.modPort n fun p => { p with replaysRow := p.replaysRow + 1 }).modReg (.linkPerr n) fun w => satAdd w 63 48 1
  else d

/-- Eight replays in a row without progress begin a retrain (R302). -/
def Dev.replayLimit (d : Dev) (now : Nat) (n : PortIx) : Dev := if 8 ≤ (d.port n).replaysRow then d.retrain now n else d

/-- The next key and salt of a direction (R316), from the current ones. -/
def nextKey (key : List Byte) : List Byte := hkdf384 key [] (Config.keyInfo 2) 36

/-- The receiver of a flit that has passed its tag counts it; a KPH that changes brings the next key (R316). -/
def Port.heardFlit (p : Port) (f : Flit) : Port :=
  if f.kph = p.kphRx then p else { p with kphRx := f.kph, rxKey := nextKey p.rxKey, rxCtr := 1 }

/-- Whether a flit is one the decoder can correct: at most 15 symbols of its codewords are in error (R293). -/
def FlitCheck.fec (k : FlitCheck) : Bool := decide (k.symbols ≤ 15)

/-- Whether the CRC of a flit holds (R294). -/
def FlitCheck.crc (k : FlitCheck) : Bool := !crcFinds k.flips

/-- Whether its tag holds (R316): sealed under the expected key and counter, and unchanged since. -/
def FlitCheck.tag (k : FlitCheck) : Bool := k.keyOk && k.flips == []

/-- A flit reaches an UP port (R301, R316, R317): its 240 bytes as deciphered, and how they came. -/
def Dev.receive (d : Dev) (now : Nat) (n : PortIx) (f : Flit) (k : FlitCheck) : Dev :=
  let lost (d : Dev) : Dev := d.modPort n fun p => { p with nak := true, await := true }
  let d := d.modPort n fun p => { p with rxCtr := p.rxCtr + 1 }
  if !k.fec then
    lost ((d.modReg (.linkPfec n) fun w => satAdd w 31 16 1).record now .linkUncorr 0 n.val
      (idUnit d.devId (portPart n).val (369 + n.val % 8)))
  else
    let d := d.modReg (.linkPfec n) fun w => setFld (satAdd w 63 32 k.symbols) 3 0 (max (fld w 3 0) (min 15 k.symbols))
    if !k.crc then lost d
    else if !k.tag then
      let r := d.authFails now n
      if r.1 then r.2 else r.2.retrain now n
    else
      let d := ((d.modPort n fun p => p.heardFlit f).linkHeader n f).replayLimit now n
      if f.kind = .idle then d
      else
        let want := ((d.port n).ackRx + 1) % 4096
        if f.seq = want then
          let d := d.modPort n fun p => { p with ackRx := f.seq, nak := false, await := false }
          -- a flit for which its sender held no Baton (log entry 134)
          if d.rxSize n f.vc ≤ d.rxHeld n f.vc then d.protoError now n 0 else d.body now n f
        else if (want + 4096 - f.seq) % 4096 ≤ 2048 then d
        else d.modPort n fun p => if p.await then p else { p with nak := true, await := true }

-- sending

/-- Whether a queued message has been begun: its header flit has left. -/
def TxMsg.begun (t : TxMsg) : Bool := t.flits.head?.any fun f => f.kind == .data

/-- Whether a flit carries the message with which this end announces its next key. -/
def Flit.isKeyUpdate (f : Flit) : Bool := f.kind == .header && f.trans.any fun m => m.op == 0x12 && (f.data.getD 0 0).toNat == 4

/-- The message a virtual channel sends from next (R305): the one begun, then one that announces a key, else round robin over the
sources after the one served last. -/
def Port.nextTx (p : Port) (vc : Nat) : Option Nat :=
  let l := p.txq.zipIdx.filter fun t => t.1.vc == vc
  match (l.find? fun t => t.1.begun).orElse fun _ => l.find? fun t => t.1.flits.any Flit.isKeyUpdate with
  | some t => some t.2
  | none =>
    let last := p.lastSrc.get 0 vc
    let rank (s : Nat) : Nat := (s + 256 - (last + 1)) % 256
    match l with
    | [] => none
    | t :: r => some (r.foldl (fun b x => if rank x.1.src < rank b.1.src then x else b) t).2

/-- The virtual channel to send on (R305): management, response, then request and reduction in turn; none without a flit
and a Baton, or with the replay buffer full (R302, R304). -/
def Port.nextVc (p : Port) : Option Nat :=
  let ready (vc : Nat) : Bool := decide (0 < p.batons.get 0 vc) && (p.nextTx vc).isSome
  if 2048 ≤ p.replay.length then none
  else (if p.redNext then [3, 1, 2, 0] else [3, 1, 0, 2]).find? ready

/-- A TIME flit is stamped as it crosses the SerDes (R300, R328): T1 its own time, T2 and T3 of the Partner's last one. -/
def Port.stamp (p : Port) (now : Nat) (f : Flit) : Flit :=
  if f.kind = .header ∧ f.trans.any (fun m => m.op == 0x11) then
    { f with data := padTo 216 0 (leBytes 8 now ++ leBytes 8 p.timeT2 ++ leBytes 8 p.timeT1) }
  else f

/-- The link header fields built afresh for a transmission (R295). -/
def Port.dress (p : Port) (now : Nat) (f : Flit) : Flit :=
  { p.stamp now f with
    trans := if f.kind = .header then f.trans else none
    ack := p.ackRx, nak := p.nak, kph := p.kphTx, bvc := p.bvc, bcum := p.bcumOut.get 0 p.bvc }

/-- After a transmission: NAK has been said, BVC and the transmit counter advance. -/
def Port.sent (p : Port) : Port := { p with nak := false, bvc := (p.bvc + 1) % 4, txCtr := p.txCtr + 1 }

/-- A flit leaves (R293, R294, R316): sealed; with the fifth of a pair the two codewords go out. -/
def Dev.sendFlit (d : Dev) (now : Nat) (n : PortIx) (f : Flit) : Dev :=
  let p := d.port n
  let z := p.dress now f
  let l := p.pair ++ [sealFlit p.txKey p.txCtr z.clear]
  let d := (d.setPort n { p.sent with pair := if l.length < 5 then l else [] }).emit (.flit n z p.txCtr)
  if l.length < 5 then d else d.emit (.codewords n (codewordPair l).1 (codewordPair l).2)

/-- This end announces its next key (R316). -/
def Dev.announceKey (d : Dev) (n : PortIx) : Dev := (d.manage n 0x12 [4]).modPort n fun p => { p with updating := true }

/-- The announcement of the next key has been sent: from here on the port sends under it, and counts from 0. -/
def Port.turnKey (p : Port) : Port :=
  { p with kphTx := !p.kphTx, txKey := nextKey p.txKey, txCtr := 0, updating := false }

/-- Where the transmit counter calls for the next key, whatever else (R316): far enough below 2^36 that what must be sent again first
cannot use it up (log entry 91). -/
def keyLimit : Nat := 2 ^ 36 - 2 ^ 13

/-- Batons withheld while the bucket was empty are returned (R324). -/
def Dev.returnOwed (d : Dev) (now : Nat) (n : PortIx) : Dev :=
  let l := d.bucketLevel now n
  d.modPort n fun p =>
    if l ≤ 0 then p
    else { p with
      bcumOut := p.owed.foldl (fun b o => b.modify 0 o.1 fun v => (v + o.2) % 4096) p.bcumOut
      owed := [], bucket := l, bucketAt := now }

/-- Send a flit again (R302); after a retrain it takes a Baton of the new advertisement, and waits for one. -/
def Dev.sendAgain (d : Dev) (now : Nat) (n : PortIx) (f : Flit) (r : List Flit) : Dev :=
  let p := d.port n
  if !p.unpaid.contains f.seq then (d.modPort n fun p => { p with resend := r }).sendFlit now n f
  else if p.batons.get 0 f.vc = 0 then d.sendFlit now n { seq := f.seq }
  else (d.modPort n fun p => { p with
    resend := r, unpaid := p.unpaid.filter (· != f.seq), batons := p.batons.modify 0 f.vc (· - 1) }).sendFlit now n f

/-- Send flit `f` of message `i` of the queue, of which `r` is still to come. -/
def Dev.sendNew (d : Dev) (now : Nat) (n : PortIx) (vc i : Nat) (t : TxMsg) (f : Flit) (r : List Flit) : Dev :=
  let f := { f with seq := (d.port n).seqTx, vc := vc }
  let d := (d.modPort n fun p => { p with
    seqTx := (p.seqTx + 1) % 4096, replay := p.replay ++ [f]
    batons := p.batons.modify 0 vc (· - 1)
    lastSrc := p.lastSrc.set 0 vc t.src
    redNext := if vc = 0 then true else if vc = 2 then false else p.redNext
    txq := if r = [] then p.txq.eraseIdx i else p.txq.set i { t with flits := r } }).sendFlit now n f
  let d := if f.isKeyUpdate then d.modPort n Port.turnKey else d
  -- a flit in transit leaves the receive buffer of the port it came through
  match portIx (t.src - 16) with
  | some m => if 16 ≤ t.src then d.modPort m fun q => q.freeBatons vc 1 else d
  | none => d

/-- Send the next flit of a port (R302, R305, R316): one to be sent again, else a new one, else an idle flit. -/
def Dev.transmit (d : Dev) (now : Nat) (n : PortIx) : Dev :=
  let d := d.returnOwed now n
  let d := if keyLimit ≤ (d.port n).txCtr && !(d.port n).updating then d.announceKey n else d
  let p := d.port n
  let next := p.nextVc.bind fun vc => (p.nextTx vc).bind fun i => (p.txq[i]?).map fun t => (vc, i, t)
  let update := p.resend == [] && next.any fun x => x.2.2.flits.any Flit.isKeyUpdate
  if 2 ^ 36 ≤ p.txCtr + 1 ∧ !update then d
  else match p.resend, next with
    | f :: r, _ => d.sendAgain now n f r
    | [], none => d.sendFlit now n { seq := p.seqTx }
    | [], some (vc, i, t) => match t.flits with
      | [] => d
      | f :: r => d.sendNew now n vc i t f r

end Sys2Proof.Machine
end

