-- ==== Sys2Proof/Machine/Links.lean ====
section
/-! DEFINITION. The commands on optical ports (R301 … R329, R433): flits, training, authentication, roles, the link
registers. -/

namespace Sys2Proof.Machine

/-- FLIT_RECEIVE (R294, R301): 240 deciphered bytes and how they came. A port that is not UP accepts no traffic. -/
def execFlitReceive (n : PortIx) (clear : List Byte) (k : FlitCheck) (s : State) : Ans :=
  .next (s.when (s.dev.portState n == 5) (s.onDev fun d => d.receive s.now n (Flit.parse clear) k))

/-- FLIT_TRANSMIT (R305). -/
def execFlitTransmit (n : PortIx) (s : State) : Ans :=
  .next (s.when (s.dev.portState n == 5) (s.onDev fun d => d.transmit s.now n))

/-- NAK_REPEAT_TIMEOUT (R301). -/
def execNakRepeatTimeout (n : PortIx) (s : State) : Ans :=
  .next (s.when ((s.dev.port n).await) (s.onDev fun d => d.modPort n fun p => { p with nak := true }))

/-- REPLAY_TIMEOUT (R302): replay from the oldest flit outstanding; the eighth in a row begins a retrain. -/
def execReplayTimeout (n : PortIx) (s : State) : Ans :=
  .next (s.when (s.dev.portState n == 5 && (s.dev.port n).replay != []) (s.onDev fun d =>
    ((d.modPort n fun p => { p with resend := p.replay, replaysRow := p.replaysRow + 1 }).modReg (.linkPerr n)
      fun w => satAdd w 63 48 1).replayLimit s.now n))

/-- Whether a virtual channel has a flit waiting for Batons; a full replay buffer counts as waiting (R307). -/
def Port.starved (p : Port) (vc : Nat) : Bool :=
  (p.nextTx vc).isSome && (p.batons.get 0 vc == 0 || decide (2048 ≤ p.replay.length))

/-- VC_SATURATION (R307, R337). -/
def execVcSaturation (n : PortIx) (vc : Fin 4) (s : State) : Ans :=
  .next (s.when (s.dev.portState n == 5 && (s.dev.port n).starved vc.val) (s.onDev fun d =>
    (d.modReg (.linkPstat n) fun w => setFld (setBit w 55 true) 54 53 vc.val).record s.now .saturated
      (0x1000 + 64 * vc.val + n.val) 0 (idRemote (d.port n).peerDev)))

/-- NOTICE_RECEIVE (R327): messages held for the cores of the partition or device named become stale. -/
def execNoticeReceive (n : PortIx) (s : State) : Ans :=
  .next (s.withMsg n 3 (fun m => m.op == 0x14) fun m s => s.onDev fun d => d.staleChans fun id =>
    nbits id 31 28 == 1 && idDevice id == m.src && (m.byte 0 == 1 || nbits id 11 9 == m.byte 1 % 8))

/-- Whether the oldest message of a port is a CTL message with this SUB (R300). -/
def Msg.isCtl (m : Msg) (sub : Nat) : Bool := m.op == 0x12 && m.byte 0 == sub

/-- The result of the last swap. -/
def Dev.swapResult (d : Dev) (n : PortIx) (r : Nat) : Dev := d.modReg (.linkPstat n) fun w => setFld w 58 56 r

/-- Whether this end leads. -/
def Dev.leads (d : Dev) (n : PortIx) : Bool := bit (d.reg (.linkPstat n)) 59

/-- Set which end leads. -/
def Dev.setLead (d : Dev) (n : PortIx) (b : Bool) : Dev := d.modReg (.linkPstat n) fun w => setBit w 59 b

/-- SWAP_REQ (R314): answered and the roles exchanged; two requests that meet are decided by the lower serial. -/
def execSwapReq (n : PortIx) (s : State) : Ans :=
  .next (s.withMsg n 3 (fun m => m.isCtl 1) fun _ s => s.onDev fun d =>
    if (d.port n).swapOut then
      let win := decide (s.nv.part.serial.toNat < (d.port n).serial.toNat)
      ((d.modPort n fun p => { p with swapOut := false }).setLead n win).swapResult n (if win then 1 else 2)
    else (d.setLead n (!d.leads n)).manage n 0x12 [2])

/-- SWAP_ACK (R314): the roles are exchanged and the request completes with DONE. -/
def execSwapAck (n : PortIx) (s : State) : Ans :=
  .next (s.withMsg n 3 (fun m => m.isCtl 2) fun _ s => s.onDev fun d =>
    if (d.port n).swapOut then
      ((d.modPort n fun p => { p with swapOut := false }).setLead n (!d.leads n)).swapResult n 1
    else d)

/-- RETRAIN_REQ (R313): the lead begins the retrain its Partner asked for. -/
def execRetrainReq (n : PortIx) (s : State) : Ans :=
  .next (s.withMsg n 3 (fun m => m.isCtl 3) fun _ s => s.onDev fun d => if d.leads n then d.retrain s.now n else d)

/-- KEY_UPDATE (R316): a message of the Partner that announces its next key is taken; the key is the one KPH names from there
on. With none waiting, the port announces its own next key, which it turns to once that announcement has been sent. -/
def execKeyUpdate (n : PortIx) (s : State) : Ans :=
  .next (if ((s.dev.port n).oldest 3).any fun m => m.msg.isCtl 4 then s.onDev fun d => d.modPort n fun p => p.take 3
    else s.when (s.dev.portState n == 5 && !(s.dev.port n).updating) (s.onDev fun d => d.announceKey n))

/-- Whether a port is the next to be given a turn (R309): waiting, no other before it, fewer than 8 turns out. -/
def Dev.nextTurn (d : Dev) (n : PortIx) : Bool :=
  decide (d.turns < 8) && match (d.port n).turn with
    | none => false
    | some t => (List.finRange 64).all fun m => match (d.port m).turn with
      | none => true
      | some u => decide (t < u ∨ (t = u ∧ n.val ≤ m.val))

/-- TRAINING_TURN (R309, R310): the port trains, telling the Partner at a first training who it is; an UP link that retrains stays in
RETRAIN. -/
def execTrainingTurn (n : PortIx) (s : State) : Ans :=
  .next (s.when (s.dev.nextTurn n) (s.onDev fun d =>
    let d := d.modPort n fun p => { p with turn := none, holdsTurn := true, auth := .none, looping := false, hs := {} }
    let d := if (d.port n).known then d
      else d.emit (.slow n s.nv.part.serial d.devId (bit (d.reg (.linkPcfg n)) 1))
    if d.portState n = 6 then d else d.setPortState n 3))

/-- TURN_TIMEOUT (R309): a port with a turn that has heard no training gives it back; without light it is ABSENT. For a link
that retrains it is a failed training (R313). -/
def execTurnTimeout (n : PortIx) (light : Bool) (s : State) : Ans :=
  .next (s.when ((s.dev.port n).holdsTurn && (s.dev.port n).auth == .none) (s.onDev fun d =>
    if d.portState n = 6 then d.trainFails s.now n
    else
      let d := d.modPort n Port.idle
      if light then (d.setPortState n 1).askTurn n true else d.setPortState n 2))

/-- ABSENT_RETRY (R309). -/
def execAbsentRetry (n : PortIx) (s : State) : Ans :=
  .next (s.when (s.dev.portState n == 2 && (s.dev.port n).turn.isNone) (s.onDev fun d => d.askTurn n false))

/-- Whether a port is at a step of the handshake (R315). -/
def Dev.authAt (d : Dev) (n : PortIx) (a : AuthStep) : Bool :=
  let p := d.port n
  (d.portState n == 3 || d.portState n == 4 || d.portState n == 6) && p.holdsTurn && p.auth == a

/-- The bytes of HELLO (R315, log entry 136): serial, random bytes, public key. -/
def helloBytes (serial : Word) (rand key : List Byte) : List Byte := leBytes 8 serial.toNat ++ rand ++ key

/-- The messages of both ends for one step of the handshake: the lead's first (log entry 136). -/
def bothEnds (lead : Bool) (mine theirs : List Byte) : List Byte := if lead then mine ++ theirs else theirs ++ mine

/-- A step of R311 that misses its time fails the training: `ms` is its bound, counted here from HELLO, which comes after the start. -/
def State.tooLate (s : State) (n : PortIx) (ms : Nat) : Bool :=
  decide ((s.dev.port n).hs.since + 1000000 * ms < s.now)

/-- This end's ephemeral private key and 48 random bytes, free values. -/
def Dev.handshakeSecret (d : Dev) : Nat × List Byte :=
  (ofLe ((List.range 48).map (freeByte d.freeCtr)) % (curveN - 1) + 1, (List.range 48).map (freeByte (d.freeCtr + 6)))

/-- AUTH_HELLO (R310, R315): the Partner's serial, identifier and lead preference, its random bytes and key; this end's HELLO and CERT
go out. At a first training the roles are fixed: one LEADPREF alone leads, else the lower serial; at a retrain they stay. -/
def execAuthHello (n : PortIx) (h : Hello) (s : State) : Ans :=
  .next (s.when (s.dev.authAt n .none) (s.onDev fun d =>
    let mine := bit (d.reg (.linkPcfg n)) 1
    let lead := if mine != h.leadpref then mine else decide (s.nv.part.serial.toNat < h.serial.toNat)
    let d := if (d.port n).known then d else d.setLead n lead
    let (k, rand) := d.handshakeSecret
    let hello := helloBytes s.nv.part.serial rand (publicKey k)
    let order := if d.leads n then 1 else 2
    let d := ((d.spend 12).emit (.handshake n order hello)).emit (.handshake n 3 Config.deviceCerts)
    let d := d.modPort n fun p => { p with
      auth := .hello, serial := h.serial, peerDev := h.device % 65536
      hs := { secret := k, key := h.key, since := s.now, heard := bothEnds (d.leads n) hello (helloBytes h.serial h.rand h.key) } }
    if d.portState n = 3 then d.setPortState n 4 else d))

/-- The certificate in a trust anchor slot (R427): slot 0 holds the root. -/
def Vault.anchor (v : Vault) (i : Nat) : Certificate :=
  if i = 0 then Config.rootAnchor else v.anchors.getD (i - 1) Config.rootAnchor

/-- The public keys that verify the certificates of a chain: each the next one's, the last the trust anchor's. -/
def Vault.issuers (v : Vault) (k : Cert) : List (List Byte) :=
  (k.certs.drop 1).map (·.key) ++ [(v.anchor k.anchor).key]

/-- Whether a Partner's certificate chain passes (R315, R429): its serial, at most three certificates with the trust anchor, which the
Vault holds, none revoked, every signature good. -/
def Nv.chainOk (nv : Nv) (serial : Word) (k : Cert) : Bool :=
  decide (1 ≤ k.certs.length ∧ k.certs.length ≤ 2 ∧ k.anchor ≤ min 3 nv.vault.anchors.length) &&
    k.certs.head?.any (fun c => c.subject == serial) && !(k.certs.any fun c => nv.vault.revoked.contains c.serial) &&
    !nv.vault.revoked.contains (nv.vault.anchor k.anchor).serial &&
    (k.certs.zip (nv.vault.issuers k)).all fun e => ecdsaOk e.2 e.1.signed e.1.sig

/-- AUTH_CERT (R315): the Partner's certificates, at most 4 KiB, are received, and this end signs every message so far. -/
def execAuthCert (n : PortIx) (k : Cert) (s : State) : Ans :=
  .next (s.when (s.dev.authAt n .hello) (s.onDev fun d =>
    if 4096 < k.der.length then d.handshakeFails s.now n
    else if s.tooLate n 35 then d.trainFails s.now n
    else
      let heard := (d.port n).hs.heard ++ bothEnds (d.leads n) Config.deviceCerts k.der
      let sig := ecdsaSign Config.deviceKey (Config.signSecret heard) heard
      (d.modPort n fun p => { p with
        auth := .cert, chain := k.certs.map (·.serial), hs := { p.hs with cert := k, sig := sig, heard := heard } }).emit
        (.handshake n 4 sig)))

/-- The keys of a link (R315): key and salt of the direction from the lead and of the one toward it, from the shared secret and the
hash of the handshake. -/
def linkKey (secret heard : List Byte) (fromLead : Bool) : List Byte :=
  hkdf384 secret (sha384 heard) (Config.keyInfo (if fromLead then 0 else 1)) 36

/-- AUTH_VERIFY (R315, R429, R433): the Partner's signature over the handshake and its chain are checked against the Vault as it is
now; the keys are derived and this end's FINISHED, the first flit under them, goes out. -/
def execAuthVerify (n : PortIx) (sig : List Byte) (s : State) : Ans :=
  .next (s.when (s.dev.authAt n .cert) (s.onDev fun d =>
    let p := d.port n
    let h := p.hs
    match ecdhSecret h.secret h.key with
    | none => d.handshakeFails s.now n
    | some z =>
      if !(s.nv.chainOk p.serial h.cert && h.cert.certs.head?.any fun c => ecdsaOk c.key h.heard sig) then d.handshakeFails s.now n
      else if s.tooLate n 35 then d.trainFails s.now n
      else
        let heard := h.heard ++ bothEnds (d.leads n) h.sig sig
        let tx := linkKey z heard (d.leads n)
        (d.modPort n fun p => { p with
          auth := .verify, txKey := tx, rxKey := linkKey z heard (!d.leads n), txCtr := 1, rxCtr := 0, kphTx := false, kphRx := false,
          pair := [], hs := { h with heard := heard } }).emit (.handshake n 7 (sealFlit tx 0 ({} : Flit).clear))))

/-- AUTH_FINISHED (R303, R315): the Partner's first encrypted flit proves the keys; each end advertises its buffers, and this one holds
a Baton for each flit the Partner has. -/
def execAuthFinished (n : PortIx) (tagOk : Bool) (req rsp red : Nat) (s : State) : Ans :=
  .next (s.when (s.dev.authAt n .verify) (s.onDev fun d =>
    if !tagOk then d.handshakeFails s.now n
    else if s.tooLate n 38 then d.trainFails s.now n
    else
      (d.modPort n fun p => { p with
        auth := .finished, batons := (((Tbl.set 0 ([] : Tbl Nat) 0 req).set 0 1 rsp).set 0 2 red).set 0 3 64, rxCtr := 1 }).emit
        (.advert n (d.rxSize n 0) (d.rxSize n 1) (d.rxSize n 2) (d.rxSize n 3))))

/-- Decisions kept at this device for children on a port are sent again when its link returns (R278). -/
def Dev.resendDecisions (d : Dev) (n : PortIx) : Dev :=
  (d.hurdles.map (·.1)).foldl (fun d h =>
    let x := d.hurdle h
    match x.decided with
    | some (g, r) =>
      if x.span ∧ bit (d.spanHi x.slot) n.val then
        match r with
        | some flag => d.sendHurdle n h g 2 flag 0
        | none => d.sendHurdle n h g 3 false x.code
      else d
    | none => d) d

/-- TRAINING_COMPLETE (R311, R312): UP. After a retrain with the same Partner SEQ goes on and everything unacknowledged is sent
again, each flit against a Baton of the new advertisement; otherwise SEQ starts from 0 and what was queued is answered LINK_DOWN. NEWPEER is set at a first training and for another
Partner. -/
def execTrainingComplete (n : PortIx) (s : State) : Ans :=
  .next (s.when (s.dev.authAt n .finished) (s.onDev fun d =>
    let p := d.port n
    let same := p.known && d.reg (.linkPeer n) == p.serial
    if s.tooLate n 40 then d.trainFails s.now n else
    let d := if same && d.portState n == 6 then d.modPort n fun p => { p with resend := p.replay, unpaid := p.replay.map (·.seq) }
      else (d.dropTraffic s.now n).modPort n fun p =>
        { p with seqTx := 0, ackRx := 4095, nak := false, await := false, open' := [] }
    let d := if same then d else d.flagPort n 52
    let d := d.modPort n fun p =>
      { p.idle with known := true, fails := 0, bcumIn := [], bcumOut := [], owed := [], looping := false
                    downOk := false }
    let d := (d.setReg (.linkPeer n) p.serial).modReg (.linkPstat n) fun w => setFld w 47 32 p.peerDev
    (d.setPortState n 5).resendDecisions n))

/-- TRAINING_FAILURE (R311, R313). -/
def execTrainingFailure (n : PortIx) (s : State) : Ans :=
  .next (s.when ((s.dev.port n).holdsTurn) (s.onDev fun d => d.trainFails s.now n))

/-- LOOPBACK_TEST_DONE (R313, R329): a port in DOWN that fails it is for Firmware to retire; one that passes tries again. -/
def execLoopbackTestDone (n : PortIx) (pass : Bool) (s : State) : Ans :=
  .next (s.when ((s.dev.port n).looping) (s.onDev fun d =>
    let d := (d.modPort n fun p => { p with looping := false, downOk := pass }).modReg (.linkPstat n)
      fun w => setFld w 49 48 (if pass then 1 else 2)
    if !pass && d.portState n == 7 then d.change s.now (.port n) else d))

/-- DOWN_RETRY (R313). -/
def execDownRetry (n : PortIx) (s : State) : Ans :=
  .next (s.when (s.dev.portState n == 7 && (s.dev.port n).downOk && (s.dev.port n).turn.isNone) (s.onDev fun d =>
    d.askTurn n false))

/-- CODEWORD_LOCK_LOSS (R313). -/
def execCodewordLockLoss (n : PortIx) (s : State) : Ans :=
  .next (s.when (s.dev.portState n == 5) (s.onDev fun d => d.retrain s.now n))

/-- A RETRAIN command (R313): the lead retrains, the follower asks the lead; during a retrain it is merged; in any other state
it is refused. -/
def Dev.cmdRetrain (d : Dev) (now : Nat) (n : PortIx) : Dev :=
  if d.portState n = 6 then d
  else if d.portState n ≠ 5 then d.flagPort n 51
  else if d.leads n then d.retrain now n
  else (d.manage n 0x12 [3]).modPort n fun p => { p with retrainAsk := true }

/-- A SWAP command (R314). -/
def Dev.cmdSwap (d : Dev) (n : PortIx) : Dev :=
  let p := d.port n
  if d.portState n = 6 ∨ p.calib ∨ p.swapOut then d.swapResult n 4
  else if d.portState n ≠ 5 then d.swapResult n 3
  else (d.manage n 0x12 [1]).modPort n fun p => { p with swapOut := true }

/-- A RELEASE command (R317): a quarantined port may train again. -/
def Dev.cmdRelease (d : Dev) (n : PortIx) : Dev :=
  if d.portState n ≠ 8 then d.flagPort n 51
  else ((d.setPortState n 0).modPort n fun p => { p.idle with authFails := [], fails := 0 }).lightPort n

/-- A LOOPTEST command (R329): in DOWN or QUARANTINED only. -/
def Dev.cmdLooptest (d : Dev) (n : PortIx) : Dev :=
  if d.portState n = 7 ∨ d.portState n = 8 then d.modPort n fun p => { p with looping := true } else d.flagPort n 51

/-- A write of LINK_PCMD by its CMD; a reserved one sets BADCMD (R329). -/
def Dev.pcmdWrite (d : Dev) (now : Nat) (n : PortIx) (v : Word) : Dev :=
  match fld v 63 60 with
  | 1 => d.cmdRetrain now n
  | 2 => d.cmdSwap n
  | 3 => d.cmdRelease n
  | 4 => d.cmdLooptest n
  | _ => d.flagPort n 50

@[inherit_doc Dev.cmdRetrain]
def execLinkRetrainCmd (o : Origin) (n : PortIx) (s : State) : Ans :=
  .next (s.regWrite o (.linkPcmd n) fun s => s.onDev fun d => d.cmdRetrain s.now n)

@[inherit_doc Dev.cmdSwap]
def execLinkSwapCmd (o : Origin) (n : PortIx) (s : State) : Ans :=
  .next (s.regWrite o (.linkPcmd n) fun s => s.onDev fun d => d.cmdSwap n)

@[inherit_doc Dev.cmdRelease]
def execLinkReleaseCmd (o : Origin) (n : PortIx) (s : State) : Ans :=
  .next (s.regWrite o (.linkPcmd n) fun s => s.onDev fun d => d.cmdRelease n)

@[inherit_doc Dev.cmdLooptest]
def execLinkLooptestCmd (o : Origin) (n : PortIx) (s : State) : Ans :=
  .next (s.regWrite o (.linkPcmd n) fun s => s.onDev fun d => d.cmdLooptest n)

/-- LINK_PCMD with a reserved CMD (R329) sets BADCMD. -/
def execLinkPcmdBadcmd (o : Origin) (n : PortIx) (v : Word) (s : State) : Ans :=
  .next (s.regWrite o (.linkPcmd n) fun s =>
    s.when (decide (fld v 63 60 = 0 ∨ 5 ≤ fld v 63 60)) (s.onDev fun d => d.pcmdWrite s.now n v))

/-- A write of LINK_PCFG (R309, R329): clearing EN takes the port to DARK and answers its traffic with LINK_DOWN; a retired or
quarantined port stays what it is. -/
def State.portCfgWrite (s : State) (n : PortIx) (v : Word) : State :=
  let s := s.onDev fun d => d.modReg (.linkPcfg n) fun w => storeTyped (.linkPcfg n) w v
  let st := s.dev.portState n
  if bit v 0 then s.when (s.nv.portGood n) (s.onDev fun d => d.lightPort n)
  else s.when (st != 0 && st != 8 && st != 9) (s.onDev fun d =>
    let d := (d.setPortState n 0).modPort n fun p => { p.idle with fails := 0, looping := false, downOk := false }
    ((d.dropTraffic s.now n).loseLink s.now n).staleLost n)

/-- PORT_CONFIG_WRITE. -/
def execPortConfigWrite (o : Origin) (n : PortIx) (v : Word) (s : State) : Ans :=
  .next (s.regWriteV o (.linkPcfg n) v fun s => s.portCfgWrite n v)

/-- Whether DEVID may be written (R318): every port DARK, DOWN, QUARANTINED or RETIRED. -/
def Dev.devidFree (d : Dev) : Bool :=
  (List.finRange 64).all fun n => [0, 7, 8, 9].contains (d.portState n)

/-- A write of LINK_GCFG (R318, R329): DEVID is taken only while no port is in use, is persisted, and lets dark ports train. -/
def State.gcfgWrite (s : State) (v : Word) : State :=
  let old := s.dev.reg .linkGcfg
  let new := storeTyped .linkGcfg old v
  if fld v 63 48 = fld old 63 48 then s.onDev fun d => d.setReg .linkGcfg new
  else if s.dev.devidFree then
    ((s.onNv fun nv => nv.keepReg .linkGcfg (setFld ((nv.keptReg .linkGcfg).getD (Reg.reset .linkGcfg)) 63 48 (fld v 63 48))).onDev fun d => d.setReg .linkGcfg new).lightPorts
  else s.onDev fun d => d.setReg .linkGcfg (setBit (setFld new 63 48 (fld old 63 48)) 0 true)

/-- DEVID_WRITE. -/
def execDevidWrite (o : Origin) (v : Word) (s : State) : Ans := .next (s.regWriteV o .linkGcfg v fun s => s.gcfgWrite v)

/-- A write of LINK_VCBUF (R303, R329): in DARK, WAIT, ABSENT or DOWN only, fields of at least 64, at most 3008 in all. -/
def Dev.vcbufWrite (d : Dev) (n : PortIx) (v : Word) : Dev :=
  let a := fld v 47 32; let b := fld v 31 16; let c := fld v 15 0
  if [0, 1, 2, 7].contains (d.portState n) ∧ 64 ≤ a ∧ 64 ≤ b ∧ 64 ≤ c ∧ a + b + c ≤ 3008 then
    d.modReg (.linkVcbuf n) fun w => storeTyped (.linkVcbuf n) w v
  else d.flagPort n 51

/-- VCBUF_WRITE. -/
def execVcbufWrite (o : Origin) (n : PortIx) (v : Word) (s : State) : Ans :=
  .next (s.regWrite o (.linkVcbuf n) fun s => s.onDev fun d => d.vcbufWrite n v)

/-- LINK_WIN (R323). Accesses are whole within one command, so none is under way under the old value. -/
def execWindowWrite (o : Origin) (w : Fin 64) (half : Fin 2) (v : Word) (s : State) : Ans :=
  .next (s.regWrite o (.linkWin w half) fun s => s.onDev fun d =>
    d.modReg (.linkWin w half) fun x => storeTyped (.linkWin w half) x v)

/-- Requests of control processors that were issued through a part of the address map and have not been answered. -/
def Dev.openIn (d : Dev) (p : Nat → Bool) : List Nat :=
  d.reqs.filterMap fun e => e.2.bind fun q => if p q.addr && (match q.st with
    | .done _ => false
    | _ => true) then some e.1 else none

/-- The accesses through a slot that have still to complete (R322): requests of control processors, requests to other devices. -/
def Dev.slotUsers (d : Dev) (sl : Fin 4096) : List Nat × List Nat :=
  let via (a : Nat) : Bool := a / 2 ^ 40 == sl.val
  (d.openIn via, d.remotes.filterMap fun e => e.2.bind fun r => if via r.issued then some e.1 else none)

/-- A write of LINK_SLOT (R322): slot 0 ignores writes; the write waits until every access issued through the slot before it has
completed; one issued while it waits takes the new value. -/
def State.slotWrite (s : State) (sl : Fin 4096) (v : Word) : State :=
  s.when (sl.val != 0) (s.onDev fun d =>
    let u := d.slotUsers sl
    if d.hostWait != [] || u != ([], []) then { d with hostWait := d.hostWait ++ [.slot sl v u.1 u.2] }
    else d.modReg (.linkSlot sl) fun x => storeTyped (.linkSlot sl) x v)

/-- SLOT_WRITE. -/
def execSlotWrite (o : Origin) (sl : Fin 4096) (v : Word) (s : State) : Ans :=
  .next (s.regWrite o (.linkSlot sl) fun s => s.slotWrite sl v)

/-- LINK_PERR read (R329). -/
def execLinkPerrRead (o : Origin) (n : PortIx) (s : State) : Ans :=
  .next (s.readClear o (.linkPerr n) (s.dev.reg (.linkPerr n)))

/-- LINK_PFEC read (R329). -/
def execLinkPfecRead (o : Origin) (n : PortIx) (s : State) : Ans :=
  .next (s.readClear o (.linkPfec n) (s.dev.reg (.linkPfec n)))

/-- REMOTE_REQUEST_TIMEOUT (R325): the request ends as an error completion; its TAG is withheld for twice the timeout. -/
def execRemoteRequestTimeout (tag : Nat) (s : State) : Ans :=
  .next (match s.dev.sent (tag % 65536) with
    | none => s
    | some k => match s.dev.remote k with
      | none => s
      | some r => s.onDev fun d =>
        let ms := max 1 (fld (d.reg .linkGcfg) 47 32)
        let who := match r.who with
          | .core id => match d.reqs.get none id with | some q => idCore d.devId q.core | none => idHub d.devId
          | .dma c _ _ => idCore d.devId c
          | .mbx c _ _ => idCore d.devId c
          | .bar2 fn _ _ _ | .gone fn => idHost d.devId fn
        let d := { d with withheld := d.withheld.filter (fun w => decide (s.now < Prod.snd w)) ++ [(tag % 65536, s.now + 2 * ms * 1000000)] }
        let d := d.record s.now .linkTimeout r.issued r.msg.dst who
        d.finishRemote s.now k 1 [] 0)

/-- WAVELENGTH_CALIBRATION (R310): the lead begins or ends a calibration of an UP link without stopping traffic. -/
def execWavelengthCalibration (n : PortIx) (start : Bool) (s : State) : Ans :=
  .next (s.when (s.dev.portState n == 5 && s.dev.leads n) (s.onDev fun d => d.modPort n fun p => { p with calib := start }))

end Sys2Proof.Machine
end

