-- ==== Sys2Proof/Machine/Mailboxes.lean ====
section
/-! DEFINITION. Mailboxes and doorbells (R279 … R290): posts, takes, status reads, bindings. -/

namespace Sys2Proof.Machine

/-- The binding of a channel after warm and cold resets (R283); DEVICE follows the device identifier. -/
def bindAfterReset (dev n c : Nat) : Nat :=
  if 0x3F8 ≤ n ∧ n ≤ 0x3FB then idHost dev (if c < 16 then 0 else 1)
  else if 0x3FC ≤ n ∧ n ≤ 0x3FF then idFirmware dev
  else 0

/-- BIND of a channel. -/
def Dev.bindOf (d : Dev) (n c : Nat) : Nat := (d.chan n c).bind.getD (bindAfterReset d.devId n c)

/-- Where the epoch of an identity is kept: senders of this device without their DEVICE, others apart. -/
def Dev.epochKey (d : Dev) (id : Nat) : Nat :=
  if idDevice id = d.devId then id - 4096 * idDevice id else id + 2 ^ 32

/-- A sender's epoch as this device knows it (R281). -/
def Dev.epochOf (d : Dev) (id : Nat) : Nat := d.epochs.get 0 (d.epochKey id)

/-- MBX_CH as read (R282). -/
def Dev.mbxWord (d : Dev) (n c : Nat) : Word :=
  let x := d.chan n c
  let b := d.bindOf n c
  fput 63 32 b ||| fput 31 16 (if b = 0 then 0 else d.epochOf b) ||| fput 15 8 x.refused ||| fput 7 5 x.last |||
    fput 4 4 x.stale.toNat ||| fput 3 3 x.discarded.toNat ||| fput 2 2 x.mask.toNat ||| fput 1 1 x.db.toNat |||
    fput 0 0 x.full.toNat

/-- The MSI-X vector of a Host inbox (R419): function and vector. -/
def inboxVector (n : Nat) : Option (Nat × Nat) :=
  if n = 0x3FC then some (0, 0) else if n = 0x3FD then some (0, 1) else if n = 0x3FE then some (1, 0)
  else if n = 0x3FF then some (1, 1) else none

/-- Store a channel; a Host inbox whose doorbell rises sends its vector (R286, R420). -/
def Dev.putChan (d : Dev) (n c : Nat) (x : Chan) : Dev :=
  let was := d.doorbell n
  let d := d.setChan n c x
  match inboxVector n with
  | some (fn, v) => if !was && d.doorbell n then d.msix fn v else d
  | none => d

/-- Whether a mailbox has a receiver that can take a message now (R279, R284): a hub mailbox, or a good core that is not
in reset. -/
def State.hasReceiver (s : State) (n : Nat) : Bool :=
  decide (0x3F8 ≤ n ∧ n ≤ 0x3FF) || match s.nv.part.coreOf n with
    | some c => s.coreUp c
    | none => false

/-- A post by `id` (R284): its code and what it leaves. Words are 1 … 7. -/
def State.post (s : State) (n c id epoch : Nat) (words : List Word) : Nat × State :=
  let x := s.dev.chan n c
  let bound := s.dev.bindOf n c == id
  let last (r : Nat) : State := s.when bound (s.onDev fun d => d.setChan n c { x with last := r })
  if !s.hasReceiver n then (3, last 3)
  else if !bound then (2, s.onDev fun d => d.setChan n c { x with refused := min 255 (x.refused + 1) })
  else if x.full then (1, last 1)
  else
    let w0 := fput 63 48 epoch ||| fput 31 0 id
    (0, s.onDev fun d =>
      ({ d with epochs := d.epochs.set 0 (d.epochKey id) epoch }).putChan n c
        { x with words := w0 :: padTo 7 0 words, full := true, db := true, stale := false, last := 0 })

/-- The receiver takes the message (R285): FULL and DB clear, the words read as zero. -/
def Chan.take (x : Chan) : Chan := { x with words := [], full := false, db := false, stale := false }

/-- A receiver reset (R288): a message held is discarded. -/
def Chan.discard (x : Chan) : Chan := if x.full then { x.take with discarded := true } else x

/-- The mailbox number of a core: its logical core number (R279). -/
def State.mailbox (s : State) (c : CoreIx) : Nat := s.nv.part.logical c.val

/-- The stamp identity of a core (R280). -/
def State.stampId (s : State) (c : CoreIx) : Nat := idCore s.dev.devId c

/-- Whether an operand of MBX_SEND has a bit set that must be zero. -/
def mbxSendBad (v : Word) : Bool := v &&& 0x00007000E0C0003F != 0

/-- MBX_SEND (R284, R287): the message is read from the scratchpad share and posted here or on another device. -/
def State.mbxSend (s : State) (c : CoreIx) (rd : RegNum) (v : Word) : State :=
  let n := fld v 43 32
  let ch := fld v 28 24
  let off := 64 * fld v 21 6
  let k := s.dev.core c
  let done (s : State) (code : Nat) : State := s.onDev fun d => d.modCore c fun k => (k.setX rd (BitVec.ofNat 64 code)).retire
  if mbxSendBad v || decide (k.scratch < off + 64) then done s 4
  else
    let r := (k.raceView s.dev.freeCtr).read wordGran (s.dev.freeCtr + k.raceUsed) off 64
    let s := s.onDev fun d => (d.spend (k.raceUsed + r.used)).recordSramUe s.now c r
    if r.bad ≠ [] then s.trap c 30 (BitVec.ofNat 64 (windowBase + off))
    else
      let id := s.stampId c
      let words := (natWords 8 (ofLe r.bytes)).drop 1
      let dst := fld v 63 48
      if bit v 47 ∧ dst ≠ s.dev.devId then
        if 1024 ≤ n then done s 3
        else
          let w0 := fput 63 48 (s.dev.epochOf id) ||| fput 31 0 id
          let m : Msg := { src := 0, dst := dst, op := 5, len := 1, addr := n + 1024 * ch
                           data := leBytes 64 (wordsNat (w0 :: words)) }
          match s.dev.sendRemote s.now (corePart c).val (.mbx c rd false) m.addr m with
          | (some _, d) => done (s.onDev fun _ => d) 5
          | (none, d) => s.onDev fun _ => d.modCore c fun k => { k with stall := .remote 0 rd }
      else
        let r := s.post n ch id (s.dev.epochOf id) words
        done r.2 r.1

/-- MBX_SEND (R284, R287). -/
def execMbxSend (c : CoreIx) (rd : RegNum) (v : Word) (s : State) : Ans :=
  .next (s.issue c 4 fun s => s.mbxSend c rd v)

/-- MBX_RECV (R285, R287). -/
def execMbxRecv (c : CoreIx) (rd : RegNum) (v : Word) (s : State) : Ans :=
  .next (s.issue c 4 fun s =>
    let n := s.mailbox c
    let ch := fld v 28 24
    let off := 64 * fld v 21 6
    let x := s.dev.chan n ch
    let done (f : Dev → Dev) (code : Nat) : State :=
      s.onDev fun d => (f d).modCore c fun k => (k.setX rd (BitVec.ofNat 64 code)).retire
    if v &&& 0xFFFFFFFFE0C0003F ≠ 0 ∨ (s.dev.core c).scratch < off + 64 then done id 4
    else if !x.full then done id 1
    else done (fun d => (d.setChan n ch x.take).modCore c fun k => k.sramWrite off (leBytes 64 (wordsNat x.words))) 0)

/-- MBX_STAT (R287): MBX_CH of a channel; [23] clears DISCARDED for the bound sender. -/
def execMbxStat (c : CoreIx) (rd : RegNum) (v : Word) (s : State) : Ans :=
  .next (s.issue c 4 fun s =>
    let n := fld v 43 32
    let ch := fld v 28 24
    let dst := fld v 63 48
    if bit v 47 ∧ dst ≠ s.dev.devId then
      let m : Msg := { src := 0, dst := dst, op := 6, param := (bit v 23).toNat, addr := n % 1024 + 1024 * ch }
      match s.dev.sendRemote s.now (corePart c).val (.mbx c rd true) m.addr m with
      | (some _, d) => s.onDev fun _ => (d.modCore c fun k => (k.setX rd d.free).retire).spend 1
      | (none, d) => s.onDev fun _ => d.modCore c fun k => { k with stall := .remote 0 rd }
    else s.onDev fun d =>
      let w := if n < 1024 then d.mbxWord n ch else 0
      let d := if bit v 23 ∧ d.bindOf n ch = s.stampId c then
          d.setChan n ch { d.chan n ch with discarded := false } else d
      d.modCore c fun k => (k.setX rd w).retire)

/-- MBX_DB write (R287): a bit written 0 clears its channel's doorbell; writes set none. -/
def execMbxDbWrite (c : CoreIx) (v : Word) (s : State) : Ans :=
  .next (s.issue c 4 fun s => s.onDev fun d =>
    let n := s.mailbox c
    ((List.range 32).foldl (fun d ch =>
      if bit v ch then d else d.setChan n ch { d.chan n ch with db := false }) d).modCore c fun k => k.retire)

/-- MBX_MASK write (R287). -/
def execMbxMaskWrite (c : CoreIx) (v : Word) (s : State) : Ans :=
  .next (s.issue c 4 fun s => s.onDev fun d =>
    let n := s.mailbox c
    ((List.range 32).foldl (fun d ch => d.setChan n ch { d.chan n ch with mask := bit v ch }) d).modCore c fun k => k.retire)

/-- Where BAR4 begins in the offsets the model gives register commands (log entry 25). -/
def bar4Base : Nat := 0x4000000

/-- Key of a staged word of BAR4: each function has its own. -/
def bar4Key (fn off : Nat) : Nat := 0x100000 * fn + off

/-- HOST_MAILBOX_POST (R290): the write of word 7 posts words 1 … 6 staged by the same function. -/
def execHostMailboxPost (fn : Fin 2) (k : Fin 4) (ch : ChanIx) (w7 : Word) (s : State) : Ans :=
  .next (if !s.dev.hubUp then s.onDev fun d => d.emit (.abort fn.val (bar4Base + 0x800 * k.val + 64 * ch.val + 56))
    else
      let base := 0x800 * k.val + 64 * ch.val
      let words := (List.range 6).map fun i => s.dev.bar4.get 0 (bar4Key fn.val (base + 8 * (i + 1)))
      let id := idHost s.dev.devId fn.val
      (s.post (0x3F8 + k.val) ch.val id (s.dev.epochOf id) (words ++ [w7])).2)

/-- Whether Firmware takes the message of a channel of hub mailbox 0x3F8 + k now (R354, R357): from step 12 on, the messages stored
before it first, in ascending order of mailbox and channel. -/
def Dev.firmwareTakes (d : Dev) (k c : Nat) : Bool := d.ready && d.early.head?.all fun x => x == 32 * k + c

/-- Firmware has taken the message of a channel. -/
def Dev.firmwareTook (d : Dev) (k c : Nat) : Dev :=
  { d.setChan (0x3F8 + k) c (d.chan (0x3F8 + k) c).take with early := d.early.filter fun x => x != 32 * k + c }

/-- What waits in hub mailboxes 0x3F8 … 0x3FB, in ascending order (R357). -/
def Dev.waitingPosts (d : Dev) : List Nat := (List.range 128).filter fun x => (d.chan (0x3F8 + x / 32) (x % 32)).full

/-- Whether an origin receives a hub mailbox (R279). -/
def receives (o : Origin) (k : Nat) : Bool :=
  match o with
  | .firmware => decide (k < 4)
  | .fn0 => k == 4 || k == 5
  | .fn1 => k == 6 || k == 7

/-- An aligned read of BAR4 (R290): what it returns, and the block after it. A word of a hub mailbox reads to its receiver alone, whose
read of word 7 takes the message (R285); to another origin and from an empty channel it reads zero; a read of MBX_CH returns REFUSED
to 0 (R282); an offset not listed reads zero. -/
def Dev.bar4Read (d : Dev) (o : Origin) (off : Nat) : Word × Dev :=
  if off < 0x4000 then
    let k := off / 0x800
    let c := off / 64 % 32
    let w := off % 64 / 8
    let x := d.chan (0x3F8 + k) c
    if receives o k && x.full then
      (x.words.getD w 0, if w ≠ 7 then d else if k < 4 then d.firmwareTook k c else d.setChan (0x3F8 + k) c x.take)
    else (0, d)
  else if 0x4000 ≤ off ∧ off < 0x4800 then
    let n := 0x3F8 + (off - 0x4000) / 0x100
    let c := off % 0x100 / 8
    (d.mbxWord n c, d.setChan n c { d.chan n c with refused := 0 })
  else (0, d)

/-- HOST_MAILBOX_TAKE (R285, R290): a read of BAR4, by 64-byte line and word, as the receiver's of word 7 that takes a message. Firmware, which has no BAR4,
reads its mailboxes by the same offsets (log entry 25), and takes nothing before step 12 (R354). -/
def execHostMailboxTake (o : Origin) (line : Nat) (word : Fin 8) (s : State) : Ans :=
  let off := 64 * line + 8 * word.val
  .next (
    if o = .firmware ∧ off < 0x4000 ∧ !s.dev.firmwareTakes (off / 0x800) (off / 64 % 32) then s
    else if !s.dev.hubUp then s.onDev fun d => d.emit (.abort (originFn o) (bar4Base + off))
    else
      let r := s.dev.bar4Read o off
      s.onDev fun _ => r.2.emit (.read (originFn o) (bar4Base + off) r.1))

/-- A write of MBX_CH by an origin (R282): BIND by Firmware and function 1, refused with the whole write while FULL; MASK by
the receiver, Firmware and function 1; DB cleared by the receiver; DISCARDED by the bound sender. -/
def Dev.mbxChWrite (d : Dev) (o : Origin) (n c : Nat) (v : Word) : Dev :=
  let x := d.chan n c
  let rcv := decide (0x3F8 ≤ n) && receives o (n - 0x3F8)
  let boss := o != .fn0
  let b := fld v 63 32
  if boss && x.full && b != d.bindOf n c then d
  else
    let x := if boss && b != d.bindOf n c then { x with bind := some b } else x
    let x := if boss || rcv then { x with mask := bit v 2 } else x
    let x := if rcv && !bit v 1 then { x with db := false } else x
    let x := if bit v 3 && d.bindOf n c == idOrigin d.devId o then { x with discarded := false } else x
    d.putChan n c x

/-- MBX_BIND_WRITE (R282, R289). -/
def execMbxBindWrite (o : Origin) (n : Fin 1024) (ch : ChanIx) (v : Word) (s : State) : Ans :=
  .next (s.regWrite o (.mbxCh n ch) fun s => s.onDev fun d => d.mbxChWrite o n.val ch.val v)

/-- MBX_CH_READ (R282): REFUSED returns to 0. -/
def execMbxChRead (o : Origin) (n : Fin 1024) (ch : ChanIx) (s : State) : Ans :=
  .next (if !s.dev.answers o (.mbxCh n ch) then s.onDev fun d => d.emit (.abort (originFn o) (Reg.offset (.mbxCh n ch)))
    else s.onDev fun d =>
      (d.setChan n.val ch.val { d.chan n.val ch.val with refused := 0 }).emit
        (.read (originFn o) (Reg.offset (.mbxCh n ch)) (d.mbxWord n.val ch.val)))

/-- A BAR4 write other than a post (R290): a staged word 1 … 6 of an outbox, or MBX_CH of a hub mailbox; anything else is
ignored. -/
def State.bar4Write (s : State) (o : Origin) (off : Nat) (v : Word) : State :=
  let fn := originFn o
  if !s.dev.hubUp then s.onDev fun d => d.emit (.abort fn (bar4Base + off))
  else if off < 0x2000 ∧ off % 8 = 0 then
    let w := off % 64 / 8
    if 1 ≤ w ∧ w ≤ 6 then s.onDev fun d => { d with bar4 := d.bar4.set 0 (bar4Key fn off) v }
    else if w = 7 then
      let words := (List.range 6).map fun i => s.dev.bar4.get 0 (bar4Key fn (off / 64 * 64 + 8 * (i + 1)))
      let id := idHost s.dev.devId fn
      (s.post (0x3F8 + off / 0x800) (off / 64 % 32) id (s.dev.epochOf id) (words ++ [v])).2
    else s
  else if 0x4000 ≤ off ∧ off < 0x4800 ∧ off % 8 = 0 then
    s.onDev fun d => d.mbxChWrite o (0x3F8 + (off - 0x4000) / 0x100) (off % 0x100 / 8) v
  else s

end Sys2Proof.Machine
end

