-- ==== Sys2Proof/Machine/Operands.lean ====
section
/-! DEFINITION. The instructions of the control processor by name and operands (R92: RV64IMAFDC with Zicsr and Zifencei,
encoded as the RISC-V unprivileged specification states): 32-bit words and the 16-bit words of the C extension. The tensor
and vector opcodes of R71, R73, R121 and R122 keep their words. -/

namespace Sys2Proof.Machine

/-- An instruction of the control processor. Immediates are sign-extended words; `fp` marks f registers, `dbl` 64-bit
operands. -/
inductive Op where
  | lui (rd : RegNum) (imm : Word)
  | auipc (rd : RegNum) (imm : Word)
  | jal (rd : RegNum) (off : Word)
  | jalr (rd rs1 : RegNum) (off : Word)
  | branch (f3 : Nat) (rs1 rs2 : RegNum) (off : Word)
  | load (f3 : Nat) (fp : Bool) (rd rs1 : RegNum) (off : Word)
  | store (f3 : Nat) (fp : Bool) (rs1 rs2 : RegNum) (off : Word)
  | opImm (f3 : Nat) (alt : Bool) (rd rs1 : RegNum) (imm : Word)
  | opImmW (f3 : Nat) (alt : Bool) (rd rs1 : RegNum) (imm : Word)
  | op (f3 : Nat) (alt : Bool) (rd rs1 rs2 : RegNum)
  | opW (f3 : Nat) (alt : Bool) (rd rs1 rs2 : RegNum)
  | mul (f3 : Nat) (rd rs1 rs2 : RegNum)
  | mulW (f3 : Nat) (rd rs1 rs2 : RegNum)
  | amo (f5 : Nat) (dbl : Bool) (rd rs1 rs2 : RegNum)
  | lr (dbl : Bool) (rd rs1 : RegNum)
  | sc (dbl : Bool) (rd rs1 rs2 : RegNum)
  | fence | fenceI | ecall | ebreak | mret | wfi
  | csr (f3 : Nat) (rd rs1 : RegNum) (addr : Nat)
  | fma (dbl negP negC : Bool) (rm : Nat) (rd rs1 rs2 rs3 : RegNum)
  | fadd (dbl sub : Bool) (rm : Nat) (rd rs1 rs2 : RegNum)
  | fmul (dbl : Bool) (rm : Nat) (rd rs1 rs2 : RegNum)
  | fdiv (dbl : Bool) (rm : Nat) (rd rs1 rs2 : RegNum)
  | fsqrt (dbl : Bool) (rm : Nat) (rd rs1 : RegNum)
  | fsgnj (dbl : Bool) (f3 : Nat) (rd rs1 rs2 : RegNum)
  | fminmax (dbl maxi : Bool) (rd rs1 rs2 : RegNum)
  | fcmp (dbl : Bool) (f3 : Nat) (rd rs1 rs2 : RegNum)
  | fclass (dbl : Bool) (rd rs1 : RegNum)
  | fcvtInt (dbl long signed : Bool) (rm : Nat) (rd rs1 : RegNum)
  | intCvt (dbl long signed : Bool) (rm : Nat) (rd rs1 : RegNum)
  | fcvt (toDbl : Bool) (rm : Nat) (rd rs1 : RegNum)
  | fmvXF (dbl : Bool) (rd rs1 : RegNum)
  | fmvFX (dbl : Bool) (rd rs1 : RegNum)
  | tensor | vector | vmem
  | illegal
  deriving DecidableEq, Repr

/-- A register field of a word. -/
def regAt (n lo : Nat) : RegNum := Fin.ofNat 32 (nbits n (lo + 4) lo)

/-- A field of an instruction, sign-extended to a word. -/
def sx (w v : Nat) : Word := BitVec.ofInt 64 (sint w v)

/-- The I immediate. -/
def immI (n : Nat) : Word := sx 12 (nbits n 31 20)

/-- The S immediate. -/
def immS (n : Nat) : Word := sx 12 (nbits n 31 25 * 32 + nbits n 11 7)

/-- The B immediate. -/
def immB (n : Nat) : Word := sx 13 (nbits n 31 31 * 4096 + nbits n 7 7 * 2048 + nbits n 30 25 * 32 + nbits n 11 8 * 2)

/-- The U immediate. -/
def immU (n : Nat) : Word := sx 32 (nbits n 31 12 * 4096)

/-- The J immediate. -/
def immJ (n : Nat) : Word :=
  sx 21 (nbits n 31 31 * 2 ^ 20 + nbits n 19 12 * 4096 + nbits n 20 20 * 2048 + nbits n 30 21 * 2)

/-- OP and OP-32: the base operations and the M extension. -/
def decodeOp (n : Nat) (long : Bool) : Op :=
  let f7 := nbits n 31 25
  let f3 := nbits n 14 12
  let rd := regAt n 7
  let a := regAt n 15
  let b := regAt n 20
  if f7 = 1 then
    if long then .mul f3 rd a b else if f3 = 0 ∨ 4 ≤ f3 then .mulW f3 rd a b else .illegal
  else if f7 = 0 then
    if long then .op f3 false rd a b else if f3 = 0 ∨ f3 = 1 ∨ f3 = 5 then .opW f3 false rd a b else .illegal
  else if f7 = 0x20 ∧ (f3 = 0 ∨ f3 = 5) then (if long then .op f3 true rd a b else .opW f3 true rd a b)
  else .illegal

/-- OP-IMM and OP-IMM-32: shift amounts of 6 and 5 bits. -/
def decodeOpImm (n : Nat) (long : Bool) : Op :=
  let f3 := nbits n 14 12
  let rd := regAt n 7
  let a := regAt n 15
  let top := if long then nbits n 31 26 * 2 else nbits n 31 25
  let sh : Word := BitVec.ofNat 64 (if long then nbits n 25 20 else nbits n 24 20)
  if f3 = 1 then
    if top = 0 then (if long then .opImm 1 false rd a sh else .opImmW 1 false rd a sh) else .illegal
  else if f3 = 5 then
    if top = 0 ∨ top = 0x20 then (if long then .opImm 5 (top == 0x20) rd a sh else .opImmW 5 (top == 0x20) rd a sh)
    else .illegal
  else if long then .opImm f3 false rd a (immI n)
  else if f3 = 0 then .opImmW 0 false rd a (immI n)
  else .illegal

/-- AMO: LR has rs2 = x0. -/
def decodeAmo (n : Nat) : Op :=
  let f5 := nbits n 31 27
  let dbl := nbits n 14 12 == 3
  let rd := regAt n 7
  let a := regAt n 15
  let b := regAt n 20
  if nbits n 14 12 ≠ 2 ∧ nbits n 14 12 ≠ 3 then .illegal
  else if f5 = 2 then (if b.val = 0 then .lr dbl rd a else .illegal)
  else if f5 = 3 then .sc dbl rd a b
  else if f5 ∈ [0, 1, 4, 8, 12, 16, 20, 24, 28] then .amo f5 dbl rd a b
  else .illegal

/-- SYSTEM: ECALL, EBREAK, MRET, WFI and the CSR instructions. -/
def decodeSystem (n : Nat) : Op :=
  let f3 := nbits n 14 12
  if f3 = 0 then
    if n = 0x00000073 then .ecall else if n = 0x00100073 then .ebreak
    else if n = 0x30200073 then .mret else if n = 0x10500073 then .wfi else .illegal
  else if f3 = 4 then .illegal
  else .csr f3 (regAt n 7) (regAt n 15) (nbits n 31 20)

/-- OP-FP in the formats S (0) and D (1). -/
def decodeFp (n : Nat) : Op :=
  let f5 := nbits n 31 27
  let dbl := nbits n 26 25 == 1
  let rm := nbits n 14 12
  let rd := regAt n 7
  let a := regAt n 15
  let b := regAt n 20
  if 2 ≤ nbits n 26 25 then .illegal
  else match f5 with
    | 0x00 => .fadd dbl false rm rd a b
    | 0x01 => .fadd dbl true rm rd a b
    | 0x02 => .fmul dbl rm rd a b
    | 0x03 => .fdiv dbl rm rd a b
    | 0x0B => if b.val = 0 then .fsqrt dbl rm rd a else .illegal
    | 0x04 => if rm ≤ 2 then .fsgnj dbl rm rd a b else .illegal
    | 0x05 => if rm ≤ 1 then .fminmax dbl (rm == 1) rd a b else .illegal
    | 0x14 => if rm ≤ 2 then .fcmp dbl rm rd a b else .illegal
    | 0x18 => if b.val ≤ 3 then .fcvtInt dbl (decide (2 ≤ b.val)) (b.val % 2 == 0) rm rd a else .illegal
    | 0x1A => if b.val ≤ 3 then .intCvt dbl (decide (2 ≤ b.val)) (b.val % 2 == 0) rm rd a else .illegal
    | 0x08 => if (dbl && b.val == 0) || (!dbl && b.val == 1) then .fcvt dbl rm rd a else .illegal
    | 0x1C => if b.val ≠ 0 then .illegal else if rm = 0 then .fmvXF dbl rd a
        else if rm = 1 then .fclass dbl rd a else .illegal
    | 0x1E => if b.val = 0 ∧ rm = 0 then .fmvFX dbl rd a else .illegal
    | _ => .illegal

/-- A 32-bit instruction word. -/
def decode32 (n : Nat) : Op :=
  let f3 := nbits n 14 12
  let rd := regAt n 7
  let a := regAt n 15
  let b := regAt n 20
  let dbl := nbits n 26 25 == 1
  match n % 128 with
  | 0x37 => .lui rd (immU n)
  | 0x17 => .auipc rd (immU n)
  | 0x6F => .jal rd (immJ n)
  | 0x67 => if f3 = 0 then .jalr rd a (immI n) else .illegal
  | 0x63 => if f3 = 2 ∨ f3 = 3 then .illegal else .branch f3 a b (immB n)
  | 0x03 => if f3 = 7 then .illegal else .load f3 false rd a (immI n)
  | 0x07 => if f3 = 2 ∨ f3 = 3 then .load f3 true rd a (immI n) else .illegal
  | 0x23 => if f3 ≤ 3 then .store f3 false a b (immS n) else .illegal
  | 0x27 => if f3 = 2 ∨ f3 = 3 then .store f3 true a b (immS n) else .illegal
  | 0x13 => decodeOpImm n true
  | 0x1B => decodeOpImm n false
  | 0x33 => decodeOp n true
  | 0x3B => decodeOp n false
  | 0x2F => decodeAmo n
  | 0x0F => if f3 = 0 then .fence else if f3 = 1 then .fenceI else .illegal
  | 0x73 => decodeSystem n
  | 0x43 => if 2 ≤ nbits n 26 25 then .illegal else .fma dbl false false f3 rd a b (regAt n 27)
  | 0x47 => if 2 ≤ nbits n 26 25 then .illegal else .fma dbl false true f3 rd a b (regAt n 27)
  | 0x4B => if 2 ≤ nbits n 26 25 then .illegal else .fma dbl true false f3 rd a b (regAt n 27)
  | 0x4F => if 2 ≤ nbits n 26 25 then .illegal else .fma dbl true true f3 rd a b (regAt n 27)
  | 0x53 => decodeFp n
  | 0x0B => .tensor
  | 0x2B => .tensor
  | 0x5B => .vector
  | 0x7B => .vmem
  | _ => .illegal

-- the C extension

/-- One of x8 … x15 from a 3-bit field. -/
def regC (n lo : Nat) : RegNum := Fin.ofNat 32 (8 + nbits n (lo + 2) lo)

/-- The C immediate of LWSP's kind: bit 12 and bits 6:2. -/
def immC (n : Nat) : Word := sx 6 (nbits n 12 12 * 32 + nbits n 6 2)

/-- Offset of C.LW, C.SW. -/
def offCw (n : Nat) : Word := BitVec.ofNat 64 (nbits n 5 5 * 64 + nbits n 12 10 * 8 + nbits n 6 6 * 4)

/-- Offset of C.LD, C.SD, C.FLD, C.FSD. -/
def offCd (n : Nat) : Word := BitVec.ofNat 64 (nbits n 6 5 * 64 + nbits n 12 10 * 8)

/-- x0, x1 and x2. -/
def x0 : RegNum := 0
@[inherit_doc x0]
def x1 : RegNum := 1
@[inherit_doc x0]
def x2 : RegNum := 2

/-- Quadrant 0. -/
def decodeC0 (n : Nat) : Op :=
  match nbits n 15 13 with
  | 0 =>
    let imm := nbits n 10 7 * 64 + nbits n 12 11 * 16 + nbits n 5 5 * 8 + nbits n 6 6 * 4
    if imm = 0 then .illegal else .opImm 0 false (regC n 2) x2 (BitVec.ofNat 64 imm)
  | 1 => .load 3 true (regC n 2) (regC n 7) (offCd n)
  | 2 => .load 2 false (regC n 2) (regC n 7) (offCw n)
  | 3 => .load 3 false (regC n 2) (regC n 7) (offCd n)
  | 5 => .store 3 true (regC n 7) (regC n 2) (offCd n)
  | 6 => .store 2 false (regC n 7) (regC n 2) (offCw n)
  | 7 => .store 3 false (regC n 7) (regC n 2) (offCd n)
  | _ => .illegal

/-- The register-register forms of quadrant 1. -/
def decodeC1alu (n : Nat) : Op :=
  let a := regC n 7
  let b := regC n 2
  let sh : Word := BitVec.ofNat 64 (nbits n 12 12 * 32 + nbits n 6 2)
  match nbits n 11 10 with
  | 0 => .opImm 5 false a a sh
  | 1 => .opImm 5 true a a sh
  | 2 => .opImm 7 false a a (immC n)
  | _ => match nbits n 12 12, nbits n 6 5 with
    | 0, 0 => .op 0 true a a b
    | 0, 1 => .op 4 false a a b
    | 0, 2 => .op 6 false a a b
    | 0, _ => .op 7 false a a b
    | _, 0 => .opW 0 true a a b
    | _, 1 => .opW 0 false a a b
    | _, _ => .illegal

/-- Quadrant 1. -/
def decodeC1 (n : Nat) : Op :=
  let rd := regAt n 7
  match nbits n 15 13 with
  | 0 => .opImm 0 false rd rd (immC n)
  | 1 => if rd.val = 0 then .illegal else .opImmW 0 false rd rd (immC n)
  | 2 => .opImm 0 false rd x0 (immC n)
  | 3 =>
    if nbits n 12 12 = 0 ∧ nbits n 6 2 = 0 then .illegal
    else if rd.val = 2 then
      .opImm 0 false x2 x2 (sx 10 (nbits n 12 12 * 512 + nbits n 4 3 * 128 + nbits n 5 5 * 64 + nbits n 2 2 * 32 +
        nbits n 6 6 * 16))
    else .lui rd (sx 18 ((nbits n 12 12 * 32 + nbits n 6 2) * 4096))
  | 4 => decodeC1alu n
  | 5 => .jal x0 (sx 12 (nbits n 12 12 * 2048 + nbits n 8 8 * 1024 + nbits n 10 9 * 256 + nbits n 6 6 * 128 +
      nbits n 7 7 * 64 + nbits n 2 2 * 32 + nbits n 11 11 * 16 + nbits n 5 3 * 2))
  | k =>
    .branch (if k = 6 then 0 else 1) (regC n 7) x0 (sx 9 (nbits n 12 12 * 256 + nbits n 6 5 * 64 + nbits n 2 2 * 32 +
      nbits n 11 10 * 8 + nbits n 4 3 * 2))

/-- Quadrant 2. -/
def decodeC2 (n : Nat) : Op :=
  let rd := regAt n 7
  let b := regAt n 2
  let ld : Word := BitVec.ofNat 64 (nbits n 4 2 * 64 + nbits n 12 12 * 32 + nbits n 6 5 * 8)
  let sd : Word := BitVec.ofNat 64 (nbits n 9 7 * 64 + nbits n 12 10 * 8)
  match nbits n 15 13 with
  | 0 => .opImm 1 false rd rd (BitVec.ofNat 64 (nbits n 12 12 * 32 + nbits n 6 2))
  | 1 => .load 3 true rd x2 ld
  | 2 => if rd.val = 0 then .illegal
      else .load 2 false rd x2 (BitVec.ofNat 64 (nbits n 3 2 * 64 + nbits n 12 12 * 32 + nbits n 6 4 * 4))
  | 3 => if rd.val = 0 then .illegal else .load 3 false rd x2 ld
  | 4 =>
    if nbits n 12 12 = 0 then
      if b.val ≠ 0 then .op 0 false rd x0 b
      else if rd.val = 0 then .illegal else .jalr x0 rd 0
    else if b.val ≠ 0 then .op 0 false rd rd b
    else if rd.val = 0 then .ebreak else .jalr x1 rd 0
  | 5 => .store 3 true x2 b sd
  | 6 => .store 2 false x2 b (BitVec.ofNat 64 (nbits n 8 7 * 64 + nbits n 12 9 * 4))
  | _ => .store 3 false x2 b sd

/-- The instruction a word spells: 16 bits unless its low bits are 0b11. -/
def decodeOf (w : Word32) : Op :=
  let n := w.toNat
  match n % 4 with
  | 3 => decode32 n
  | 0 => decodeC0 (n % 65536)
  | 1 => decodeC1 (n % 65536)
  | _ => decodeC2 (n % 65536)

/-- The bits an illegal instruction reports: those of its length. -/
def wordBits (w : Word32) : Word := if w.extractLsb' 0 2 = 3#2 then w.setWidth 64 else (w.setWidth 16).setWidth 64

/-- Bytes of an access by funct3. -/
def accSize (f3 : Nat) : Nat := 2 ^ (f3 % 4)

end Sys2Proof.Machine
end

