-- ==== Sys2Proof/Machine/Units.lean ====
section
/-! DEFINITION. The queues of the tensor and vector units (R70, R76, R120): issue, completion of the oldest
instruction, waits on tickets and their error reports (R88, R129). -/

namespace Sys2Proof.Machine

/-- TENS_TICKET or VEC_TICKET. -/
def ticketWord (done issued : Nat) : Word := fput 31 16 done ||| fput 15 0 issued

/-- Whether a wait on ticket t waits on ticket u: u is not later than t. -/
def coversTicket (t : Option Nat) (u : Nat) : Bool :=
  match t with
  | none => true
  | some t => ticketDone t u

/-- A wait ends: the error of the oldest unreported instruction it waits on is raised, else the instruction retires. -/
def Dev.waitEnds (d : Dev) (now : Nat) (c : CoreIx) (tens : Bool) (t : Option Nat) : Dev :=
  let k := d.core c
  match (if tens then k.tunrep else k.vunrep).find? (coversTicket t) with
  | some u =>
    let k' := if tens then { k with tunrep := k.tunrep.erase u } else { k with vunrep := k.vunrep.erase u }
    (d.setCore c k').trap now c (if tens then 25 else 27) (BitVec.ofNat 64 u)
  | none => d.setCore c { k.retire with stall := .none }

/-- Whether a wait on a ticket, or for all, is over. -/
def waitOver (done issued : Nat) (t : Option Nat) : Bool :=
  match t with
  | some t => ticketDone done t
  | none => done == issued

/-- A wait on ticket t (TWAIT, VWAIT) becomes a wait for all when t has not been issued yet. -/
def waitTicket (issued t : Nat) : Option Nat :=
  let k := (t + 65536 - issued) % 65536
  if 1 ≤ k ∧ k ≤ 32767 then none else some t

/-- TWAIT or TFENCE. -/
def Dev.tensWait (d : Dev) (now : Nat) (c : CoreIx) (t : Option Nat) : Dev :=
  let k := d.core c
  if waitOver k.tdone k.tissued t then d.waitEnds now c true t else d.setCore c { k with stall := .twait t }

/-- VWAIT or VFENCE. -/
def Dev.vecWait (d : Dev) (now : Nat) (c : CoreIx) (t : Option Nat) : Dev :=
  let k := d.core c
  if waitOver k.vdone k.vissued t then d.waitEnds now c false t else d.setCore c { k with stall := .vwait t }

/-- A completed ticket lets the control processor go on: a full queue has an entry, a wait may be over. -/
def Dev.unitWake (d : Dev) (now : Nat) (c : CoreIx) : Dev :=
  let k := d.core c
  match k.stall with
  | .tensQueue => if k.tqueue.length < 8 then d.setCore c { k with stall := .none } else d
  | .vecQueue => if k.vqueue.length < 16 then d.setCore c { k with stall := .none } else d
  | .twait t => if waitOver k.tdone k.tissued t then d.waitEnds now c true t else d
  | .vwait t => if waitOver k.vdone k.vissued t then d.waitEnds now c false t else d
  | .vext vs => if k.vqueue.any fun op => op.act.dest == some vs then d else d.setCore c { k with stall := .none }
  | _ => d

/-- A tensor instruction takes its ticket and enters the queue. -/
def Core.tensIssue (k : Core) (rd : RegNum) (op : TensOp) : Core :=
  let t := (k.tissued + 1) % 65536
  let op := { op with ticket := t, ctl := k.tctl, astride := k.tastride.toNat, wstride := k.twstride.toNat,
                      cstride := k.tcstride.toNat, snap := k.sram }
  { (k.setX rd (BitVec.ofNat 64 t)).retire with tissued := t, tqueue := k.tqueue ++ [op] }

/-- A vector instruction takes its ticket and enters the queue. VEC_SEED is read at issue (R116), and a stochastic store leaves it
advanced by all its shifts (R126). -/
def Core.vecIssue (k : Core) (act : VecAct) : Core :=
  let t := (k.vissued + 1) % 65536
  { k.retire with
    vissued := t, vqueue := k.vqueue ++ [{ ticket := t, act := act, ctl := k.vctl, seed := k.vseed, snap := k.sram }]
    vseed := if act.draws k.vctl then (drawAll true 128 k.vseed).2 else k.vseed }

/-- The array activity counters of a partition (R89, R90, R373): the cell-steps of a completed TMMA, ungated by format and
gated. -/
def Dev.countCells (d : Dev) (p : PartIx) (op : TensOp) (b : Bank) (zeros : List (List Bool)) : Dev :=
  if op.tlw then d
  else
    let af := fld op.ctl 3 0
    let (on, off) := b.cellSteps af zeros
    let i := cellCounter af (b.tag.getD 0)
    { d with acts := d.acts.modify [] p.val fun l =>
        (List.range 4).map fun j => l.getD j 0 + (if j + 1 = i then on else 0) + (if j = 3 then off else 0) }

/-- The oldest tensor instruction completes: its reads see, sector by sector, what an unordered agent left or left
before (R78); later instructions of the unit see what it wrote (R77). Its own results land last: where another agent has written
its accumulator extent before completion, the tensor write stays (R78 does not say which; DESIGN CHOICE, log entry 81). Its
cell-steps are counted at this moment (log entry 117). -/
def Dev.tensComplete (d : Dev) (now : Nat) (c : CoreIx) : Dev :=
  let k := d.core c
  match k.tqueue with
  | [] => d
  | op :: r =>
    let view := raceAll (op.snap :: Core.vecFutures d.freeCtr k.vqueue k) k.sram (d.freeCtr + raceSpan)
    let base := d.freeCtr + raceSpan * (3 + k.vqueue.length)
    let (k', did) := k.tensRun op view base
    let (a, n) := op.writes
    let land (m : Memory) : Memory := m.copyRange wordGran k'.sram (a / 8 * 8) (a / 8 * 8) (ceilDiv (n + a % 8) 8 * 8)
    let k' := { k' with
      tqueue := if op.tlw then r else r.map fun (o : TensOp) => { o with snap := land o.snap }
      tdone := op.ticket
      tstatus := k'.tstatus ||| BitVec.ofNat 64 did.flags
      tunrep := if did.flags.testBit 5 then k'.tunrep ++ [op.ticket] else k'.tunrep }
    let k' := k'.breakLocal a n
    let d := ((d.setCore c k').countCells (corePart c) op k'.active did.zeros).spend (raceSpan * (3 + k.vqueue.length) + did.used)
    (d.recordSramUe now c { bytes := [], bad := nub did.bad, poison := did.bad.filter fun w => (view.badAt (8 * w)).getD false }).unitWake now c

/-- The oldest vector instruction completes, in the same way (R116, R120). -/
def Dev.vecComplete (d : Dev) (now : Nat) (c : CoreIx) : Dev :=
  let k := d.core c
  match k.vqueue with
  | [] => d
  | op :: r =>
    let view := raceAll (op.snap :: Core.tensFutures d.freeCtr k.tqueue k) k.sram (d.freeCtr + raceSpan)
    let base := d.freeCtr + raceSpan * (3 + k.tqueue.length)
    let (k', did) := k.vecRun op view base
    let land (m : Memory) : Memory := op.writes.foldl (fun m w =>
      m.copyRange wordGran k'.sram (w.1 / 8 * 8) (w.1 / 8 * 8) (ceilDiv (w.2 + w.1 % 8) 8 * 8)) m
    let k' := { k' with
      vqueue := r.map fun (o : VecOp) => { o with snap := land o.snap }
      vdone := op.ticket
      vstatus := k'.vstatus ||| BitVec.ofNat 64 did.flags
      vunrep := if did.flags.testBit 5 then k'.vunrep ++ [op.ticket] else k'.vunrep }
    let d := (d.setCore c k').spend (raceSpan * (3 + k.tqueue.length) + did.used)
    (d.recordSramUe now c { bytes := [], bad := nub did.bad, poison := did.bad.filter fun w => (view.badAt (8 * w)).getD false }).unitWake now c

end Sys2Proof.Machine
end

