-- ==== Sys2Proof/Machine/Csr.lean ====
section
/-! DEFINITION. The control and status registers of a control processor (R92, R95, R104, R119, R131, R132, R218, R225,
R271, R287, R394): reading, writing, and the forms each accepts. -/

namespace Sys2Proof.Machine

/-- TRAIN_INFO (R225). -/
def Dev.trainInfo (d : Dev) : Word :=
  let st := d.reg .trainStep
  fput 63 32 (fld st 31 0) ||| fput 31 8 (fld st 55 32) ||| fput 7 0 (fld (d.reg .trainLs) 7 0)

/-- The partition's copy of device time (R51), at 10 ns resolution: what the hub counted at the last reference edge, or, by a
free value and while it lags the hub by no more than 20 ns, at the edge before; it never decreases. -/
def State.timeRead (s : State) (p : PartIx) : Nat × State :=
  let edge := s.clk.ps / 1000 / 10 * 10
  let t := if bit s.dev.free 0 ∧ s.now + 10 ≤ edge + 20 then edge - 10 else edge
  let t := max (s.dev.timeCopy.get 0 p.val) t
  (t, s.onDev fun d => ({ d with timeCopy := d.timeCopy.set 0 p.val t }).spend)

/-- mstatus as read: UXL is 64 bits, SD follows FS. -/
def Core.mstatusRead (k : Core) : Word := setBit (setFld k.mstatus 33 32 2) 63 (fld k.mstatus 14 13 == 3)

/-- mstatus as written: MIE, MPIE, MPP (user or machine), FS, MPRV and TW. -/
def Core.mstatusWrite (k : Core) (v : Word) : Core :=
  let mpp := if fld v 12 11 = 0 ∨ fld v 12 11 = 3 then fld v 12 11 else fld k.mstatus 12 11
  { k with mstatus := setFld (v &&& 0x0000000000227888) 12 11 mpp }

/-- Registers whose state lives in the floating-point unit. -/
def csrFloat (a : Nat) : Bool := a == 1 || a == 2 || a == 3

/-- Whether mstatus.FS allows floating-point instructions. -/
def Core.fpOn (k : Core) : Bool := fld k.mstatus 14 13 != 0

/-- The floating-point state has changed. -/
def Core.fpDirty (k : Core) : Core := { k with mstatus := setFld k.mstatus 14 13 3 }

/-- CSRs that read as zero and ignore writes: satp, the PMP registers, the hardware performance counters beyond Zicntr (R92),
and the identification registers and menvcfg, for which the privileged specification admits zero. -/
def csrZero (a : Nat) : Bool :=
  a == 0x180 || (decide (0x3A0 ≤ a ∧ a ≤ 0x3AF) && a % 2 == 0) || decide (0x3B0 ≤ a ∧ a ≤ 0x3EF) ||
    decide (0x323 ≤ a ∧ a ≤ 0x33F) || decide (0xB03 ≤ a ∧ a ≤ 0xB1F) || decide (0xC03 ≤ a ∧ a ≤ 0xC1F) ||
    a == 0xF11 || a == 0xF12 || a == 0xF13 || a == 0xF15 || a == 0x30A

/-- What a CSR of a core holds; none where there is no such register. -/
def State.csrPeek (s : State) (c : CoreIx) (a : Nat) : Option Word :=
  let k := s.dev.core c
  if csrZero a then some 0
  else if 0x820 ≤ a ∧ a ≤ 0x827 then some (if a % 2 = 0 then 0 else (k.chan ((a - 0x820) / 2)).statWord)
  else match a with
    | 0x001 => some (BitVec.ofNat 64 (k.fcsr % 32))
    | 0x002 => some (BitVec.ofNat 64 (k.fcsr / 32 % 8))
    | 0x003 => some (BitVec.ofNat 64 (k.fcsr % 256))
    | 0xC02 => some k.instret
    | 0xB02 => some k.instret
    | 0x300 => some k.mstatusRead
    | 0x301 => some 0x800000000090112D
    | 0x304 => some k.mie
    | 0x305 => some k.mtvec
    | 0x306 => some 7
    | 0x340 => some k.mscratch
    | 0x341 => some k.mepc
    | 0x342 => some k.mcause
    | 0x343 => some k.mtval
    | 0x344 => some (s.mip c)
    | 0xF14 => some (BitVec.ofNat 64 (s.nv.part.logical c.val))
    | 0x7C0 => some k.timecmp
    | 0xFC0 => some (BitVec.ofNat 64 k.trapSeq)
    | 0xCC0 => some k.lcfg
    | 0xCC1 => some s.dev.trainInfo
    | 0x800 => some k.tctl
    | 0x801 => some k.tastride
    | 0x802 => some k.twstride
    | 0x803 => some k.tcstride
    | 0x804 => some k.tstatus
    | 0x805 => some (ticketWord k.tdone k.tissued)
    | 0x810 => some k.vctl
    | 0x811 => some k.vstatus
    | 0x812 => some (ticketWord k.vdone k.vissued)
    | 0x813 => some (BitVec.ofNat 64 k.vseed)
    | 0x830 => some k.hrdRes
    | 0x831 => some k.hrdCfgw
    | 0x832 => some (k.events.head?.getD 0)
    | 0x843 => some (BitVec.ofNat 64 ((List.range 32).foldl (fun n i => n + (s.dev.chan (s.mailbox c) i).db.toNat * 2 ^ i) 0))
    | 0x844 => some (BitVec.ofNat 64 ((List.range 32).foldl (fun n i => n + (s.dev.chan (s.mailbox c) i).mask.toNat * 2 ^ i) 0))
    | 0x851 => some k.dictSt
    | _ => none

/-- Read a CSR: cycle and time return device time (R95); HRD_EVENT gives up its oldest event. -/
def State.csrRead (s : State) (c : CoreIx) (a : Nat) : Option (Word × State) :=
  if a = 0xC00 ∨ a = 0xC01 ∨ a = 0xB00 then
    let (t, s) := s.timeRead (corePart c)
    some (BitVec.ofNat 64 t, s)
  else (s.csrPeek c a).map fun v =>
    (v, if a = 0x832 then s.onDev fun d => d.modCore c fun k => { k with events := k.events.tail } else s)

/-- Write a register of a core; read-only and reserved bits ignore the write. -/
def Core.csrPut (k : Core) (a : Nat) (v : Word) : Core :=
  match a with
  | 0x001 => { k.fpDirty with fcsr := k.fcsr / 32 * 32 + v.toNat % 32 }
  | 0x002 => { k.fpDirty with fcsr := v.toNat % 8 * 32 + k.fcsr % 32 }
  | 0x003 => { k.fpDirty with fcsr := v.toNat % 256 }
  -- the instruction that writes minstret does not advance it
  | 0xB02 => { k with instret := v - 1 }
  | 0x300 => k.mstatusWrite v
  | 0x304 => { k with mie := v &&& 0x30880 }
  | 0x305 => { k with mtvec := v &&& 0xFFFFFFFFFFFFFFFD }
  | 0x340 => { k with mscratch := v }
  | 0x341 => { k with mepc := v &&& 0xFFFFFFFFFFFFFFFE }
  | 0x342 => { k with mcause := v }
  | 0x343 => { k with mtval := v }
  | 0x7C0 => { k with timecmp := v, mtip := false }
  | 0x800 => { k with tctl := v &&& 0x6FF }
  | 0x801 => { k with tastride := v &&& 0x3FFFE0 }
  | 0x802 => { k with twstride := v &&& 0x3FFFE0 }
  | 0x803 => { k with tcstride := v &&& 0x3FFFE0 }
  | 0x804 => { k with tstatus := v &&& 0x3E }
  | 0x810 => { k with vctl := v &&& 0x7 }
  | 0x811 => { k with vstatus := v &&& 0x7E }
  | 0x813 => { k with vseed := if fld v 31 0 = 0 then 1 else fld v 31 0 }
  | 0x831 => { k with hrdCfgw := v }
  | _ => k

/-- Write a CSR: MBX_DB clears doorbells and sets none, MBX_MASK sets the masks of the core's own mailbox (R287). -/
def State.csrWrite (s : State) (c : CoreIx) (a : Nat) (v : Word) : State :=
  let n := s.mailbox c
  s.onDev fun d =>
    if a = 0x843 then (List.range 32).foldl (fun d i =>
      if bit v i then d else d.setChan n i { d.chan n i with db := false }) d
    else if a = 0x844 then (List.range 32).foldl (fun d i => d.setChan n i { d.chan n i with mask := bit v i }) d
    else d.modCore c fun k => k.csrPut a v

/-- What a CSR instruction does with a register: funct3 1 and 5 write, 2 and 6 set bits, 3 and 7 clear bits. -/
def csrNew (f3 : Nat) (old src : Word) : Word :=
  match f3 % 4 with
  | 1 => src
  | 2 => old ||| src
  | _ => old &&& ~~~src

/-- A CSR instruction's rd gets a value and it retires. -/
def State.setRd (s : State) (c : CoreIx) (len : Nat) (rd : RegNum) (v : Word) : State :=
  s.onDev fun d => d.modCore c fun k => (k.setX rd v).retire len

/-- DMA_GO (R218): CSRRW and CSRRWI write, a read without a write reads zero, any other form and CMD 0b11 are illegal. -/
def State.dmaGo (s : State) (c : CoreIx) (n f3 : Nat) (rd rs1 : RegNum) (src : Word) (w : Word32) : State :=
  if f3 % 4 ≠ 1 ∧ rs1.val ≠ 0 then s.illegal c w
  else if f3 % 4 ≠ 1 then s.setRd c 4 rd 0
  else match fld src 63 62 with
    | 0 => (s.dmaGoStart c n (fld src 21 6)).setRd c 4 rd 0
    | 1 => (s.dmaGoResume c n).setRd c 4 rd 0
    | 2 => (s.dmaGoAbandon c n).setRd c 4 rd 0
    | _ => s.illegal c w

/-- HRD_OP (R271): CSRRW performs the operation word, a read without a write returns the last result word. -/
def State.hrdOpCsr (s : State) (c : CoreIx) (f3 : Nat) (rd rs1 : RegNum) (w : Word32) : State :=
  let k := s.dev.core c
  if f3 = 1 then
    let v := k.getX rs1
    match HOp.ofCode (fld v 63 60) with
    | some op => s.hrdCore c rd op (Fin.ofNat 65536 (fld v 15 0)) (fld v 47 32)
        (if bit v 48 then some (fld v 47 32) else none) w
    | none => s.illegal c w
  else if f3 ≠ 5 ∧ rs1.val = 0 then s.setRd c 4 rd k.hrdRes
  else s.illegal c w

/-- A CSR instruction on an ordinary register. -/
def State.csrPlain (s : State) (c : CoreIx) (f3 : Nat) (rd rs1 : RegNum) (a : Nat) (w : Word32) : State :=
  let k := s.dev.core c
  let src : Word := if 4 ≤ f3 then BitVec.ofNat 64 rs1.val else k.getX rs1
  let writes := f3 % 4 == 1 || rs1.val != 0
  if csrFloat a && !k.fpOn then s.illegal c w
  else if writes && a / 1024 == 3 then s.illegal c w
  else if f3 % 4 = 1 ∧ rd.val = 0 then
    match s.csrPeek c a, a == 0xB00 with
    | none, false => s.illegal c w
    | _, _ => (s.csrWrite c a src).setRd c 4 rd 0
  else match s.csrRead c a with
    | none => s.illegal c w
    | some (v, s) => (if writes then s.csrWrite c a (csrNew f3 v src) else s).setRd c 4 rd v

/-- A CSR instruction but for the mailbox and dictionary operations: the privilege the address names, then the form. -/
def State.csrOp (s : State) (c : CoreIx) (f3 : Nat) (rd rs1 : RegNum) (a : Nat) (w : Word32) : State :=
  let k := s.dev.core c
  let src : Word := if 4 ≤ f3 then BitVec.ofNat 64 rs1.val else k.getX rs1
  if !k.mach && (decide (nbits a 9 8 ≠ 0) || decide (0xC03 ≤ a ∧ a ≤ 0xC1F)) then s.illegal c w
  else if 0x820 ≤ a ∧ a ≤ 0x827 ∧ a % 2 = 0 then s.dmaGo c ((a - 0x820) / 2) f3 rd rs1 src w
  else if a = 0x830 then s.hrdOpCsr c f3 rd rs1 w
  else s.csrPlain c f3 rd rs1 a w

end Sys2Proof.Machine
end

