-- ==== Sys2Proof/Machine/Tasks.lean ====
section
/-! DEFINITION. The dispatcher (R102 … R105, R205, R207 … R216): submission, the head of a queue, buffer slots and
recomputation, assignment and launch, the end of a task. -/

namespace Sys2Proof.Machine

-- the ring (R207)

/-- Slots of a queue's ring. -/
def Dev.ringSize (d : Dev) (p : PartIx) (q : QueueIx) : Nat := 2 ^ fld (d.reg (.resQcfg p q)) 53 50

/-- Address of a slot. -/
def Dev.ringAt (d : Dev) (p : PartIx) (q : QueueIx) (i : Nat) : Nat :=
  fld (d.reg (.resQcfg p q)) 35 0 * 65536 + 64 * (i % d.ringSize p q)

/-- Waiting tasks of a queue: RES_QSTAT.COUNT. -/
def Dev.waiting (d : Dev) (p : PartIx) (q : QueueIx) : Nat := fld (d.reg (.resQstat p q)) 12 0

/-- EN of a queue. -/
def Dev.queueOn (d : Dev) (p : PartIx) (q : QueueIx) : Bool := bit (d.reg (.resQcfg p q)) 63

/-- STOPPED of a queue. -/
def Dev.stopped (d : Dev) (p : PartIx) (q : QueueIx) : Bool := bit (d.reg (.resQstat p q)) 60

/-- A queue fails a task (R215, R216): STOPPED, FAILS, and the failure captured if none is. -/
def Dev.queueFails (d : Dev) (p : PartIx) (q : QueueIx) (core reason status task : Nat) : Dev :=
  let d := d.modReg (.resQstat p q) fun w => satAdd (setBit w 60 true) 58 48 1
  if fld (d.reg (.resQfail p q)) 47 40 = 0 then
    d.setReg (.resQfail p q) (fput 63 52 core ||| fput 47 40 reason ||| fput 39 32 status ||| fput 31 0 task)
  else d

/-- The head leaves the ring. -/
def Dev.popHead (d : Dev) (p : PartIx) (q : QueueIx) : Dev :=
  (d.modReg (.resQstat p q) fun w => setFld w 12 0 (fld w 12 0 - 1)).modQueue p q fun x =>
    { head := (x.head + 1) % d.ringSize p q }

/-- The waits of a queue's head are withdrawn from every bank. -/
def Dev.dropHeadWaits (d : Dev) (p : PartIx) (q : QueueIx) : Dev :=
  (d.hurdles.map (·.1)).foldl (fun d h =>
    if (d.hurdle h).waits.any fun w => w.who == .head p q then
      d.modHurdle h fun x => { x with waits := x.waits.filter fun w => w.who != .head p q }
    else d) d

/-- The head fails before it was launched (R216). -/
def State.failHead (s : State) (p : PartIx) (q : QueueIx) (reason : Nat) : State :=
  let x := s.dev.queue p q
  let s := s.endHolds x.held
  s.onDev fun d => ((d.dropHeadWaits p q).popHead p q).queueFails p q 0xFFF reason 0 (descFld x.desc 31 0)

-- descriptors (R108, R210, R211)

/-- Slot `n` of a descriptor: handle, output, last consumer; none where it is not valid. -/
def descSlot (l : List Word) (n : Nat) : Option (Nat × Bool × Bool) :=
  let b := 320 + 32 * n
  if descFld l (b + 24) (b + 24) = 1 then
    some (descFld l (b + 23) b, descFld l (b + 25) (b + 25) == 1, descFld l (b + 26) (b + 26) == 1)
  else none

/-- The stage of a task from slot `n` on. -/
def slotStage (l : List Word) (n : Nat) : Stage :=
  match (List.range 3).find? fun i => decide (n ≤ i) && (descSlot l i).isSome with
  | some i => .slots i
  | none => .eligible

/-- A region entry (R108): with V = 0 it declares nothing; one with V = 1 must have a 4 KiB aligned base and a length that is
a non-zero multiple of 4 KiB. -/
def regionOf (n : Nat) : Option (Option Region) :=
  if nbits n 104 104 = 0 then some none
  else
    let len := nbits n 103 64
    if nbits n 11 0 ≠ 0 ∨ len = 0 ∨ len % 4096 ≠ 0 then none
    else some (some { base := nbits n 51 0, length := len, cls := nbits n 106 105, urgent := nbits n 107 107 == 1 })

/-- Read bytes of a task's address space for the dispatcher; none where the page is not in the stack or the read fails. -/
def State.virtRead (s : State) (asid va n who : Nat) : Option (List Byte) × State :=
  match s.walk asid va who with
  | (some (_, w), s) =>
    if pteRes w = .here then
      match s.readFor (ptePhys w va) n with
      | (some r, s) => (if r.bad = [] then some r.bytes else none, s)
      | (none, s) => (none, s)
    else (none, s)
  | (none, s) => (none, s)

/-- Read `n` region entries; none where one cannot be read or is invalid. -/
def State.readRegions (asid who : Nat) : Nat → Nat → State → Option (List Region) × State
  | 0, _, s => (some [], s)
  | n + 1, va, s => match s.virtRead asid va 16 who with
    | (none, s) => (none, s)
    | (some b, s) => match regionOf (ofLe b) with
      | none => (none, s)
      | some r => match State.readRegions asid who n (va + 16) s with
        | (some l, s) => (some (r.toList ++ l), s)
        | (none, s) => (none, s)

/-- Whether a handle breaks R211: bits [23:19], a fused partition, a disabled allocator, a TAG of 0b11. -/
def State.badHandle (s : State) (h : Nat) : Bool :=
  nbits h 23 19 != 0 || !s.nv.part.enabled (bufPart h) || !s.dev.allocOn (bufPart h) || (s.bufPeek h).any fun b => b.tag == 3

/-- The checks of a descriptor at the head (R102, R211): the REASON it fails with, or its declared regions. -/
def State.checkDesc (s : State) (l : List Word) (asid who : Nat) (recomp : Bool) : Nat × List Region × State :=
  let f := descFld l
  if 16 < f 53 49 ∨ f 131 128 ≠ 0 ∨ (f 456 456 = 1 ∧ f 455 436 < f 435 416) ∨ (!recomp ∧ f 54 54 = 1) ∨
      (List.range 3).any (fun n => (descSlot l n).any fun e => s.badHandle e.1) then (2, [], s)
  else match State.readRegions asid who (f 53 49) (f 179 128) s with
    | (none, s) => (2, [], s)
    | (some r, s) => (if f 47 46 = 0 ∧ f 48 48 = 0 then 1 else 0, r, s)

-- the head of a queue (R213)

/-- The head's wait for WAIT_H (R266): ended in a release, ended otherwise, or registered at the bank. -/
def State.headWait (s : State) (p : PartIx) (q : QueueIx) (l : List Word) : State :=
  if descFld l 288 288 = 0 then s.onDev fun d => d.modQueue p q fun x => { x with stage := slotStage l 0 }
  else
    let h : HurdleIx := Fin.ofNat 65536 (descFld l 271 256)
    match s.hurdleHome h with
    | .bank =>
      let x := s.dev.hurdle h.val
      if x.mode = 3 then s.failHead p q 8
      else match x.waitNow none with
        | some 0 => s.onDev fun d => d.modQueue p q fun x => { x with stage := slotStage l 0 }
        | some _ => s.failHead p q 8
        | none => s.onDev fun d => (d.setHurdle h.val { x with waits := x.waits ++ [{ who := .head p q, gen := none }] }).modQueue p q
            fun x => { x with stage := .waiting }
    | _ => s.failHead p q 8

/-- The next task of an enabled queue that is not stopped becomes the head (R211, R213): its descriptor is read and checked. A
descriptor that cannot be read is a BAD_DESC. -/
def State.startHead (s : State) (p : PartIx) (q : QueueIx) : State :=
  let x := s.dev.queue p q
  if !s.dev.partUp p || !s.dev.queueOn p q || s.dev.stopped p q || s.dev.waiting p q == 0 || x.stage != .fresh then s
  else
    let who := idUnit s.dev.devId p.val 0
    match s.readFor (s.dev.ringAt p q x.head) 64 with
    | (none, s) => s.failHead p q 2
    | (some r, s) =>
      let l := natWords 8 (ofLe r.bytes)
      let s := s.onDev fun d => d.modQueue p q fun x => { x with desc := l }
      if r.bad ≠ [] then s.failHead p q 2
      else match s.checkDesc l (fld (s.dev.reg (.resQcfg p q)) 61 58) who false with
        | (0, rg, s) => (s.onDev fun d => d.modQueue p q fun x => { x with regions := rg }).headWait p q l
        | (k, _, s) => s.failHead p q k

-- submission (R208)

/-- Submit a descriptor to a queue: the result code and what it leaves. -/
def State.submit (s : State) (p : PartIx) (q : QueueIx) (l : List Word) (who : Nat) : Nat × State :=
  if !s.nv.part.enabled p || !s.dev.partUp p then (2, s)
  else if !s.dev.queueOn p q then (2, s.onDev fun d => d.modReg (.resQstat p q) fun w => satAdd w 47 32 1)
  else if s.dev.ringSize p q ≤ s.dev.waiting p q then
    (1, s.onDev fun d => (d.modReg (.resQstat p q) fun w => satAdd w 47 32 1).falseStart s.now 1 (64 * p.val + q.val) 0 who)
  else
    let a := s.dev.ringAt p q ((s.dev.queue p q).head + s.dev.waiting p q)
    let s := (s.writeFor a (leBytes 64 (wordsNat l))).2
    (0, (s.onDev fun d => d.modReg (.resQstat p q) fun w => setFld w 12 0 (fld w 12 0 + 1)).startHead p q)

/-- Staging of a submitter's window: partition, queue, origin, word. -/
def submKey (p : PartIx) (q : QueueIx) (o : Origin) (w : Nat) : Nat :=
  ((64 * p.val + q.val) * 3 + (match o with | .fn0 => 0 | .fn1 => 1 | .firmware => 2)) * 8 + w

/-- Submit through the window of a queue: the write of bytes 56 … 63 (R208). -/
def State.submitWindow (s : State) (o : Origin) (p : PartIx) (q : QueueIx) (last : Word) : State :=
  let l := (List.range 7).map (fun i => s.dev.submStage.get 0 (submKey p q o i)) ++ [last]
  let r := s.submit p q l (idOrigin s.dev.devId o)
  r.2.onDev fun d => { d with submRes := d.submRes.set 0 (submKey p q o 0) r.1 }

/-- Submit from a core's staging (R209); the store completes with the result known. -/
def State.submitCore (s : State) (c : CoreIx) (p : PartIx) (q : QueueIx) : State :=
  match s.controlRead c 0x3FF800 64 with
  | (n, s) =>
    let r := s.submit p q (natWords 8 n) (idCore s.dev.devId c)
    r.2.onDev fun d => d.modCore c fun k => { k with submitRes := BitVec.ofNat 64 r.1 }

/-- TASK_SUBMIT (R208, R209). -/
def execTaskSubmit (b : Submitter) (p : PartIx) (q : QueueIx) (s : State) : Ans :=
  .next (match b with
    | .window o last => s.regWrite o (.resSubmit p q 7) fun s => s.submitWindow o p q last
    | .core c => s.controlStore c 0x3FF840 fun s => (s.submitCore c p q).retire c)

-- recomputation (R205)

/-- The dispatcher asks a running task to abort (R216). -/
def Dev.abortTask (d : Dev) (now : Nat) (c : CoreIx) (reason : Nat) : Dev :=
  d.modCore c fun k => { k with int17 := true, task := k.task.map fun t =>
    { t with abort := some (t.abort.getD reason), abortAt := if t.abort.isSome then t.abortAt else now } }

/-- A recompute fails (R205, R216): the buffer returns to dropped, its holds end, every head that waits for it fails with
RC_FAILED, every recompute task that waits for it fails in turn, and running tasks that hold it are asked to abort. Where the
chain was too deep, `orig` is the queue of its original consumer, which fails with RC_DEPTH instead. -/
def State.failRecomp (orig : Option (PartIx × QueueIx)) : Nat → Nat → State → State
  | 0, _, s => s
  | k + 1, h, s =>
    let p := bufPart h
    let mine := (s.dev.dispOf p).recomp.filter fun r => r.handle == h
    let s := s.onDev fun d => d.modDisp p fun x => { x with recomp := x.recomp.filter fun r => r.handle != h }
    let s := mine.foldl (fun s r => s.endHolds r.held) s
    let s := match s.bufRead h with
      | (b, s) => s.bufPut h (b.update 2 b.addr b.users)
    let s := (List.finRange 8).foldl (fun s p => (List.finRange 64).foldl (fun s q =>
      if (s.dev.queue p q).waitFor = some h then s.failHead p q (if orig = some (p, q) then 7 else 6) else s) s) s
    let s := s.onDev fun d => (List.finRange 576).foldl (fun d c =>
      match (d.core c).task with
      | some t => if t.held.contains h ∧ t.recompute ≠ some h then d.abortTask s.now c 6 else d
      | none => d) d
    let next := (List.finRange 8).flatMap fun p => ((s.dev.dispOf p).recomp.filter fun r => r.waitFor == some h).map (·.handle)
    next.foldl (fun s h' => State.failRecomp orig k h' s) s

/-- A recompute starts for a dropped buffer (R205): the buffer is placed, the descriptor at RCDESC read, and its copy entered in
the partition's list; with 32 waiting there, the consumer waits. -/
def State.startRecomp (s : State) (h : Nat) (b : Buf) (p : PartIx) (q : QueueIx) (asid group depth : Nat) : SlotRes × State :=
  let x := s.dev.dispOf (bufPart h)
  if 32 ≤ x.recomp.length then (.full, s)
  else if 8 < depth then (.fail 7, s)
  else if (s.dev.poolExtent (bufPart h) b.pool).2 < b.size then (.fail 3, s)
  else match s.placeBuf h b with
    | none => if fld (s.dev.reg (.resCtl (bufPart h))) 47 32 = 0 then (.fail 3, s) else (.space, s)
    | some a =>
      let who := idUnit s.dev.devId (bufPart h).val 0
      match s.virtRead asid b.rcdesc 64 who with
      | (none, s) => (.fail 6, s)
      | (some l, s) =>
        let n := ofLe l
        -- RECOMP set, WAIT_V and SIG_V taken as 0
        let l := natWords 8 (n - nbits n 54 54 * 2 ^ 54 + 2 ^ 54 - nbits n 289 288 * 2 ^ 288)
        match s.checkDesc l asid who true with
        | (0, rg, s) =>
          let s := s.bufPut h (b.update 3 a b.users)
          (.recompute, s.onDev fun d => d.modDisp (bufPart h) fun x => { x with recomp := x.recomp ++
            [{ handle := h, part := p, queue := q, asid := asid, group := group, depth := depth, desc := l, regions := rg
               stage := slotStage l 0 }] })
        | (_, _, s) => (.fail 6, s)

/-- A task names a buffer (R203, R204): `self` is the buffer that a recompute task recomputes. -/
def State.resolve (s : State) (h : Nat) (out : Bool) (self : Option Nat) (p : PartIx) (q : QueueIx) (asid group depth : Nat) :
    SlotRes × State :=
  match s.bufRead h with
  | (b, s) =>
    if b.state = 3 then (if self = some h then (.ok, s.addHold h b) else (.recompute, s))
    else if b.state = 1 then (.ok, s.addHold h b)
    else if out then
      if (s.dev.poolExtent (bufPart h) b.pool).2 < b.size then (.fail 3, s)
      else match s.placeBuf h b with
        | some a => (.ok, s.bufPut h (b.update 1 a (b.users + 1)))
        | none => if fld (s.dev.reg (.resCtl (bufPart h))) 47 32 = 0 then (.fail 3, s) else (.space, s)
    else if b.state = 0 then (.fail 4, s)
    else if b.tag = 2 then s.startRecomp h b p q asid group (depth + 1)
    else (.fail 5, s)

/-- The head's stage now: a release lets it go on to its slots. -/
def Queue.now (x : Queue) : Stage :=
  match x.stage with
  | .released true => slotStage x.desc 0
  | st => st

/-- One slot of a queue's head (R213): held, failed, or still waiting. -/
def State.headSlot (s : State) (p : PartIx) (q : QueueIx) : State :=
  let x := s.dev.queue p q
  match x.now with
  | .released false => s.failHead p q 8
  | .slots n =>
    match descSlot x.desc n with
    | none => s.onDev fun d => d.modQueue p q fun x => { x with stage := slotStage x.desc (n + 1) }
    | some (h, out, _) =>
      let cfg := s.dev.reg (.resQcfg p q)
      let keep (w : Option Nat) (sp : Bool) (s : State) := s.onDev fun d => d.modQueue p q fun x =>
        { x with stage := .slots n, waitFor := w, space := sp }
      match s.resolve h out none p q (fld cfg 61 58) (fld cfg 57 54) 0 with
      | (.ok, s) => s.onDev fun d => d.modQueue p q fun x =>
          { x with stage := slotStage x.desc (n + 1), held := x.held ++ [h], waitFor := none, space := false }
      | (.fail k, s) => s.failHead p q k
      | (.recompute, s) => keep (some h) false s
      | (.full, s) => keep none false s
      | (.space, s) => keep none true s
  | st => s.onDev fun d => d.modQueue p q fun x => { x with stage := st }

/-- One slot of a recompute task. -/
def State.recompSlot (s : State) (p : PartIx) (i : Nat) : State :=
  match (s.dev.dispOf p).recomp[i]? with
  | none => s
  | some r =>
    let put (f : Recomp → Recomp) (s : State) := s.onDev fun d => d.modDisp p fun x =>
      { x with recomp := x.recomp.map fun y => if y.handle = r.handle then f y else y }
    match r.stage with
    | .slots n => match descSlot r.desc n with
      | none => put (fun y => { y with stage := slotStage y.desc (n + 1) }) s
      | some (h, out, _) =>
        match s.resolve h out (some r.handle) r.part r.queue r.asid r.group r.depth with
        | (.ok, s) => put (fun y => { y with stage := slotStage y.desc (n + 1), held := y.held ++ [h], waitFor := none, space := false }) s
        | (.fail k, s) => State.failRecomp (if k = 7 then some (r.part, r.queue) else none) 256 r.handle s
        | (.recompute, s) => put (fun y => { y with waitFor := some h, space := false }) s
        | (.full, s) => put (fun y => { y with waitFor := none, space := false }) s
        | (.space, s) => put (fun y => { y with waitFor := none, space := true }) s
    | _ => s

/-- BUFFER_SLOT_RESOLVE (R204, R205, R213). -/
def execBufferSlotResolve (h : HeadRef) (s : State) : Ans :=
  .next (match h with
    | .queue p q => s.when (s.dev.partUp p) (if (s.dev.queue p q).stage = .fresh then s.startHead p q else s.headSlot p q)
    | .recomp p i => s.when (s.dev.partUp p) (s.recompSlot p i))

/-- ALLOC_WAIT_TIMEOUT (R203): a task that waits for buffer space fails with NOSPACE. -/
def execAllocWaitTimeout (h : HeadRef) (s : State) : Ans :=
  .next (match h with
    | .queue p q => s.when (s.dev.partUp p && (s.dev.queue p q).space) (s.failHead p q 3)
    | .recomp p i => match (s.dev.dispOf p).recomp[i]? with
      | some r => s.when (s.dev.partUp p && r.space) (State.failRecomp none 256 r.handle s)
      | none => s)

-- assignment and launch (R105, R214)

/-- Whether a core has no task and nothing of a previous one under way (R105). -/
def State.coreFree (s : State) (c : CoreIx) : Bool :=
  let k := s.dev.core c
  s.coreUp c && s.dev.ready && k.task.isNone && k.tqueue == [] && k.vqueue == [] && k.stall == .none &&
    (List.range 4).all fun n => (k.chan n).phase == .idle || (k.chan n).phase == .halted

/-- Cores of a partition running a group's tasks. -/
def Dev.running (d : Dev) (x : PartIx) (g : Nat) : Nat :=
  ((partCores x).filter fun c => (d.core c).task.any fun t => t.group == g).length

/-- Whether a group may hold another core of a partition (R214). -/
def Dev.mayRun (d : Dev) (g : Fin 16) (x : PartIx) : Bool :=
  let w := d.reg (.resGroup g)
  (fld w 55 48).testBit x.val && decide (d.running x g.val < fld w 46 40)

/-- Whether a core has an entry for the Hurdle a task will signal (R268). -/
def Dev.holdFits (d : Dev) (c : CoreIx) (l : List Word) : Bool :=
  descFld l 289 289 == 0 || d.coreHas c (descFld l 287 272) || decide (d.coreHolds c < 16)

/-- A candidate of R214: an entry of the recompute list, or the eligible head of a queue. -/
inductive Cand where
  | recomp (i : Nat) | head (p : PartIx) (q : QueueIx)
  deriving DecidableEq, Repr

/-- Heads that the dispatcher of partition x considers, in the order (home partition, queue number). -/
def State.headCands (s : State) (x : PartIx) (c : CoreIx) : List (PartIx × QueueIx × Fin 16) :=
  (List.finRange 8).flatMap fun p => (List.finRange 64).filterMap fun q =>
    let k := s.dev.queue p q
    let g : Fin 16 := Fin.ofNat 16 (fld (s.dev.reg (.resQcfg p q)) 57 54)
    let home := decide (p = x) || !(s.dev.mayRun g p && (partCores p).any s.coreFree)
    if s.dev.partUp p && s.dev.queueOn p q && !s.dev.stopped p q && decide (0 < s.dev.waiting p q) && k.now == .eligible &&
        home && s.dev.holdFits c k.desc then some (p, q, g) else none

/-- Recompute tasks of partition x that are ready. -/
def Dev.recompCands (d : Dev) (x : PartIx) : List (Nat × Fin 16) :=
  ((d.dispOf x).recomp.zipIdx).filterMap fun e =>
    if e.1.stage = .eligible then some (e.2, Fin.ofNat 16 e.1.group) else none

/-- The group with the lowest R ÷ WEIGHT among those given, in rising order; the first on a tie. -/
def Dev.pickGroup (d : Dev) (x : PartIx) : List (Fin 16) → Option (Fin 16)
  | [] => none
  | g :: r => match d.pickGroup x r with
    | none => some g
    | some h =>
      let w (i : Fin 16) := max 1 (fld (d.reg (.resGroup i)) 63 56)
      if d.running x h.val * w g < d.running x g.val * w h then some h else some g

/-- What a free core of partition x is given (R214). -/
def State.pick (s : State) (c : CoreIx) : Option (Cand × Fin 16) :=
  let x := corePart c
  let heads := s.headCands x c
  let recs := s.dev.recompCands x
  let groups := (List.finRange 16).filter fun g =>
    s.dev.mayRun g x && (heads.any (fun e => e.2.2 == g) || recs.any fun e => e.2 == g)
  (s.dev.pickGroup x groups).bind fun g =>
    match recs.find? fun e => e.2 == g with
    | some e => some (.recomp e.1, g)
    | none =>
      let l := (heads.filter fun e => e.2.2 == g).map fun e => (e.1, e.2.1)
      let last := (s.dev.dispOf x).last.get 0 g.val
      match (l.find? fun e => decide (last < 64 * e.1.val + e.2.val + 1)).orElse fun _ => l.head? with
      | some e => some (.head e.1 e.2, g)
      | none => none

/-- Scratchpad share in KiB (R101). -/
def scratchKib (l1 : Nat) (roc : Bool) : Nat := 4092 - l1Kib l1 - (if roc then 144 else 0)

/-- CORE_LCFG of a launch (R104). -/
def lcfgWord (l : List Word) : Word :=
  fput 47 32 (scratchKib (descFld l 47 46) (descFld l 48 48 == 1)) ||| fput 12 8 (descFld l 53 49) |||
    fput 2 2 (descFld l 48 48) ||| fput 1 0 (descFld l 47 46)

/-- Free values for the registers a launch leaves unspecified: x and f registers and the vector registers (R118). -/
def launchFree (n : Nat) : Nat := n + 63 + 2048

/-- A launch on a core (R103, R105, R450): the cache shares are invalidated, the split and the regions are set, bytes outside both
scratchpad shares count as unwritten, but for the trap frames, the last 16 of which are kept (R132 says so where R103 says "every
other byte": DEDUCED, log entry 123), the descriptor is written to the control area, and the runtime enters the task in user mode with only
interrupt 17 enabled. The contents of the vector registers at launch are not specified, and no rule gives the x and f
registers: free values. -/
def Core.launch (k : Core) (t : Task) (regions : List Region) (ctr : Nat) : Core :=
  let lcfg := lcfgWord t.words
  let keep := min k.scratch (fld lcfg 47 32 * 1024)
  let sram := ((k.sram.forget wordGran keep (controlBase - keep)).forget wordGran 0x3FF400 (sramSize - 0x3FF400)).write wordGran
    0x3FF400 (leBytes 64 (wordsNat t.words))
  let entry : Word := BitVec.ofNat 64 (descFld t.words 115 64)
  { k with
    sram := sram, lcfg := lcfg, regions := regions, lines := [], task := some t
    x := (List.range 31).map fun i => (i + 1, Config.free (ctr + i))
    f := (List.range 32).map fun i => (i, Config.free (ctr + 31 + i))
    v := (List.range 32).map fun r => (r, (List.range 128).map fun j =>
      (Config.free (ctr + 63 + 64 * r + j / 2)).extractLsb' (32 * (j % 2)) 32)
    pc := entry, mepc := entry, mach := false, mstatus := setFld (setBit k.mstatus 7 true) 12 11 0
    mie := setBit 0 17 true, timecmp := 0xFFFFFFFFFFFFFFFF, mtip := false
    int17 := false, rtStatus := none, endReq := none, resv := none }

/-- Assign a task to a core: it joins SIG_H for its core (R268) and is launched. -/
def State.launch (s : State) (c : CoreIx) (t : Task) (regions : List Region) : State :=
  let ctr := s.dev.freeCtr
  let s := s.onDev fun d => ({ d with freeCtr := launchFree ctr }).modCore c fun k => k.launch t regions ctr
  if descFld t.words 289 289 = 1 then
    let h : HurdleIx := Fin.ofNat 65536 (descFld t.words 287 272)
    match s.hurdleHome h with
    | .bank => s.onDev fun d => d.join h.val (.task c)
    | _ => s
  else s

/-- TASK_ASSIGN (R214, R105): a free core takes what the dispatcher of its partition picks; the next task of that queue becomes
the head. -/
def execTaskAssign (c : CoreIx) (s : State) : Ans :=
  .next (if !s.coreFree c then s
    else match s.pick c with
      | none => s
      | some (.recomp i, g) => match (s.dev.dispOf (corePart c)).recomp[i]? with
        | none => s
        | some r =>
          let s := s.onDev fun d => d.modDisp (corePart c) fun x => { x with recomp := x.recomp.eraseIdx i }
          s.launch c { part := r.part, queue := r.queue, asid := r.asid, group := g.val, words := r.desc
                       recompute := some r.handle, held := r.held } r.regions
      | some (.head p q, g) =>
        let x := s.dev.queue p q
        let s := s.onDev fun d => (d.popHead p q).modDisp (corePart c) fun y =>
          { y with last := y.last.set 0 g.val (64 * p.val + q.val + 1) }
        (s.launch c { part := p, queue := q, asid := fld (s.dev.reg (.resQcfg p q)) 61 58, group := g.val, words := x.desc
                      held := x.held } x.regions).startHead p q)

-- the end of a task (R209, R215, R450)

/-- The status of a TASK_END store (R209): values above 255 are 255. -/
def endStatus (v : Word) : Nat := min v.toNat 255

/-- A store to TASK_END (R209, R450): the runtime's own store waits at its FENCE for every earlier store, takes a deferred
store trap first, and carries the status the runtime derived. -/
def State.taskEndStore (s : State) (c : CoreIx) (v : Word) : State :=
  let k := s.dev.core c
  if k.rtStatus.isSome && s.dev.storesOut c then s
  else s.onDev fun d => d.modCore c fun k =>
    { k with endReq := if k.task.isSome ∧ k.endReq.isNone then some (k.rtStatus.getD v) else k.endReq }

/-- TASK_END_STORE (R209, R450). -/
def execTaskEndStore (c : CoreIx) (v : Word) (s : State) : Ans :=
  .next (s.controlStore c 0x3FF868 fun s =>
    if (s.dev.core c).rtStatus.isSome && s.dev.storesOut c then s else (s.taskEndStore c v).retire c)

/-- A task leaves its core: the runtime waits for the dispatcher. -/
def Core.endTask (k : Core) : Core :=
  { k with task := none, endReq := none, rtStatus := none, int17 := false, mach := true }

/-- A task ends in failure (R205, R215, R216): its holds end, the Hurdles it holds are lost, its queue stops, or its recompute
has failed. -/
def State.endFailed (s : State) (c : CoreIx) (reason status : Nat) : State :=
  match (s.dev.core c).task with
  | none => s
  | some t =>
    let s := s.endHolds t.held
    let s := s.onDev fun d => ((d.modCore c Core.endTask).dropRegions c).loseHolds s.now fun a => a == .task c
    match t.recompute with
    | some h => State.failRecomp none 256 h s
    | none => s.onDev fun d => d.queueFails t.part t.queue (s.nv.part.logical c.val) reason status (descFld t.words 31 0)

/-- A task ends in success (R204, R215): LAST slots become empty, its holds end, FWD_END runs the sweep, a recomputed buffer becomes
live, and the task arrives at SIG_H. -/
def State.endOk (s : State) (c : CoreIx) : State :=
  match (s.dev.core c).task with
  | none => s
  | some t =>
    let s := (List.range 3).foldl (fun s n => match descSlot t.words n with
      | some (h, _, true) => s.lastUse h
      | _ => s) s
    let s := s.endHolds t.held
    let s := s.onDev fun d => ((d.modCore c Core.endTask).dropRegions c).keepHolds c fun a => a == .task c
    let s := match t.recompute with
      | some h => match s.bufRead h with
        | (b, s) => if b.state = 3 then s.bufPut h (b.update 1 b.addr b.users) else s
      | none => s
    let s := if descFld t.words 55 55 = 1 then s.fwdSweep t.part else s
    if descFld t.words 289 289 = 1 then s.hwArrive c (Fin.ofNat 65536 (descFld t.words 287 272)) else s

/-- The waits, acquisitions and, with `notes`, NOTIFY registrations of the cores leave their banks; the acquirers behind them are
served as COUNT allows (R263). -/
def Dev.leaveBanks (d : Dev) (l : List CoreIx) (notes : Bool) : Dev :=
  (d.hurdles.map (·.1)).foldl (fun d h => (d.modHurdle h fun x =>
    { x with
      waits := x.waits.filter fun w => match w.who with
        | .core c => !l.contains c
        | .note c => !(notes && l.contains c)
        | _ => true
      acqs := x.acqs.filter fun a => !l.contains a.1 }).serve h) d

/-- What step 1 of R362 does on some cores beyond ending their tasks: the holds are lost (R269), every DMA chain ends, nothing
more is issued. -/
def Dev.coresHalt (d : Dev) (now : Nat) (l : List CoreIx) : Dev :=
  let d := d.leaveBanks l false
  let d := d.loseHolds now fun a => match a with
    | .task c | .soft c | .dma c _ => l.contains c
    | _ => false
  let d := { d with
    walks := d.walks.filter fun w => match w.who with
      | .core c | .dma c _ => !l.contains c
    pagers := (List.finRange 8).foldl (fun t p => t.modify {} p.val fun (g : Pager) =>
      { g with demands := g.demands.filter fun x => match x.who with
          | .core c | .dma c _ => !l.contains c }) d.pagers }
  l.foldl (fun d c => d.modCore c fun k => { k with
    stall := .none, deferred := []
    dma := (List.range 4).foldl (fun t n => t.modify {} n fun (x : DmaCh) =>
      { x with phase := .idle, pend := none, desc := [], moved := false, asked := [], got := [] }) k.dma }) d

/-- Once its task has ended, a core retired in the meantime is left as a reset leaves it: its chains end, its holds are lost
(R347). -/
def State.retiredLeaves (s : State) (c : CoreIx) : State :=
  if s.nv.coreGood c then s else s.onDev fun d => d.coresHalt s.now [c]

/-- TASK_END_EFFECTIVE (R215): both instruction queues are empty and every DMA channel is idle or halted. The reason of an
abort takes the place of TASK_FAILED. -/
def execTaskEndEffective (c : CoreIx) (s : State) : Ans :=
  .next (
    let k := s.dev.core c
    match k.endReq, k.task with
    | some v, some t =>
      if !s.coreUp c || k.tqueue != [] || k.vqueue != [] ||
          !((List.range 4).all fun n => (k.chan n).phase == .idle || (k.chan n).phase == .halted) then s
      else (if endStatus v = 0 then s.endOk c
        else match t.abort with
          | some r => s.endFailed c r 0
          | none => s.endFailed c 11 (endStatus v)).retiredLeaves c
    | _, _ => s)

-- queue commands (R215, R216)

/-- QUEUE_RESUME (R215): clears STOPPED and RES_QFAIL; launching resumes at the next task. -/
def State.queueResume (s : State) (p : PartIx) (q : QueueIx) : State :=
  (s.onDev fun d => (d.modReg (.resQstat p q) fun w => setBit w 60 false).clearReg (.resQfail p q)).startHead p q

/-- QUEUE_FLUSH (R216): every waiting task is discarded and counted. -/
def State.queueFlush (s : State) (p : PartIx) (q : QueueIx) : State :=
  let x := s.dev.queue p q
  let n := s.dev.waiting p q
  let s := s.endHolds x.held
  s.onDev fun d => ((d.dropHeadWaits p q).modReg (.resQstat p q) fun w => setFld (satAdd w 31 16 n) 12 0 0).modQueue p q
    fun x => { head := (x.head + n) % d.ringSize p q }

/-- QUEUE_ABORT (R216): interrupt 17 on every running task of the queue. -/
def State.queueAbort (s : State) (p : PartIx) (q : QueueIx) : State :=
  s.onDev fun d => (List.finRange 576).foldl (fun d c =>
    if (d.core c).task.any fun t => t.part == p && t.queue == q && t.recompute.isNone then d.abortTask s.now c 9 else d) d

/-- A write of RES_QSTAT: RESUME, FLUSH, ABORT in this order where several are written. -/
def State.qstatWrite (s : State) (p : PartIx) (q : QueueIx) (v : Word) : State :=
  let s := if bit v 63 then s.queueResume p q else s
  let s := if bit v 62 then s.queueFlush p q else s
  if bit v 61 then s.queueAbort p q else s

@[inherit_doc State.queueResume]
def execQueueResume (o : Origin) (p : PartIx) (q : QueueIx) (s : State) : Ans :=
  .next (s.regWrite o (.resQstat p q) fun s => s.queueResume p q)

@[inherit_doc State.queueFlush]
def execQueueFlush (o : Origin) (p : PartIx) (q : QueueIx) (s : State) : Ans :=
  .next (s.regWrite o (.resQstat p q) fun s => s.queueFlush p q)

@[inherit_doc State.queueAbort]
def execQueueAbort (o : Origin) (p : PartIx) (q : QueueIx) (s : State) : Ans :=
  .next (s.regWrite o (.resQstat p q) fun s => s.queueAbort p q)

/-- RES_QSTAT as read: HELD shows a head that is held. -/
def Dev.qstatWord (d : Dev) (p : PartIx) (q : QueueIx) : Word :=
  setBit (d.reg (.resQstat p q)) 59 (decide (0 < d.waiting p q) &&
    match (d.queue p q).stage with
    | .waiting | .released _ | .slots _ => true
    | _ => false)

/-- RES_QSTAT_READ (R216). -/
def execResQstatRead (o : Origin) (p : PartIx) (q : QueueIx) (s : State) : Ans :=
  .next (s.readClear o (.resQstat p q) (s.dev.qstatWord p q))

/-- Whether a ring breaks the conditions under which EN is set (R207). -/
def Dev.ringBad (d : Dev) (pt : Part) (p : PartIx) (q : QueueIx) (w : Word) : Bool :=
  let logd := fld w 53 50
  let a := fld w 35 0 * 65536
  let n := 64 * 2 ^ logd
  let o := a % 2 ^ 36
  let meets (b m : Nat) : Bool := decide (a < b + m ∧ b < a + n)
  decide (logd < 4 ∨ 12 < logd) || decide (a / 2 ^ 36 ≠ p.val) || decide (pt.dramSize < o + n) ||
    ((List.finRange 8).any fun p' => (List.finRange 64).any fun q' =>
      let v := d.reg (.resQcfg p' q')
      (p' != p || q' != q) && bit v 63 && meets (fld v 35 0 * 65536) (64 * 2 ^ fld v 53 50)) ||
    ((List.finRange 4).any fun i => bit (d.reg (.resApool p i)) 63 && meets (d.poolExtent p i).1 (d.poolExtent p i).2) ||
    (let v := d.reg (.resPpool p); bit v 31 && meets (2 ^ 36 * p.val + fld v 14 0 * 2 ^ 21) (fld v 30 16 * 2 ^ 21))

/-- A write of RES_QCFG (R207): while EN is 1 it changes only EN; one that sets EN is checked. -/
def State.qcfgWrite (s : State) (p : PartIx) (q : QueueIx) (v : Word) : State :=
  let old := s.dev.reg (.resQcfg p q)
  let new := storeTyped (.resQcfg p q) old v
  if bit old 63 then s.onDev fun d => d.setReg (.resQcfg p q) (setBit old 63 (bit v 63))
  else if bit v 63 && s.dev.ringBad s.nv.part p q new then s.onDev fun d => d.refuseRes p
  else (s.onDev fun d => d.setReg (.resQcfg p q) new).startHead p q

/-- QUEUE_CONFIG_WRITE (R207). -/
def execQueueConfigWrite (o : Origin) (p : PartIx) (q : QueueIx) (v : Word) (s : State) : Ans :=
  .next (s.regWrite o (.resQcfg p q) fun s => s.qcfgWrite p q v)

end Sys2Proof.Machine
end

