-- ==== Sys2Proof/Machine/CoreMem.lean ====
section
/-! DEFINITION. Loads, stores and atomic instructions of the control processor (R96 … R100, R107, R113 … R116): the local
window, the control area, and requests to device memory. -/

namespace Sys2Proof.Machine

/-- The parts of local SRAM (R101). -/
inductive Area where
  | scratch | control | cache
  deriving DecidableEq, Repr

/-- The part an offset lies in. -/
def Core.area (k : Core) (off : Nat) : Area :=
  if off < k.scratch then .scratch else if controlBase ≤ off then .control else .cache

/-- The mode whose rules a load or store follows: mstatus.MPRV makes it that of MPP. -/
def Core.dataMach (k : Core) : Bool := if k.mach && bit k.mstatus 17 then fld k.mstatus 12 11 == 3 else k.mach

/-- The address of the first byte of a window access that R97 or the end of the address space refuses. -/
def Core.windowBad (k : Core) (store : Bool) (off n : Nat) : Option Nat :=
  ((List.range n).find? fun i => decide (sramSize ≤ off + i) || match k.area (off + i) with
    | .scratch => false
    | .control => store && !k.dataMach
    | .cache => true).map fun i => windowBase + off + i

/-- The page fault of an access (R130). -/
def pageFault : Access → Word
  | .fetch => 12 | .load => 13 | .store => 15

/-- The access fault of an access (R130). -/
def accessFault : Access → Word
  | .fetch => 1 | .load => 5 | .store => 7

/-- Translate a device virtual address for a core (R96, R190, R191): a core with no task has no address space. -/
def State.deviceAccess (s : State) (c : CoreIx) (va : Nat) (acc : Access) (f : Nat → State → State) : State :=
  match (s.dev.core c).asid with
  | none => s.trap c (pageFault acc) (BitVec.ofNat 64 va)
  | some asid => match s.xlate (coreCluster c) asid va acc with
    | (.fault, s) => s.trap c (pageFault acc) (BitVec.ofNat 64 va)
    | (.miss, s) => s.onDev fun d => d.modCore c fun k => { k with stall := .xlate va acc }
    | (.ok pa, s) => f pa s

/-- A loaded value in rd or in an f register, by funct3. -/
def Core.loaded (k : Core) (rd : RegNum) (f3 : Nat) (fp : Bool) (v : Nat) : Core :=
  if fp then { k.fpDirty with f := k.f.set 0 rd.val (box (f3 == 3) v) }
  else k.setX rd (match f3 with
    | 0 => sx 8 v
    | 1 => sx 16 v
    | 2 => sx 32 v
    | _ => BitVec.ofNat 64 v)

/-- Offset of the SUBMIT word of the control area (R209). -/
def submitPort : Nat := 0x3FF840
@[inherit_doc submitPort]
def hintPort : Nat := 0x3FF860
@[inherit_doc submitPort]
def endPort : Nat := 0x3FF868

/-- A load of device memory that has been translated (R99, R109, R113 … R115): from a cache share or the cluster's read-only cache at
once; else with a request that stalls the core, for the 128-byte line where its region is cached, for one sector where not. -/
def State.loadDevice (s : State) (c : CoreIx) (len f3 : Nat) (fp : Bool) (rd : RegNum) (va pa : Nat) (u : Upset) : State :=
  let n := accSize f3
  let k := s.dev.core c
  let region := k.regionAt va
  let share := region.bind k.shareOf
  let crit := region.any Region.crit
  let st (id : Nat) : Stall := .load id rd (f3 + if len = 2 then 8 else 0) fp
  match share with
  | none => s.requestRead { core := c, op := .read, va := va, addr := pa, size := n, crit := crit } st
  | some sh => match s.nearRead c sh (k.asid.getD 0) va u with
    | (some b, s) => s.onDev fun d => d.modCore c fun k => (k.loaded rd f3 fp (ofLe ((b.drop (va % 128)).take n))).retire len
    | (none, s) =>
      s.requestRead { core := c, op := .read, va := va, addr := pa / 128 * 128, size := 128, crit := crit, fill := some sh } st

/-- A load (R96 … R99): from the window at once, from device memory by `loadDevice`. -/
def State.loadAt (s : State) (c : CoreIx) (len f3 : Nat) (fp : Bool) (rd : RegNum) (va : Nat) (u : Upset) : State :=
  let n := accSize f3
  let k := s.dev.core c
  if 2 ^ 52 ≤ va then s.trap c 5 (BitVec.ofNat 64 va)
  else if inWindow va then
    let off := va - windowBase
    match k.windowBad false off n with
    | some a => s.trap c 5 (BitVec.ofNat 64 a)
    | none =>
      if off = submitPort then
        s.onDev fun d => d.modCore c fun k => (k.loaded rd f3 fp (k.submitRes.toNat % 2 ^ (8 * n))).retire len
      else
        let r := s.dev.sramView s.now c off n u
        let s := s.onDev fun _ => r.2
        if r.1.bad ≠ [] then s.trap c 30 (BitVec.ofNat 64 va)
        else s.onDev fun d => d.modCore c fun k => (k.loaded rd f3 fp (ofLe r.1.bytes)).retire len
  else if va % n ≠ 0 then s.trap c 4 (BitVec.ofNat 64 va)
  else s.deviceAccess c va .load fun pa s => s.loadDevice c len f3 fp rd va pa u

/-- A store into the control area in machine mode (R209): SUBMIT, HINT and a naturally aligned store to TASK_END act, any
other writes local SRAM. -/
def State.storeControl (s : State) (c : CoreIx) (off n v : Nat) : State :=
  if off = submitPort then s.submitCore c (Fin.ofNat 8 (nbits v 10 8)) (Fin.ofNat 64 (nbits v 5 0))
  else if off = hintPort then
    match s.controlRead c 0x3FF850 16 with
    | (h, s) => s.submitHint h
  else if off = endPort then s.taskEndStore c (BitVec.ofNat 64 v)
  else s.onDev fun d => d.modCore c fun k => k.sramWrite off (leBytes n v)

/-- A store (R96 … R99): into the window at once, to device memory posted. -/
def State.storeAt (s : State) (c : CoreIx) (len n v va : Nat) : State :=
  let k := s.dev.core c
  if 2 ^ 52 ≤ va then s.trap c 7 (BitVec.ofNat 64 va)
  else if inWindow va then
    let off := va - windowBase
    match k.windowBad true off n with
    | some a => s.trap c 7 (BitVec.ofNat 64 a)
    | none =>
      -- the runtime stores to TASK_END only once its FENCE is over (R450)
      if off = endPort ∧ k.rtStatus.isSome ∧ s.dev.storesOut c then s
      else if k.area off = .control then (s.storeControl c off n v).retire c len
      else (s.onDev fun d => d.modCore c fun k => k.sramWrite off (leBytes n v)).retire c len
  else if va % n ≠ 0 then s.trap c 6 (BitVec.ofNat 64 va)
  else s.deviceAccess c va .store fun pa s =>
    (s.request { core := c, op := .write, va := va, addr := pa, size := n, data := v }).2.retire c len

/-- The adder operation of an AMO's funct5 (R169). -/
def amoAdder : Nat → Nat
  | 0 => 1 | 1 => 9 | 4 => 8 | 8 => 7 | 12 => 6 | 16 => 2 | 20 => 3 | 24 => 4 | _ => 5

/-- An atomic's value in rd. -/
def atomicVal (dbl : Bool) (v : Nat) : Word := if dbl then BitVec.ofNat 64 v else sx 32 v

/-- The common course of an AMO, LR or SC: alignment, which always comes first (R98), high bits, the window by R97, or a translation and a request. -/
def State.atomicAt (s : State) (c : CoreIx) (dbl : Bool) (va : Nat) (store : Bool) (loc : Nat → State → State)
    (far : Nat → State → State) : State :=
  let n := if dbl then 8 else 4
  let acc : Access := if store then .store else .load
  if va % n ≠ 0 then s.trap c 6 (BitVec.ofNat 64 va)
  else if 2 ^ 52 ≤ va then s.trap c (accessFault acc) (BitVec.ofNat 64 va)
  else if inWindow va then
    match (s.dev.core c).windowBad store (va - windowBase) n with
    | some a => s.trap c (accessFault acc) (BitVec.ofNat 64 a)
    | none => loc (va - windowBase) s
  else s.deviceAccess c va acc far

/-- A request of an atomic instruction: the core waits for its response. LR takes a read slot (log entry 122). -/
def State.atomicRequest (s : State) (q : Req) (rd : RegNum) (dbl : Bool) : State :=
  if q.op = .lr then s.requestRead q fun id => .atomic id rd dbl
  else
    let r := s.request q
    r.2.onDev fun d => d.modCore q.core fun k => { k with stall := .atomic r.1 rd dbl }

/-- An AMO (R100, R169): in the core on local SRAM, where an uncorrectable word is left poisoned (R179); else at the adders. On local
SRAM it reads and writes the content as it stands: what a queued instruction still writes lands after it. -/
def State.amoAt (s : State) (c : CoreIx) (f5 : Nat) (dbl : Bool) (rd rs1 rs2 : RegNum) (u : Upset) : State :=
  let k := s.dev.core c
  let n := if dbl then 8 else 4
  let x := (k.getX rs2).toNat % 2 ^ (8 * n)
  let va := (k.getX rs1).toNat
  s.atomicAt c dbl va true
    (fun off s =>
      let r := s.dev.sramRead s.now c off n u
      let s := s.onDev fun _ => r.2
      if r.1.bad ≠ [] then
        (s.onDev fun d => d.modCore c fun k => { k with sram := k.sram.poison wordGran off n }).trap c 30 (BitVec.ofNat 64 va)
      else
        let old := ofLe r.1.bytes
        s.onDev fun d => d.modCore c fun k =>
          ((k.sramWrite off (leBytes n (adderInt (amoAdder f5) (8 * n) old x))).setX rd (atomicVal dbl old)).retire)
    (fun pa s => s.atomicRequest { core := c, op := .amo (amoAdder f5), va := va, addr := pa, size := n, data := x } rd dbl)

/-- LR (R100): takes a reservation on the line. -/
def State.lrAt (s : State) (c : CoreIx) (dbl : Bool) (rd rs1 : RegNum) (u : Upset) : State :=
  let n := if dbl then 8 else 4
  let va := ((s.dev.core c).getX rs1).toNat
  s.atomicAt c dbl va false
    (fun off s =>
      let r := s.dev.sramRead s.now c off n u
      let s := s.onDev fun _ => r.2
      if r.1.bad ≠ [] then s.trap c 30 (BitVec.ofNat 64 va)
      else s.onDev fun d => d.modCore c fun k =>
        ({ k with resv := some (va / 128, s.now) }.setX rd (atomicVal dbl (ofLe r.1.bytes))).retire)
    (fun pa s => s.atomicRequest { core := c, op := .lr, va := va, addr := pa, size := n } rd dbl)

/-- Whether a core holds a reservation on a line now (R100). -/
def Core.holdsLine (k : Core) (now line : Nat) : Bool := k.resv.any fun r => r.1 == line && decide (now ≤ r.2 + 1000)

/-- SC (R100): after the reservation is lost it writes nothing and returns 1. -/
def State.scAt (s : State) (c : CoreIx) (dbl : Bool) (rd rs1 rs2 : RegNum) : State :=
  let k := s.dev.core c
  let n := if dbl then 8 else 4
  let x := (k.getX rs2).toNat % 2 ^ (8 * n)
  let va := (k.getX rs1).toNat
  s.atomicAt c dbl va true
    (fun off s => s.onDev fun d => d.modCore c fun k =>
      let ok := k.holdsLine s.now (va / 128)
      let k := if ok then k.sramWrite off (leBytes n x) else k
      ({ k with resv := none }.setX rd (if ok then 0 else 1)).retire)
    (fun pa s =>
      if k.resv.isNone then s.onDev fun d => d.modCore c fun k => (k.setX rd 1).retire
      else s.atomicRequest { core := c, op := .sc, va := va, addr := pa, size := n, data := x } rd dbl)

/-- FENCE (R99): waits until every earlier store has been acknowledged. -/
def State.fenceOp (s : State) (c : CoreIx) : State :=
  if s.dev.storesOut c then s.onDev fun d => d.modCore c fun k => { k with stall := .fence } else s.retire c

/-- The last store has been answered: a FENCE retires, an ARRIVE goes to its bank (R99, R267). -/
def State.storesDone (s : State) (c : CoreIx) : State :=
  if s.dev.storesOut c then s
  else match (s.dev.core c).stall with
    | .fence => s.onDev fun d => d.modCore c fun k => { k.retire with stall := .none }
    | .arrive h arg rd => (s.onDev fun d => d.modCore c fun k => { k with stall := .none }).hrdNow c rd .arrive h arg none
    | _ => s

/-- A failed store waits as a deferred trap (R99). -/
def State.deferStore (s : State) (c : CoreIx) (cause va : Nat) : State :=
  s.onDev fun d => d.modCore c fun k => { k with deferred := k.deferred ++ [(cause, va)] }

/-- A load's response reaches the core: data, load data error, or access fault. -/
def State.loadAnswer (s : State) (c : CoreIx) (rd : RegNum) (form : Nat) (fp : Bool) (va : Nat) (r : Resp) : State :=
  match r with
  | .ok v => s.onDev fun d => d.modCore c fun k =>
      { (k.loaded rd (form % 8) fp v).retire (if 8 ≤ form then 2 else 4) with stall := .none }
  | .ue => s.trap c 30 (BitVec.ofNat 64 va)
  | _ => s.trap c 5 (BitVec.ofNat 64 va)

/-- An atomic's response reaches the core. -/
def State.atomicAnswer (s : State) (c : CoreIx) (rd : RegNum) (dbl : Bool) (op : ReqOp) (va : Nat) (r : Resp) : State :=
  match r with
  | .ok v => s.onDev fun d => d.modCore c fun k => { (k.setX rd (atomicVal dbl v)).retire with stall := .none }
  | .ue => s.trap c 30 (BitVec.ofNat 64 va)
  | .refused => s.trap c 28 (BitVec.ofNat 64 va)
  | .error => s.trap c (if op = .lr then 5 else 7) (BitVec.ofNat 64 va)

/-- The line of a fill reaches the core it was asked for (R109, R112, R179): one without an uncorrectable sector is cached; a
fetch that met one finds an empty line in the fetch buffer. -/
def State.fillAnswer (s : State) (q : Req) (sh : Share) (fetch : Bool) (r : Resp) : State :=
  let asid := ((s.dev.core q.core).asid).getD 0
  match r with
  | .ok v => s.onDev fun d => d.fillLine q.core sh asid q.va (leBytes 128 v)
  | .ue => if fetch then s.onDev fun d => d.fillShare q.core .buffer asid q.va [] else s
  | _ => s

/-- What a load takes of the line that was filled for it. -/
def loadPart (q : Req) (form : Nat) : Resp → Resp
  | .ok v => if q.fill.isSome then .ok (v / 256 ^ (q.va % 128) % 256 ^ accSize (form % 8)) else .ok v
  | r => r

/-- A response arrives at its core (R99). -/
def State.answered (s : State) (q : Req) (id : Nat) (r : Resp) : State :=
  match q.op with
  | .write => match r with
    | .ok _ => s
    | .refused => s.deferStore q.core 28 q.va
    | _ => s.deferStore q.core 7 q.va
  | op => match (s.dev.core q.core).stall with
    | .load id' rd form fp => if id' = id then
        (match q.fill with
          | some sh => s.fillAnswer q sh false r
          | none => s).loadAnswer q.core rd form fp q.va (loadPart q form r) else s
    | .fill id' => if id' = id then
        let s := (s.fillAnswer q (q.fill.getD .buffer) true r).onDev fun d => d.modCore q.core fun k => { k with stall := .none }
        if r = .error ∨ r = .refused then s.trap q.core 1 (BitVec.ofNat 64 (max q.va (s.dev.core q.core).pc.toNat)) else s
      else s
    | .atomic id' rd dbl => if id' = id then s.atomicAnswer q.core rd dbl op q.va r else s
    | _ => s

/-- MEMORY_RESPONSE (R99): the response of an answered request reaches its core. -/
def execMemoryResponse (id : Nat) (s : State) : Ans :=
  .next (match s.dev.reqs.get none id with
    | some q => match q.st with
      | .done r => (((s.onDev fun d => { d with reqs := d.reqs.set none id none }).answered q id r).storesDone q.core).onDev
          fun d => d.slotWake q.core
      | _ => s
    | none => s)

end Sys2Proof.Machine
end

