-- ==== Sys2Proof/Machine/Slices.lean ====
section
/-! DEFINITION. The slices (R156 … R185): the course of a control processor's request, the adders, the write-back buffer,
the split of the near layer, live blocks, the scrubber and the remap of a line. -/

namespace Sys2Proof.Machine

-- the course of a request (R160, R164, R167, R168)

/-- Where a request goes, for the order of R99 and P1: a partition, the far tier, another device. -/
def State.destOf (s : State) (q : Req) : Nat :=
  match q.aim with
  | .far _ => 8
  | .remote d _ => 16 + d
  | .none => match s.place q.addr with
    | .mem p _ _ => p.val
    | _ => 9

/-- Whether an earlier request of the same core to the same destination has not reached its slice yet (P1). -/
def State.behind (s : State) (id : Nat) (q : Req) : Bool :=
  s.dev.reqs.any fun e => decide (e.1 < id) && e.2.any fun r =>
    r.core == q.core && (r.st == .mesh || r.st == .held) && s.destOf r == s.destOf q

/-- Whether a request to the same line that reached the slice before still waits for DRAM or at an adder (R171). -/
def Dev.lineWaits (d : Dev) (q : Req) : Bool :=
  d.reqs.any fun e => e.2.any fun r => r.addr / 128 == q.addr / 128 && decide (r.seq < q.seq) && (r.st == .dram || r.st == .adder)

/-- A request reaches its slice: the order of arrival is kept. -/
def State.arrived (s : State) (id : Nat) (q : Req) : Req × State :=
  if q.seq ≠ 0 then (q, s)
  else
    let q := { q with seq := s.dev.arrivals + 1 }
    (q, s.onDev fun d => { d with reqs := d.reqs.set none id (some q), arrivals := d.arrivals + 1 })

/-- Set where a request stands. -/
def State.reqTo (s : State) (id : Nat) (t : ReqAt) : State :=
  s.onDev fun d => { d with reqs := d.reqs.modify none id fun q => q.map fun q => { q with st := t } }

/-- A request is answered. -/
def State.answer (s : State) (id : Nat) (r : Resp) : State := s.onDev fun d => d.answerReq id r

/-- A read or a store at the slice that owns its line: its response. -/
def State.reqPlain (s : State) (q : Req) : Resp × State :=
  if q.op = .write then
    match s.memWrite q.addr (leBytes q.size q.data) with
    | (true, s) => (.ok 0, s)
    | (false, s) => (.error, s)
  else match s.memRead q.addr q.size with
    | (none, s) => (.error, s)
    | (some r, s) => (if r.bad ≠ [] then .ue else .ok (ofLe r.bytes), s)

/-- An AMO, LR or SC at the adders (R100, R169, R179): an AMO or LR that meets an uncorrectable sector traps, the AMO leaving
it poisoned; an SC whose reservation is lost writes nothing and returns 1. -/
def State.reqAtomic (s : State) (q : Req) : Resp × State :=
  let k := s.dev.core q.core
  match q.op with
  | .amo op =>
    if s.roConflict q.addr q.size then (.refused, s)
    else match s.adder q.addr op (if q.size = 8 then 14 else 13) false false (leBytes q.size q.data) with
      | (.error, s) => (.error, s)
      | (.done old _ ps, s) => (if ps then .ue else .ok (ofLe old), s)
  | .lr => match s.memRead q.addr q.size with
    | (none, s) => (.error, s)
    | (some r, s) =>
      if r.bad ≠ [] then (.ue, s)
      else (.ok (ofLe r.bytes), s.onDev fun d => d.modCore q.core fun k => { k with resv := some (q.addr / 128, s.now) })
  | _ =>
    if k.holdsLine s.now (q.addr / 128) then
      if s.roConflict q.addr q.size then (.refused, s)
      else match s.memWrite q.addr (leBytes q.size q.data) with
        | (true, s) => (.ok 0, s.onDev fun d => d.modCore q.core fun k => { k with resv := none })
        | (false, s) => (.error, s)
    else (.ok 1, s.onDev fun d => d.modCore q.core fun k => { k with resv := none })

/-- Carry out a request at its slice and answer it. -/
def State.reqDo (s : State) (id : Nat) (q : Req) : State :=
  match (if q.op.atomic then s.reqAtomic q else s.reqPlain q) with
  | (r, s) => s.answer id r

/-- What waits for a core's request at a slice. -/
def Req.waiting (q : Req) (id k : Nat) : Waiting :=
  { tok := .req id, slices := [k], lines := [q.addr / 128], crit := q.crit, cls := if q.op.atomic then .adder else .core, src := q.core.val }

/-- A request passes the slice that owns its line (R111, R160, R168, R230): refused, answered, to DRAM, to the adders. -/
def State.passSlice (s : State) (id : Nat) (q : Req) (dram : Bool) (u : Upset) : State :=
  let s := s.remapCheck q.addr
  if q.op.writes && s.roConflict q.addr q.size && (q.op != .sc || (s.dev.core q.core).holdsLine s.now (q.addr / 128)) then
    s.answer id .refused
  else match s.relayBlocks q.addr q.size with
    | (true, s) => s.answer id .error
    | (false, s) =>
      if dram && (!s.dev.inSlice (q.addr / 128) || s.dev.lineWaits q) then s.reqTo id .dram
      else if q.op.atomic then s.reqTo id .adder
      else (s.applyUpset q.addr u).reqDo id q

/-- A request at the slice that owns its line: it passes, or waits for a grant or behind a hold (R151, R165, R171, R181). `busy`: the
slice serves another request at this moment, so this one waits for its grant. -/
def State.atSlice (s : State) (id : Nat) (q : Req) (p : PartIx) (c : ChanIx) (dram busy : Bool) (u : Upset) : State :=
  let k := sliceNo p c
  let w := q.waiting id k
  let chans := if dram then [k] else []
  if dram && !s.dev.chanServes p c then (s.answer id .error).onDev fun d => d.unwait w.tok
  else match (s.dev.obstacle w chans (if q.op.writes then w.lines else [])).orElse fun _ => if busy then some .grant else none with
    | some h => (s.reqTo id .held).onDev fun d => d.enqueueWait s.now w h chans
    | none => ((s.onDev fun d => (d.granted w (!q.op.writes)).unwait w.tok).reqTo id .mesh).passSlice id q dram u

/-- What a slice holds for the control processors goes on in its order (P4), as far as nothing stands in its way any more. -/
def State.drain (s : State) (p : PartIx) (c : ChanIx) : State :=
  (s.dev.waiters.filter fun w => w.hold != .grant && w.slices.contains (sliceNo p c)).foldl (fun s w => match w.tok with
    | .req id => match s.dev.reqs.get none id with
      | some q => match s.place q.addr with
        | .mem p' c' dram => s.atSlice id q p' c' dram false .none
        | _ => s
      | none => s
    | _ => s) s

/-- The sectors of 32 bytes a store covers, as WRITE can carry them (R296): where they begin, their bytes; `other` gives those the store
does not name (log entry 78). -/
def sectorsOf (addr : Nat) (l : List Byte) (other : Nat → Byte) : Nat × List Byte :=
  let lo := addr % 32
  let n := 32 * ceilDiv (lo + l.length) 32
  (addr - lo, (List.range n).map fun i => if lo ≤ i ∧ i < lo + l.length then l.getD (i - lo) 0 else other i)

/-- A request for another device (R38, R115, R297): a read of the 32-byte sector or of the line to be filled, a store in whole
sectors, an AMO with its operand; LR and SC have no message and end in an error completion. -/
def remoteMsg (q : Req) (dst addr : Nat) (other : Nat → Byte) : Option Msg :=
  match q.op with
  | .read => some { src := 0, dst := dst, op := 1, len := if q.size = 128 then 3 else 0, addr := addr / 32 * 32 }
  | .write =>
    let x := sectorsOf addr (leBytes q.size q.data) other
    some { src := 0, dst := dst, op := 2, len := x.2.length / 32 - 1, addr := x.1, data := x.2 }
  | .amo op => some { src := 0, dst := dst, op := 4, param := op * 256 + (if q.size = 8 then 0xE0 else 0xD0), addr := addr
                      data := leBytes 32 q.data }
  | _ => none

/-- A request to the far tier (R168, R179, R424): reads and stores; the far tier has no adders. -/
def State.atFar (s : State) (id : Nat) (q : Req) (f : Nat) (u : Upset) : State :=
  match q.op with
  | .read => match s.dev.farKey f with
    | none => s.answer id .error
    | some _ => match (s.farUpset f u).farRead f q.size with
      | (some r, s) => s.answer id (if r.bad ≠ [] then .ue else .ok (ofLe r.bytes))
      | (none, s) => s.answer id .error
  | .write => match s.dev.farKey f with
    | none => s.answer id .error
    | some _ => match s.farWrite f (leBytes q.size q.data) with
      | (ok, s) => s.answer id (if ok then .ok 0 else .error)
  | _ => s.answer id .error

/-- SLICE_REQUEST (R160, R165): the request `id` reaches the place its address names, or asks its slice for a grant again. -/
def execSliceRequest (id : Nat) (turn : SliceTurn) (s : State) : Ans :=
  .next (match s.dev.reqs.get none id with
    | none => s
    | some q =>
      s.when ((q.st == .mesh || q.st == .held) && !s.behind id q) (
        match q.aim, s.place q.addr with
        | .far f, _ => s.atFar id q f turn.upset
        | .remote dst addr, _ => match remoteMsg q dst addr (freeByte s.dev.freeCtr) with
          | none => s.answer id .error
          | some m => match (s.dev.spend 8).sendRemote s.now (corePart q.core).val (.core id) q.addr m with
            | (some _, d) => (s.onDev fun _ => d).answer id .error
            | (none, d) => (s.onDev fun _ => d).reqTo id .away
        | .none, .mem p c dram => match s.arrived id q with
          | (q, s) => s.atSlice id q p c dram turn.busy turn.upset
        | .none, _ => s.answer id .error))

/-- Requests of a channel to be reissued after its retrain that still wait for DRAM, in order (R149). -/
def Dev.reissues (d : Dev) (p : PartIx) (c : ChanIx) : List Nat :=
  (d.slice p c).reissue.filter fun id => (d.reqs.get none id).any fun q => q.st == .dram

/-- DRAM_RESPONSE (R149, R160, R176): the line arrives from the channel, and the request is carried out or goes to the adders. Requests
kept over a retrain are reissued first, in their order; then what was held goes on. -/
def execDramResponse (id : Nat) (u : Upset) (s : State) : Ans :=
  .next (match s.dev.reqs.get none id with
    | none => s
    | some q => match s.place q.addr with
      | .mem p c true =>
        let kept := s.dev.reissues p c
        s.when (q.st == .dram && !s.dev.lineWaits q && (kept == [] || kept.head? == some id)) (
          if !s.dev.chanServes p c then s.answer id .error
          else if (s.dev.slice p c).attempt ≠ 0 then s
          else
            let s := s.applyUpset q.addr u
            let s := if q.op.atomic then ((s.enterAt q.addr false).regroupAt q.addr).reqTo id .adder else s.reqDo id q
            if kept = [id] then (s.onDev fun d => d.modSlice p c fun x => { x with reissue := [] }).drain p c else s)
      | _ => s.when (q.st == .dram) (s.answer id .error))

/-- ADDER_OPERATION (R168 … R171). -/
def execAdderOperation (id : Nat) (u : Upset) (s : State) : Ans :=
  .next (match s.dev.reqs.get none id with
    | none => s
    | some q => s.when (q.st == .adder && !s.dev.lineWaits q) ((s.applyUpset q.addr u).reqDo id q))

/-- WRITEBACK_ACK (R167, R179): DRAM acknowledges the oldest line of the write-back buffer; its uncorrectable words have been
written as poisoned sectors. A channel that retrains acknowledges nothing. -/
def execWritebackAck (p : PartIx) (ch : ChanIx) (s : State) : Ans :=
  .next (s.when ((s.dev.slice p ch).attempt == 0) (s.ackOldest p ch))

-- SLICE_CFG and SLICE_LIVE (R161, R180)

/-- Quiesced (R161): no launch runs in the partition, its DMA channels are idle or halted, its Anchor is idle. -/
def Dev.quiesced (d : Dev) (p : PartIx) : Bool :=
  (partCores p).all (fun c =>
    let k := d.core c
    k.task.isNone && (List.range 4).all fun n => (k.chan n).phase == .idle || (k.chan n).phase == .halted) &&
    d.anchState p == 0

/-- Adopt a new split (R161): dirty lines are written back, the cache share is invalid, the direct share counts as unwritten and
the live bits of the direct window are cleared. -/
def State.adoptDirect (s : State) (p : PartIx) (n : Nat) : State :=
  let mine (l : Nat) : Bool := linePart l == p
  let waiting := (List.finRange 32).flatMap fun c => (s.dev.slice p c).wb
  let mem := (s.dev.cache.filter fun e => mine e.1).foldl (fun m e => match e.2 with
    | some x => if x.dirty then m.toSectors e.1 else if waiting.contains e.1 then m else m.restore e.1 x
    | none => m) s.mem
  let mem := waiting.foldl Memory.toSectors mem
  { s.onDev fun d =>
      let d := { d with cache := d.cache.keep fun l => !mine l }
      let d := (List.finRange 32).foldl (fun d c => d.modSlice p c fun x => { x with wb := [] }) d
      let d := d.modReg (.sliceCfg p) fun w => setFld w 3 0 n
      (List.range 6).foldl (fun d i => d.clearReg (.sliceLive p (Fin.ofNat 390 (384 + i)))) d
    with mem := mem.forget wordGran (p.val * 2 ^ 36 + nearBase) 0x30000000 }

/-- A write of SLICE_CFG (R161). -/
def State.sliceCfgWrite (s : State) (p : PartIx) (v : Word) : State :=
  let old := s.dev.reg (.sliceCfg p)
  let seed := if fld v 63 32 = 0 then 1 else fld v 63 32
  let moves := fld v 3 0 != fld old 3 0
  let refused := moves && !s.dev.quiesced p
  let s := s.onDev fun d => d.setReg (.sliceCfg p)
    (setBit (setFld (setFld old 63 32 seed) 8 8 (fld v 8 8)) 4 (refused || (bit old 4 && !bit v 4)))
  if moves && !refused && decide (fld v 3 0 ≤ 8) then s.adoptDirect p (fld v 3 0) else s

/-- SLICE_CFG_WRITE (R161). -/
def execSliceCfgWrite (o : Origin) (p : PartIx) (v : Word) (s : State) : Ans :=
  .next (s.regWriteV o (.sliceCfg p) v fun s => s.sliceCfgWrite p v)

/-- A write of SLICE_LIVE: bits written 1 become live, 0 changes nothing (R180). -/
def State.liveWrite (s : State) (p : PartIx) (i : Fin 390) (v : Word) : State :=
  s.onDev fun d => d.modReg (.sliceLive p i) fun w => w ||| v

/-- LIVE_WRITE (R180). -/
def execLiveWrite (o : Origin) (p : PartIx) (i : Fin 390) (v : Word) (s : State) : Ans :=
  .next (s.regWrite o (.sliceLive p i) fun s => s.liveWrite p i v)

-- the scrubber (R184, R185)

/-- Whether block `b` of a partition is live. -/
def Dev.live (d : Dev) (p : PartIx) (b : Nat) : Bool := bit (d.reg (.sliceLive p (Fin.ofNat 390 (b / 64)))) (b % 64)

/-- Blocks that SLICE_LIVE covers: 24,576 of DRAM, then 384 of the direct window. -/
def liveBlocks : Nat := 24960

/-- Address of the line of a slice in 4 KiB piece `j` of live block `b`. -/
def scrubLine (p : PartIx) (c : ChanIx) (b j : Nat) : Nat :=
  if b < 24576 then
    let o := b * 2 ^ 21 + j * 4096
    p.val * 2 ^ 36 + o + 128 * (c.val ^^^ dramChan p.val o)
  else
    let w := (b - 24576) * 2 ^ 21 + j * 4096
    p.val * 2 ^ 36 + nearBase + w + 128 * (c.val ^^^ nearSlice p.val w)

/-- The valid frames of a slice's cache share, each by the first of its lines. -/
def Dev.frames (d : Dev) (p : PartIx) (c : ChanIx) : List Nat :=
  (d.cachedLines p c).filter fun l => (d.frameLines l).head? == some ((l >>> 5) % 4)

/-- The next line a scrubber reads from its position on: 512 × block + piece while blocks last, then the frames of the cache
share. None at the end of the slice's part of the Lap. -/
def Dev.scrubNext (d : Dev) (p : PartIx) (c : ChanIx) (at' : Nat) : Option (Nat × Nat) :=
  let b := at' / 512
  match ((List.range (liveBlocks - b)).map (b + ·)).find? (d.live p) with
  | some k =>
    let pos := if k = b then at' else 512 * k
    some (pos, scrubLine p c k (pos % 512))
  | none =>
    let i := at' - min at' (512 * liveBlocks)
    ((d.frames p c)[i]?).map fun l => (512 * liveBlocks + i, l * 128)

/-- A partition's Lap. -/
def Dev.lap (d : Dev) (p : PartIx) : Lap := d.laps.get {} p.val

/-- Change it. -/
def Dev.modLap (d : Dev) (p : PartIx) (f : Lap → Lap) : Dev := { d with laps := d.laps.modify {} p.val f }

/-- A slice has read its part of the Lap; with the last of the 32 the Lap ends (R184, R185): SLICE_LAP, and a new one begins
with the next read. -/
def State.scrubEnds (s : State) (p : PartIx) (c : ChanIx) : State :=
  s.onDev fun d =>
    let x := d.lap p
    let l := if x.slicesDone.contains c.val then x.slicesDone else x.slicesDone ++ [c.val]
    if l.length < 32 then d.modLap p fun x => { x with slicesDone := l }
    else
      let ms := (s.now - x.start.getD s.now) / 1000000
      let d := d.modReg (.sliceLap p) fun w =>
        setFld (setFld (wrapAdd (setFld w 63 44 (min ms (2 ^ 20 - 1))) 43 32 1) 31 16 (min x.ce 65535)) 15 0 (min x.ue 65535)
      let d := (List.finRange 32).foldl (fun d c => d.modSlice p c fun y => { y with scrubAt := 0 }) d
      (d.modLap p fun _ => {}).modReg (.sliceScrub p) fun w => setBit w 1 false

/-- Uncorrectable granules of a line as the scrubber finds them: each is recorded and left as it is (R184). -/
def State.scrubUe (s : State) (p : PartIx) (m : Memory) (g line : Nat) : State :=
  let r := m.read g s.dev.freeCtr line 128
  s.onDev fun d =>
    let d := r.bad.foldl (fun d k => d.recordUe s.now (s.place line) g (k * g) (r.poison.contains k)) (d.spend r.used)
    d.modLap p fun x => { x with ue := x.ue + r.bad.length }

/-- A correctable error that the scrubber finds counts in the Lap (R185). -/
def State.scrubCe (s : State) (p : PartIx) (v : Verdict) (was : Bool) : State :=
  match v with
  | .fixed _ _ => if was then s else s.onDev fun d => d.modLap p fun x => { x with ce := x.ce + 1 }
  | _ => s

/-- The granule of a whole line that an upset hits, byte `n j + i` of it being byte `i` of granule `j` with its check bytes, and the
upset of that granule. -/
def hitPlace (n : Nat) : Upset → Nat × Upset
  | .hit e =>
    let j := (e.map (·.1)).headD 0 / n
    (j, .hit ((e.filter fun x => x.1 / n == j).map fun x => (x.1 % n, x.2)))
  | u => (0, u)

/-- The scrubber reads a line of a live block (R184): of DRAM what DRAM holds, cached or not, but none while the line waits in the
write-back buffer (R167). -/
def State.scrubBlock (s : State) (p : PartIx) (c : ChanIx) (line : Nat) (u : Upset) : State :=
  match s.place line with
  | .mem _ _ true =>
    let (j, u) := hitPlace 35 u
    let at' := line + 32 * j
    if s.dev.inBuffer (line / 128) then s
    else
      let v := codeVerdict sectorGran u
      let s := (s.scrubCe p v (s.dramBad at').isSome).sectorUpset p c at' v
      let m : Memory := match s.dev.cached (line / 128) with
        | some x => ⟨x.old, x.oldBad⟩
        | none => s.mem
      s.scrubUe p m sectorGran line
  | _ =>
    let (j, u) := hitPlace 9 u
    let at' := line + 8 * j
    let v := codeVerdict wordGran u
    let s := (s.scrubCe p v (s.mem.badAt at').isSome).wordUpset p c at' v
    s.scrubUe p s.mem wordGran line

/-- The scrubber reads a frame: every line it holds. -/
def State.scrubFrame (s : State) (p : PartIx) (line : Nat) (u : Upset) : State :=
  let (j, u) := hitPlace 9 u
  let at' := line + 8 * j
  let s := (s.scrubCe p (codeVerdict wordGran u) (s.mem.badAt at').isSome).applyUpset at' u
  (s.dev.frameLines (line / 128)).foldl (fun s q => s.scrubUe p s.mem wordGran (128 * colMate (line / 128) q)) s

/-- Whether a foreground request or a refresh waits at a slice (R184). -/
def State.sliceIdle (s : State) (p : PartIx) (c : ChanIx) : Bool :=
  !(s.dev.reqs.any fun e => e.2.any fun q => (q.st == .mesh || q.st == .held || q.st == .dram || q.st == .adder) &&
      match q.aim, s.place q.addr with
      | .none, .mem p' c' _ => p' == p && c' == c
      | _, _ => false) &&
    !(s.dev.waiters.any fun w => w.slices.contains (sliceNo p c)) && (s.dev.slice p c).deferral.all fun n => n.2 == 0

/-- SCRUB_READ (R184): the slice's scrubber reads its next line while no request and no refresh waits at the slice; a correctable word
is rewritten corrected, an uncorrectable one recorded. -/
def execScrubRead (p : PartIx) (ch : ChanIx) (u : Upset) (s : State) : Ans :=
  .next (
    s.when (s.dev.partUp p && bit (s.dev.reg (.sliceScrub p)) 0 && s.sliceIdle p ch && !(s.dev.lap p).slicesDone.contains ch.val) (
      let s := if (s.dev.lap p).start.isSome then s else s.onDev fun d =>
        (d.modLap p fun x => { x with start := some s.now }).modReg (.sliceScrub p) fun w => setBit w 1 true
      match s.dev.scrubNext p ch (s.dev.slice p ch).scrubAt with
      | none => s.scrubEnds p ch
      | some (pos, line) =>
        let s := s.onDev fun d => d.modSlice p ch fun x => { x with scrubAt := pos + 1 }
        if 512 * liveBlocks ≤ pos then s.scrubFrame p line u else s.scrubBlock p ch line u))

/-- LAP_OVERDUE (R185): the Lap in progress has run longer than LIMIT_S seconds. -/
def execLapOverdue (p : PartIx) (s : State) : Ans :=
  .next (
    let x := s.dev.lap p
    let limit := fld (s.dev.reg (.sliceScrub p)) 31 16
    s.when (!x.overdue && limit != 0 && x.start.any fun t => decide (t + 1000000000 * limit < s.now)) (
      (s.onDev fun d => (d.modLap p fun x => { x with overdue := true }).modReg (.sliceScrub p) fun w => setBit w 2 true).record
        .scrubOverdue 0 0 (idUnit s.dev.devId p.val 0)))

-- the remap of a line (R181, R182)

/-- What a remap copy held: its writes in arrival order, then the reads behind them, stand first among what waits (R181). -/
def Dev.freeCopy (d : Dev) (k : Nat) : Dev :=
  let of (h : Hold) : List Waiting := d.waits.filter fun w => w.hold == h && w.slices.contains k
  let held := of .copyWr ++ of .copyRd
  { d with waits := held.map (fun w => { w with hold := .retrain }) ++ d.waits.filter fun w => !held.contains w }

/-- REMAP_COPY_DONE (R181): V is set and the line lives in the spare, its uncorrectable sectors poisoned; the table is kept across
power loss, REMAP is recorded, the descriptor follows; held writes are applied in arrival order, then held reads; then the next
candidate has its turn. -/
def execRemapCopyDone (p : PartIx) (ch : ChanIx) (s : State) : Ans :=
  .next (match (s.dev.slice p ch).copying with
    | none => s
    | some (i, line) =>
      let ix : Fin 8 := Fin.ofNat 8 i
      let bad := (List.range 4).filter fun j => (s.dramBad (line + 32 * j)).isSome
      let psn := bad != []
      let s := bad.foldl (fun s j => s.onDram (line + 32 * j) fun m => m.setBad (line + 32 * j) (some true)) s
      let s := s.putRemap p ch ix (setBit (setBit (remapFields (line % 2 ^ 36)) 61 psn) 63 true)
      let s := s.onDev fun d =>
        let other (a : Nat) : Bool := a / 4 != line / 128
        let d := d.modSlice p ch fun x => { x with copying := none, ceSeen := x.ceSeen.filter other, ueSeen := x.ueSeen.filter other }
        (d.change s.now (.remap p ch (d.remapCount p ch))).freeCopy (sliceNo p ch)
      let s := (s.record .remap line ((if psn then 0x80 else 0) + ix.val) (s.dev.sliceId p ch)).drain p ch
      match (s.dev.slice p ch).cands with
      | [] => s
      | l :: r => (s.onDev fun d => d.modSlice p ch fun x => { x with cands := r }).remapCandidate p ch l)

end Sys2Proof.Machine
end

