-- ==== Sys2Proof/Machine/Stack.lean ====
section
/-! DEFINITION. The bonded stack (R133 … R154): coupling links and their tests, refresh, the retrain of a channel, margining. -/

namespace Sys2Proof.Machine

/-- Coupling link unit u of partition p (R22). -/
def Dev.link (d : Dev) (p : PartIx) (u : Nat) : Coupling := d.coupling.get {} (224 * p.val + u)

/-- Change it. -/
def Dev.modLink (d : Dev) (p : PartIx) (u : Nat) (f : Coupling → Coupling) : Dev :=
  { d with coupling := d.coupling.modify {} (224 * p.val + u) f }

/-- The channel of a coupling link. -/
def linkChan (u : Nat) : ChanIx := Fin.ofNat 32 (u / 7)

/-- Whether a coupling link exists on the part: a four-layer part ends at boundary 4. -/
def Part.hasLink (pt : Part) (u : Nat) : Bool := decide (u < 224 ∧ u % 7 ≤ pt.layers)

/-- One 4-cycle beat of CRC-12 (R136): polynomial x^12 + x^11 + x^3 + x^2 + x + 1 over `n` payload bits, from bit n − 1 down,
initial value 0 (log entry 30). -/
def crc12 : Nat → Nat → Nat → Nat
  | 0, _, r => r
  | n + 1, v, r =>
    let top := (r.testBit 11) != (v.testBit n)
    let r := r * 2 % 4096
    crc12 n v (if top then r ^^^ 0x80F else r)

/-- Lanes of a link: 16 of the column part, 48 more of the slice part at boundary 0; four on its vias (R136, R141). -/
def linkLanes (x : Coupling) (u : Nat) : Nat := if x.onVias then 4 else if u % 7 = 0 then 64 else 16

/-- A beat that passed its CRC: the transmitter keeps the lane's last 8, and a resend is over (R138). -/
def Coupling.accept (x : Coupling) (lane beat : Nat) : Coupling :=
  let l := x.sent.get [] lane ++ [beat]
  { x with sent := x.sent.set [] lane (l.drop (l.length - 8)), again := x.again.filter (· != lane) }

/-- A beat that failed its CRC: it is requested again, and the next beat of the lane is the failed one, sent once more (R138,
log entry 127); the link with more than 16 failed beats within 1 ms is tested again. -/
def Coupling.reject (x : Coupling) (now lane : Nat) : Coupling :=
  let l := x.failTimes.filter (fun t => decide (now ≤ t + 1000000)) ++ [now]
  { x with failTimes := l, suspect := x.suspect || decide (16 < l.length),
           again := if x.again.contains lane then x.again else x.again ++ [lane] }

/-- COUPLING_BEAT_RECEIVE (R136, R138): a beat is taken, or counted as failed and requested again. -/
def execCouplingBeatReceive (p : PartIx) (unit : Fin 224) (lane : Fin 64) (payload check : Nat) (s : State) : Ans :=
  .next (
    let u := unit.val
    s.when (s.dev.partUp p && s.nv.part.hasLink u && decide (lane.val < linkLanes (s.dev.link p u) u)) (
      s.onDev fun d =>
        if crc12 500 payload 0 = check % 4096 then d.modLink p u fun x => x.accept lane.val (payload % 2 ^ 500)
        else (d.modReg (.stackChstat p (linkChan u)) fun w => satAdd w 31 16 1).modLink p u fun x => x.reject s.now lane.val))

-- the retrain of a channel (R149 … R152)

/-- A retrain starts, or is merged into the one in progress (R151). -/
def State.startRetrain (s : State) (p : PartIx) (ch : ChanIx) : State :=
  if (s.dev.slice p ch).attempt ≠ 0 then s
  else s.onDev fun d =>
    (d.modSlice p ch fun x => { x with attempt := 1, heldAt := 0 }).modReg (.stackChstat p ch) fun w =>
      satAdd (setBit w 5 true) 63 48 1

/-- Answer requests with error completions in their order (P7). -/
def State.answerAll (s : State) (l : List Nat) : State :=
  l.foldl (fun s id => (s.answer id .error).onDev fun d => d.unwait (.req id)) s

/-- The requests of a channel that stand at a place for which `f` holds, in order of arrival (R149). -/
def State.chanReqs (s : State) (p : PartIx) (ch : ChanIx) (f : ReqAt → Bool) : List Nat :=
  let l := s.dev.reqs.filterMap fun e => e.2.bind fun q =>
    if f q.st && (match q.aim, s.place q.addr with
      | .none, .mem p' c' true => p' == p && c' == ch
      | _, _ => false) then some (q.seq, e.1) else none
  (l.foldl (fun t e => Tbl.insert t e.1 e.2) []).map (·.2)

/-- What a slice holds for its channel is answered with error completions, in order of arrival (R152): requests of control
processors at once, the accesses of other agents when they are made. -/
def State.refuseHeld (s : State) (k : Nat) (f : Waiting → Bool) : State :=
  (s.dev.waits.filter fun w => w.slices.contains k && f w).foldl (fun s w => match w.tok with
    | .req id => s.answerAll [id]
    | _ => s.onDev fun d => { d with waits := d.waits.map fun x => if x.tok == w.tok then { x with refused := x.refused ++ [k] } else x }) s

/-- The channel goes down (R143, R152): DOWN is set, what waits is answered with error completions, CHAN_DOWN is recorded and a
replacement request follows. -/
def State.chanDown (s : State) (p : PartIx) (ch : ChanIx) : State :=
  let s := s.onDev fun d =>
    ((d.modSlice p ch fun x => { x with attempt := 0, heldAt := 0, reissue := [], copying := none, cands := [] }).modReg (.stackChstat p ch)
      fun w => setBit (setBit w 7 true) 5 false).change s.now (.chanDown p ch)
  ((s.answerAll (s.chanReqs p ch fun t => t == .dram || t == .adder)).refuseHeld (sliceNo p ch) fun _ => true).record .chanDown 0 ch.val
    (s.dev.sliceId p ch)

/-- A link moves to its vias (R142): the descriptor follows, COUPLING is recorded. One whose via path is lost (R143) moves as well, and
its channel stays up until a test on the vias fails (R142 and R143 do not say: DESIGN CHOICE, log entry 129). -/
def State.moveToVias (s : State) (p : PartIx) (u : Nat) : State :=
  let s := s.onDev fun d => (d.modLink p u fun x => { x with onVias := true, moves := false, suspect := false }).change s.now (.vias p u)
  s.record .coupling 0 u (s.dev.sliceId p (linkChan u))

/-- STACK_RETRAIN (R151): a write of STACK_CHCTL with RETRAIN. -/
def execStackRetrain (o : Origin) (p : PartIx) (ch : ChanIx) (s : State) : Ans :=
  .next (s.regWrite o (.stackChctl p ch) fun s => s.startRetrain p ch)

/-- PLL_LOCK_LOSS (R149): the channel retrains; requests accepted but not answered are kept for reissue. -/
def execPllLockLoss (p : PartIx) (ch : ChanIx) (layer : Fin 7) (s : State) : Ans :=
  .next (s.when (s.dev.partUp p && decide (layer.val ≤ s.nv.part.layers) && !bit (s.dev.reg (.stackChstat p ch)) 7)
    (s.startRetrain p ch))

/-- The longest a request may be held (R152), in ns. -/
def holdLimit : Nat := 200000

/-- CHANNEL_RETRAIN_END (R140, R149 … R151): the PLLs have locked to a good reference line, links whose confirm test failed are on their
vias, refreshes that were due have been issued, LAST_HOLD is the time since the first request was held; requests kept for reissue
resume first, then the held ones. Past the limit of a hold, and where the channel has not trained, R152 applies in its place. -/
def execChannelRetrainEnd (p : PartIx) (ch : ChanIx) (trained : Bool) (s : State) : Ans :=
  let x := s.dev.slice p ch
  let hold := if x.heldAt = 0 then 0 else s.now + 1 - x.heldAt
  .next (s.when (trained && x.attempt != 0 && decide (hold ≤ holdLimit) && !(x.refBad.contains 0 && x.refBad.contains 1)) (
    let s := ((List.range 7).map (7 * ch.val + ·)).foldl (fun s u => if (s.dev.link p u).moves then s.moveToVias p u else s) s
    let kept := s.chanReqs p ch (· == .dram)
    let s := s.onDev fun d =>
      (d.modSlice p ch fun x => { x with attempt := 0, heldAt := 0, deferral := [], reissue := kept
                                         dueAt := x.dueAt.map fun e => (e.1, s.now) }).modReg (.stackChstat p ch) fun w =>
        setBit (setFld w 47 40 (min (hold / 1000) 255)) 5 false
    if kept = [] then s.drain p ch else s))

/-- RETRAIN_HOLD_TIMEOUT (R152): held requests are answered with error completions, CHAN_HOLD is recorded, the retrain starts again;
after the third attempt the channel goes down. -/
def execRetrainHoldTimeout (p : PartIx) (ch : ChanIx) (s : State) : Ans :=
  .next (
    let x := s.dev.slice p ch
    s.when (x.attempt != 0 && x.heldAt != 0 && decide (x.heldAt + holdLimit ≤ s.now + 1)) (
      let s := (s.refuseHeld (sliceNo p ch) fun w => w.hold == .retrain).onDev fun d => d.modSlice p ch fun x => { x with heldAt := 0 }
      let s := s.record .chanHold 0 (256 * x.attempt + ch.val) (s.dev.sliceId p ch)
      if 3 ≤ x.attempt then s.chanDown p ch
      else s.onDev fun d => d.modSlice p ch fun x => { x with attempt := x.attempt + 1 }))

/-- A write of STACK_CHCTL (R151, R152): OFFLINE takes the channel offline or back, RETRAIN starts a retrain, also of a channel that is
DOWN, which stays so (R151 does not say: DESIGN CHOICE, log entry 130). -/
def State.chctlWrite (s : State) (p : PartIx) (ch : ChanIx) (v : Word) : State :=
  let s := s.onDev fun d => (d.setReg (.stackChctl p ch) (v &&& 0x4)).modReg (.stackChstat p ch) fun w => setBit w 6 (bit v 2)
  if bit v 0 then s.startRetrain p ch else s

/-- STACK_OFFLINE_WRITE (R152). -/
def execStackOfflineWrite (o : Origin) (p : PartIx) (ch : ChanIx) (v : Word) (s : State) : Ans :=
  .next (s.regWrite o (.stackChctl p ch) fun s => s.chctlWrite p ch v)

/-- STACK_CHSTAT_READ (R152): CRCERR is read and cleared. -/
def execStackChstatRead (o : Origin) (p : PartIx) (ch : ChanIx) (s : State) : Ans :=
  .next (s.readClear o (.stackChstat p ch) (s.dev.reg (.stackChstat p ch)))

/-- The refresh interval of a DRAM layer by its sensor, in ns (R150). -/
def Dev.refreshInterval (d : Dev) (p : PartIx) (layer : Nat) : Nat := if 85 * 16 < (d.paceOf p).layers.getD layer 0 then 1950 else 3900

/-- REFRESH_DUE (R150): the refresh of a bank, once its interval has passed, is issued, or deferred while foreground requests target the
bank, at most 8 times; one deferred 8 times is due at once, ahead of every other request of the channel. -/
def execRefreshDue (p : PartIx) (ch : ChanIx) (layer : Fin 6) (bank : Fin 16) (busy : Bool) (s : State) : Ans :=
  let k := 16 * layer.val + bank.val
  let x := s.dev.slice p ch
  let n := x.deferral.get 0 k
  .next (s.when (s.dev.partUp p && decide (layer.val < s.nv.part.layers) && x.attempt == 0 &&
      decide (8 ≤ n ∨ x.dueAt.get 0 k + s.dev.refreshInterval p layer.val ≤ s.now)) (
    s.onDev fun d => d.modSlice p ch fun x =>
      { x with deferral := x.deferral.set 0 k (if busy && decide (n < 8) then n + 1 else 0), dueAt := x.dueAt.set 0 k s.now }))

-- self-test (R143 … R148)

/-- What a test does to a link's via lines: lines that failed twice in a row are replaced by spares while there are any (R143); the
lines that go on failing. -/
structure ViaFix where
  spares : Nat
  steered : List Nat
  failing : List Nat
  short : Bool

/-- The via lines that need replacing, against the spares left. -/
def Coupling.fix (x : Coupling) (t : LinkTest) : ViaFix :=
  let again := (nub t.vias).filter x.failing.contains
  let n := min again.length (16 - min 16 x.spares)
  { spares := x.spares + n, steered := (List.range n).map (x.spares + ·)
    failing := (nub t.vias).filter fun l => !(again.take n).contains l, short := decide (n < again.length) }

/-- The first failing coil or via line, and whether it is a via line. -/
def testFirst (t : LinkTest) : Nat × Bool :=
  match t.coils with
  | c :: r => (r.foldl min c, false)
  | [] => match t.vias with
    | v :: r => (r.foldl min v, true)
    | [] => (0, false)

/-- RESULT of a test (R148): the most severe of what it found. -/
def testResult (suspect moved : Bool) (f : ViaFix) (onVias : Bool) : Nat :=
  if f.short && onVias then 5 else if f.short then 4 else if f.steered ≠ [] then 3 else if moved then 2
  else if suspect then 1 else 0

/-- Write a report (R140, R147, R148): an entry of the ring when RESULT is not a pass, a GUARD bit is set or a reference line failed,
which counts in NFAIL (log entry 128); TESTS advances. -/
def Dev.report (d : Dev) (now : Nat) (p : PartIx) (kind result spares : Nat) (t : LinkTest) : Dev :=
  let ptr := d.reg (.stackStptr p)
  let i := fld ptr 5 0
  let guard' := t.guard % 16
  let write := decide (result ≠ 0 ∨ guard' ≠ 0 ∨ t.refs ≠ [])
  let lo := fput 63 59 (t.unit / 7) ||| fput 58 56 (t.unit % 7) ||| fput 55 54 kind ||| fput 53 51 result |||
    fput 50 46 spares ||| fput 45 45 (testFirst t).2.toNat ||| fput 44 32 (testFirst t).1 |||
    fput 31 21 (min 2047 (t.coils.length + t.vias.length + t.refs.length)) ||| fput 20 17 guard' |||
    (if kind = 0 then fput 15 8 t.eyeH ||| fput 7 0 t.eyeW else 0)
  let d := if write then
      (d.setReg (.stackStest p ⟨2 * (i % 64), by omega⟩) lo).setReg (.stackStest p ⟨2 * (i % 64) + 1, by omega⟩) (BitVec.ofNat 64 now)
    else d
  d.modReg (.stackStptr p) fun w => wrapAdd (if write then setFld w 5 0 (i + 1) else w) 63 32 1

/-- The effect of one test of a link (R140, R142 … R146): spares, via path, suspicion, report; a bring-up test also finds failing
reference lines. In a bring-up test a link whose coils fail moves at once; a link on its vias stays there. -/
def State.linkTest (s : State) (p : PartIx) (kind : Nat) (t : LinkTest) : State :=
  let t := if kind = 0 then { t with refs := (nub t.refs).filter (· < 2) } else { t with refs := [] }
  let x := s.dev.link p t.unit
  let fix := x.fix t
  let s := s.onDev fun d => d.modSlice p (linkChan t.unit) fun y => { y with refBad := nub (y.refBad ++ t.refs) }
  let bad := decide (t.coils ≠ [])
  let moved := bad && !x.onVias && kind != 1
  let s := s.onDev fun d => (d.modLink p t.unit fun x =>
    { x with spares := fix.spares
             failing := fix.failing
             suspect := if kind = 1 then x.suspect || (bad && !x.onVias) else false
             moves := x.moves || (moved && kind == 2)
             lost := x.lost || fix.short }).report s.now p kind (testResult bad moved fix x.onVias) fix.spares t
  let who := s.dev.sliceId p (linkChan t.unit)
  let s := fix.steered.foldl (fun s n => s.record .viaSpare 0 (256 * n + t.unit) who) s
  let s := if fix.steered ≠ [] then s.onDev fun d => d.change s.now (.spare p t.unit fix.spares) else s
  let s := if moved ∧ kind = 0 then s.moveToVias p t.unit else s
  let s := if moved ∧ kind = 2 then s.startRetrain p (linkChan t.unit) else s
  if !fix.short then s
  else if x.onVias then s.chanDown p (linkChan t.unit)
  else if x.lost then s
  else (s.onDev fun d => (d.modReg (.stackChstat p (linkChan t.unit)) fun w => setBit w 4 true).change s.now (.viaLost p t.unit)).record
    .viaLost 0 t.unit who

/-- Whether a link may be tested in service: its channel is not retraining, offline or down (R145). -/
def State.mayTest (s : State) (p : PartIx) (u : Nat) : Bool :=
  s.dev.partUp p && s.nv.part.hasLink u && fld (s.dev.reg (.stackChstat p (linkChan u))) 7 5 == 0

/-- Whether a refresh of a channel that has fallen due is still to be issued. -/
def Dev.refreshWaits (d : Dev) (p : PartIx) (c : ChanIx) : Bool := (d.slice p c).deferral.any fun n => n.2 != 0

/-- The link unit whose slot comes next in a partition: from the one after the last, in order of unit number (R145). -/
def State.nextSlot (s : State) (p : PartIx) : Nat :=
  let at' := s.dev.testAt.get 0 p.val
  (((List.range 224).map fun i => (at' + i) % 224).find? s.nv.part.hasLink).getD 0

/-- PERIODIC_TEST_SLOT (R145, R146): the slot of the next link in order; it waits for a refresh of its channel that is due, and is
skipped where the channel is retraining, offline or down. -/
def execPeriodicTestSlot (p : PartIx) (t : LinkTest) (s : State) : Ans :=
  .next (s.when (s.dev.partUp p && t.unit == s.nextSlot p && !s.dev.refreshWaits p (linkChan t.unit)) (
    let s := s.onDev fun d => { d with testAt := d.testAt.set 0 p.val ((t.unit + 1) % 224) }
    s.when (s.mayTest p t.unit) (s.linkTest p 1 t)))

/-- CONFIRM_TEST (R138, R146): a suspect link is tested again; a failure moves it to its vias by a retrain. -/
def execConfirmTest (p : PartIx) (t : LinkTest) (s : State) : Ans :=
  .next (s.when (s.mayTest p t.unit && (s.dev.link p t.unit).suspect && !s.dev.refreshWaits p (linkChan t.unit))
    ((s.linkTest p 2 t).onDev fun d => d.modLink p t.unit fun x => { x with failTimes := [] }))

-- margining (R153, R154)

/-- A sweep's grid: points of timing and of threshold; none where it breaks the limits of R153. -/
def sweepGrid (r : Word) : Option (Nat × Nat) :=
  let tmin := sint 8 (fld r 15 8)
  let tmax := sint 8 (fld r 23 16)
  let vmin := sint 8 (fld r 47 40)
  let vmax := sint 8 (fld r 55 48)
  let ts := fld r 31 24
  let vs := fld r 63 56
  if tmin < -32 ∨ 32 < tmax ∨ vmin < -64 ∨ 64 < vmax ∨ tmax < tmin ∨ vmax < vmin ∨ ts = 0 ∨ 64 < ts ∨ vs = 0 ∨ 128 < vs then none
  else
    let nt := (tmax - tmin).toNat / ts + 1
    let nv := (vmax - vmin).toNat / vs + 1
    if nt ≤ 64 ∧ nv ≤ 64 then some (nt, nv) else none

/-- Whether START is refused: the channel is not offline, a sweep runs, the grid or the target is out of its limits. A BOUND that names a
boundary or a layer a four-layer part does not have is not refused (R153 does not say: DESIGN CHOICE, log entry 131). -/
def Dev.sweepRefused (d : Dev) (p : PartIx) (w : Word) : Bool :=
  let ch : ChanIx := Fin.ofNat 32 (fld w 4 0)
  !bit (d.reg (.stackChstat p ch)) 6 || bit w 62 || (sweepGrid (d.reg (.stackMrange p))).isNone || fld w 12 11 == 3 ||
    fld w 10 8 == 7 || (fld w 12 11 == 2 && fld w 10 8 == 0) || decide (fld w 37 32 < 12 ∨ 32 < fld w 37 32)

/-- A write of STACK_MCTL (R153): a sweep runs over the grid that stood at its START. -/
def State.mctlWrite (s : State) (p : PartIx) (v : Word) : State :=
  s.onDev fun d =>
    let w := storeTyped (.stackMctl p) (d.reg (.stackMctl p)) v
    if !bit v 63 then d.setReg (.stackMctl p) w
    else if d.sweepRefused p w then d.setReg (.stackMctl p) (setBit w 60 true)
    else { d.setReg (.stackMctl p) (setBit w 62 true) with sweeps := d.sweeps.set 0 p.val (d.reg (.stackMrange p)) }

/-- MARGIN_SWEEP_START (R153). -/
def execMarginSweepStart (o : Origin) (p : PartIx) (v : Word) (s : State) : Ans :=
  .next (s.regWrite o (.stackMctl p) fun s => s.mctlWrite p (setBit v 63 true))

/-- A STACK_EYE entry as stored: WORST reads 0 when no lane failed. -/
def eyeEntry (w : Word32) : Nat := if nbits w.toNat 18 8 = 0 then nbits w.toNat 18 0 else w.toNat

/-- The passing offsets in one unbroken run through offset 0, on a list of (offset, passes) in ascending order: its span. -/
def eyeSpan (l : List (Int × Bool)) : Nat :=
  match l.find? fun e => e.1 == 0 with
  | some (_, true) =>
    let up := ((l.filter fun e => decide (0 ≤ e.1)).takeWhile (·.2)).foldl (fun m e => max m e.1) 0
    let dn := ((l.filter fun e => decide (e.1 ≤ 0)).reverse.takeWhile (·.2)).foldl (fun m e => min m e.1) 0
    (up - dn).toNat
  | _ => 0

/-- MARGIN_SWEEP_DONE (R154): the points' results on the sweep's own grid fill STACK_EYE, STACK_MSTAT gives the eye. -/
def execMarginSweepDone (p : PartIx) (points : List Word32) (s : State) : Ans :=
  .next (
    let r := s.dev.sweeps.get 0 p.val
    match bit (s.dev.reg (.stackMctl p)) 62, sweepGrid r with
    | true, some (nt, nv) =>
      let pts := (padTo (nt * nv) 0 points).map eyeEntry
      let passes (i : Nat) : Bool := nbits (pts.getD i 0) 18 8 == 0
      let t (i : Nat) : Int := sint 8 (fld r 15 8) + i * fld r 31 24
      let v (i : Nat) : Int := sint 8 (fld r 47 40) + i * fld r 63 56
      let t0 := (List.range nt).find? fun i => t i == 0
      let v0 := (List.range nv).find? fun i => v i == 0
      let eyeH := match t0 with
        | some it => eyeSpan ((List.range nv).map fun iv => (v iv, passes (iv * nt + it)))
        | none => 0
      let eyeW := match v0 with
        | some iv => eyeSpan ((List.range nt).map fun it => (t it, passes (iv * nt + it)))
        | none => 0
      s.onDev fun d =>
        let d := (List.range (ceilDiv (nt * nv) 2)).foldl (fun d i =>
          d.modReg (.stackEye p (Fin.ofNat 2048 i)) fun w =>
            let w := setFld w 31 0 (pts.getD (2 * i) 0)
            if 2 * i + 1 < nt * nv then setFld w 63 32 (pts.getD (2 * i + 1) 0) else w) d
        let d := d.setReg (.stackMstat p) (fput 47 40 nv ||| fput 39 32 nt ||| fput 23 16 eyeH ||| fput 7 0 eyeW)
        d.modReg (.stackMctl p) fun w => setBit (setBit w 62 false) 61 true
    | _, _ => s)

end Sys2Proof.Machine
end

