-- ==== Sys2Proof/Machine/Errors.lean ====
section
/-! DEFINITION. The error record's registers, EMCY, saturated places, and replacement: the descriptor update of R29 and
HEALTH (R28 … R31, R330 … R352). -/

namespace Sys2Proof.Machine

-- the record (R331, R333, R335)

/-- A source code that R336 lists. -/
def sourceListed (s : Fin 64) : Bool := decide (1 ≤ s.val ∧ s.val ≤ 40)

/-- Sources whose EMCY is enabled and whose STATUS is set, ascending (R342). -/
def Dev.emcySources (d : Dev) : List (Fin 64) :=
  (List.finRange 64).filter fun s => bit (d.reg (.errStat s)) 63 && bit (d.reg .errEmcyen) s.val && bit emcyYes s.val

/-- A write of ERR_STAT: STATUS and OVER are cleared where 1 is written, CLRCNT sets COUNT to 0. When the last enabled source
with STATUS set is cleared, one EMCY 0x0000 follows (R342). -/
def Dev.errStatWrite (d : Dev) (s : Fin 64) (v : Word) : Dev :=
  if !sourceListed s then d
  else
    let was := d.emcySources
    let d := d.modReg (.errStat s) fun w =>
      let w := storeTyped (.errStat s) w v
      if bit v 61 then setFld w 31 0 0 else w
    if was.contains s && d.emcySources.isEmpty then d.pushEmcy { code := 0, bytes := [0, 0, 0, 0, 0] } else d

/-- ERR_STAT_WRITE (R333). -/
def execErrStatWrite (o : Origin) (i : Fin 64) (v : Word) (s : State) : Ans :=
  .next (s.regWriteV o (.errStat i) v fun s => s.onDev fun d => d.errStatWrite i v)

/-- ERR_CLRCNT (R331): a write of CLRCNT alone. -/
def execErrClrcnt (o : Origin) (i : Fin 64) (s : State) : Ans :=
  .next (s.regWriteV o (.errStat i) 0x2000000000000000 fun s => s.onDev fun d => d.errStatWrite i 0x2000000000000000)

/-- ERR_SUMMARY (R335). -/
def Dev.errSummary (d : Dev) : Word :=
  ((List.finRange 64).drop 1).foldl (fun w s => setBit w s.val (bit (d.reg (.errStat s)) 63)) 0

/-- The error register 0x1001.00 (R341). -/
def State.errRegister (s : State) : Nat :=
  let w := s.dev.errSummary
  let any (l : List Nat) : Bool := l.any (bit w)
  let b1 := any [36]
  let b2 := any [37, 32]
  let b3 := any [34, 35]
  let b4 := any [25, 26, 27, 28, 29, 30, 31, 20, 33, 38, 39]
  let b7 := any ((List.range 13).map (· + 2)) || any [19, 40] || bit s.nv.health 0
  (w != 0 || b7).toNat + 2 * b1.toNat + 4 * b2.toNat + 8 * b3.toNat + 16 * b4.toNat + 128 * b7.toNat

/-- EMCY_TRANSMIT (R340, R342): the oldest waiting message leaves once the inhibit time of 0x1015 has passed. -/
def execEmcyTransmit (s : State) : Ans :=
  .next (match s.dev.emcy with
    | [] => s
    | e :: r =>
      s.when (decide (s.dev.nmt = .preop ∨ s.dev.nmt = .oper) && (s.dev.emcyAt == 0 || decide (s.dev.emcyAt + 100000 * s.dev.commVal 0x1015 0 ≤ s.now)))
        (let reg := s.errRegister
         s.onDev fun d => ({ d with emcy := r, emcyAt := s.now }).can (.emcy (d.commVal 0x1014 0) e.code reg e.bytes)))

-- saturated places (R337)

/-- MESH_OR_CHANNEL_SATURATED (R337). -/
def execMeshOrChannelSaturated (x : SatPlace) (s : State) : Ans :=
  .next (match x with
    | .edge e up =>
      let lo := if e.val < 6 then 4 * (e.val / 3) + e.val % 3 else e.val - 6
      let hi := if e.val < 6 then lo + 1 else lo + 4
      s.when s.dev.hubUp (s.record .saturated (0x2000 + 16 * up.toNat + e.val) 0 (idUnit s.dev.devId (if up then lo else hi) 0))
    | .channel p c =>
      s.when (s.dev.partUp p) (s.record .saturated (0x3000 + 32 * p.val + c.val) 0 (s.dev.sliceId p c)))

-- descriptor updates (R28 … R31) and replacement (R350, R351)

/-- A change of one descriptor entry: partition, k, the new STATE, FLAGS bit 40 and DETAIL where they change. -/
structure Patch where
  p : Nat
  k : Nat
  state : Option Nat := none
  flag : Bool := false
  detail : Option Nat := none
  /-- the cause of R350 that the change of STATE or FLAGS has, 0 for none -/
  cause : Nat := 0
  deriving DecidableEq, Repr

/-- The patches of a change; a retired core or cluster names the cores it takes. -/
def State.patches (s : State) : Change → List Patch
  | .core c => [{ p := corePart c, k := 9 + coreUnit c, state := some 2, cause := 6 }]
  | .cluster k =>
    { p := clusterPart k, k := 1 + k.val % 8, state := some 2, cause := 7 } ::
      ((clusterCores k).filter s.nv.coreGood).map fun c => { p := corePart c, k := 9 + coreUnit c, state := some 2, cause := 6 }
  | .port n => [{ p := portPart n, k := 369 + n.val % 8, state := some 2, cause := 8 }]
  | .vias p u => [{ p := p, k := 145 + u, flag := true, cause := 3 }]
  | .spare p u n => [{ p := p, k := 145 + u, detail := some n }]
  | .remap p c used =>
    let th := fld (s.dev.reg (.sliceRmctl p)) 3 0
    [{ p := p, k := 81 + c.val, flag := decide (th ≤ used), detail := some used, cause := 2 }]
  | .sensor p => [{ p := p, k := 0, flag := true, cause := 9 }]
  | .viaLost _ _ | .chanDown _ _ | .margin _ => []

/-- The cause of a change that has no descriptor entry, and the unit named in its EMCY (R340). -/
def bareCause : Change → Option (Nat × Nat × Nat)
  | .viaLost p u => some (4, p.val, 145 + u)
  | .chanDown p c => some (5, p.val, 81 + c.val)
  | .margin p => some (1, p.val, 0)
  | _ => none

/-- An entry with a patch applied; a fused or failed entry keeps its STATE. -/
def Patch.apply (x : Patch) (w : Word) : Word :=
  let w := match x.state with
    | some n => if fld w 47 46 = 0 then setFld w 47 46 n else w
    | none => w
  let w := if x.flag then setBit w 40 true else w
  match x.detail with
  | some n => setFld w 39 32 n
  | none => w

/-- The patches made one after the other: the entries by number 384 × p + k, and for each cause touched its first entry in
descriptor order. -/
def Nv.patched (nv : Nv) (l : List Patch) : Tbl Word × List (Nat × Nat) :=
  l.foldl (fun (acc : Tbl Word × List (Nat × Nat)) x =>
    let i := 384 * x.p + x.k
    let old := acc.1.get (nv.entry x.p x.k) i
    let new := x.apply old
    let hit := fld old 47 40 != fld new 47 40 && x.cause != 0
    (acc.1.set (nv.entry x.p x.k) i new, if hit then acc.2 ++ [(x.cause, i)] else acc.2)) ([], [])

/-- Cores of a partition, or of one of its clusters, that read good among the entries as patched. -/
def goodIn (nv : Nv) (t : Tbl Word) (p lo hi : Nat) : Nat :=
  ((List.range (hi - lo)).filter fun i => fld (t.get (nv.entry p (9 + lo + i)) (384 * p + 9 + lo + i)) 47 46 == 0).length

/-- Counts of good cores in the cluster and partition entries after the patches (R24). -/
def Nv.counted (nv : Nv) (t : Tbl Word) (l : List Patch) : Tbl Word :=
  (nub ((l.filter fun x => decide (9 ≤ x.k ∧ x.k < 81)).map fun x => (x.p, (x.k - 9) / 9))).foldl (fun t e =>
    let (p, q) := e
    let put (t : Tbl Word) (k n : Nat) : Tbl Word :=
      t.set (nv.entry p k) (384 * p + k) (setFld (t.get (nv.entry p k) (384 * p + k)) 39 32 n)
    put (put t (1 + q) (goodIn nv t p (9 * q) (9 * q + 9))) 0 (goodIn nv t p 0 72)) t

/-- One descriptor update (R29, R30): GEN passes through an odd value to an even one, every changed entry carries it, and each
is journalled. The causes touched, and the units that it retires. -/
def State.descUpdate (s : State) (l : List Patch) : List (Nat × Nat) × List Nat × State :=
  let (t, causes) := s.nv.patched l
  let t := (s.nv.counted t l).filter fun e => e.2 != s.nv.entry (e.1 / 384) (e.1 % 384)
  let gone := (t.filter fun e => fld (s.nv.entry (e.1 / 384) (e.1 % 384)) 47 46 == 0 && fld e.2 47 46 == 2).map (·.1)
  if t.isEmpty then (causes, gone, s)
  else
    let gen := (s.nv.gen + 2) % 2 ^ 32
    (causes, gone, t.foldl (fun s e =>
      let old := s.nv.entry (e.1 / 384) (e.1 % 384)
      let new := setFld e.2 19 0 (gen % 2 ^ 20)
      let s := s.onNv fun nv => { nv with desc := nv.desc.set (nv.part.entry (e.1 / 384) (e.1 % 384)) e.1 new }
      s.journalSelf (0x2010 + e.1 / 384) 0 old.toNat new.toNat)
      (s.onNv fun nv => { nv with gen := gen, lastChange := BitVec.ofNat 64 s.now }))

/-- The EMCY of a replacement cause carried by a unit (R340). -/
def causeEmcy (b p k : Nat) : Emcy := { code := 0xFE00 + b, bytes := [0x80 + b, p, k % 256, k / 256, 0] }

/-- A retired unit leaves service (R28, R31): a task running on a core is asked to abort, a port's traffic is answered
LINK_DOWN. The unit is given by the number of its descriptor entry. -/
def State.leaveService (s : State) (i : Nat) : State :=
  let p := i / 384
  let k := i % 384
  let s := s.onDev fun d =>
    if 9 ≤ k ∧ k < 81 then
      let c : CoreIx := Fin.ofNat 576 (72 * p + (k - 9))
      if (d.core c).task.isSome then d.abortTask s.now c 10 else d.coresHalt s.now [c]
    else if 369 ≤ k ∧ k < 377 then
      let n : PortIx := Fin.ofNat 64 (8 * p + (k - 369))
      let d := (d.setPortState n 9).modPort n fun x => { x.idle with looping := false, downOk := false }
      ((d.dropTraffic s.now n).loseLink s.now n).staleLost n
    else d
  s.record .retired 0 k (idUnit s.dev.devId p k)

/-- HEALTH with causes set (R350): REPLACE, the cause bits, EVENTS advanced. -/
def healthWith (w : Word) (causes : List Nat) : Word :=
  setBit (causes.foldl (fun w b => setBit w b true) (satAdd w 31 16 1)) 0 true

/-- The changes of the oldest event that waits: those found at one moment, which one update enters (R29), and the later ones. -/
def Dev.event (d : Dev) : List Change × List (Nat × Change) :=
  match d.updates with
  | [] => ([], [])
  | (t, c) :: r =>
    let more := r.takeWhile fun e => e.1 == t
    (c :: more.map (·.2), r.drop more.length)

/-- Whether the oldest event that waits changes the descriptor. -/
def State.eventOpens (s : State) : Bool :=
  let l := (s.dev.event.1.map s.patches).flatten
  let t := s.nv.counted (s.nv.patched l).1 l
  t.any fun e => e.2 != s.nv.entry (e.1 / 384) (e.1 % 384)

/-- One descriptor update of the changes of one event, then HEALTH, REPLACE_N, an EMCY for each cause touched and the message of
function 1 (R29, R351). Changes that touch no cause raise no replacement request. -/
def State.updateEvent (s : State) : State :=
  s.when (s.dev.dictUp && s.dev.updates != [])
    (let (changes, later) := s.dev.event
     let (hits, gone, s) := s.descUpdate ((changes.map s.patches).flatten)
     let s := gone.foldl State.leaveService (s.onDev fun d => { d with updates := later, genOpen := false })
     let bare := changes.filterMap bareCause
     let causes := (List.range 10).filter fun b => hits.any (fun h => h.1 == b) || bare.any (fun h => h.1 == b)
     if causes.isEmpty then s
     else
       let old := s.nv.health
       let new := healthWith old causes
       let s := (s.onNv fun nv => { nv with
         health := new, causeAt := bare.reverse.foldl (fun t h => t.set 0 h.1 (512 * h.2.1 + h.2.2)) nv.causeAt }).journalSelf 0x2383 0 old.toNat new.toNat
       s.onDev fun d =>
         let d := causes.foldl (fun d b =>
           let unit := match bare.find? fun h => h.1 == b with
             | some h => h.2
             | none =>
               let i := ((hits.filter fun (h : Nat × Nat) => h.1 == b).map Prod.snd).foldl min (8 * 384)
               (i / 384, i % 384)
           d.pushEmcy (causeEmcy b unit.1 unit.2)) { d with replaceN := true }
         d.msix 1 3)

/-- The update under way is finished: entries and GEN take their new values (steps 2 … 4 of R29). -/
def State.updateFinish (s : State) : State := s.when s.dev.genOpen s.updateEvent

/-- Every event that waits, one update after the other. -/
def State.updateAll (s : State) : State := s.dev.updates.foldl (fun s _ => s.updateEvent) s

/-- What waits is entered at a reset's self-test step, in one update (R368). -/
def State.updateTogether (s : State) : State :=
  (s.onDev fun d => { d with updates := d.updates.map fun e => (s.now, e.2) }).updateAll

/-- Whether an update has to wait for the self-test step of a reset under way (R368). -/
def Dev.updatesHeld (d : Dev) : Bool :=
  d.seqs.any fun q => match q.kind with
    | .cold | .warm => decide (q.step < 6)
    | .partition _ => decide (q.step < 4)
    | _ => false

/-- REPLACEMENT_EVENT (R29, R351): Firmware takes the oldest event that waits. One that changes the descriptor opens the update:
GEN reads odd until the next REPLACEMENT_EVENT or the next tick finishes it; any other is made at once. During a reset both wait for
its self-test step (R368). -/
def execReplacementEvent (s : State) : Ans :=
  .next (s.when (s.dev.dictUp && s.dev.updates != [] && (s.dev.genOpen || !s.dev.updatesHeld))
    (if !s.dev.genOpen && s.eventOpens then s.onDev fun d => { d with genOpen := true } else s.updateEvent))

/-- A unit that carries a cause of HEALTH: for the causes that change no entry the unit concerned, as remembered; for the others the
first entry in descriptor order that shows it, and where none shows it a free value (log entry 51). -/
def State.causeUnit (s : State) (b : Nat) : Nat × Nat :=
  if b = 1 ∨ b = 4 ∨ b = 5 then (s.nv.causeAt.get 0 b / 512, s.nv.causeAt.get 0 b % 512)
  else
  let shows (i : Nat) : Bool :=
    let w := s.nv.entry (i / 384) (i % 384)
    let kind := fld w 63 60
    (b == 6 && kind == 2 && fld w 47 46 == 2) || (b == 7 && kind == 1 && fld w 47 46 == 2) ||
      (b == 8 && kind == 6 && fld w 47 46 == 2) || (b == 2 && kind == 3 && bit w 40) ||
      (b == 3 && kind == 5 && bit w 40) || (b == 9 && kind == 0 && bit w 40)
  match (List.range 3072).find? shows with
  | some i => (i / 384, i % 384)
  | none => (fld s.dev.free 2 0, fld s.dev.free 19 11)

/-- Entry into pre-operational or operational (R342): an EMCY for each enabled source with STATUS set, then for each HEALTH
cause. -/
def State.enterNmt (s : State) (n : Nmt) : State :=
  let s := s.onDev fun d => { d with nmt := n }
  let s := s.onDev fun d => d.emcySources.foldl (fun d i =>
    let id := d.reg (.errId i)
    d.pushEmcy (srcEmcy i.val (fld id 55 32) (fld id 31 0))) d
  let causes := ((List.range 10).drop 1).filter fun b => bit s.nv.health b
  let units := causes.map fun b => (b, s.causeUnit b)
  s.onDev fun d => (units.foldl (fun d e => d.pushEmcy (causeEmcy e.1 e.2.1 e.2.2)) d).spend

end Sys2Proof.Machine
end

