-- ==== Sys2Proof/Machine/Pacer.lean ====
section
/-! DEFINITION. The Pacer (R371 … R386): power estimates, limits, rest, the combination of the policies, droop, ageing margin,
temperature inputs and thermal control. Voltages in mV, powers in nW, temperatures in 1/16 °C. -/

namespace Sys2Proof.Machine

-- limits in force (R374, R375, R386)

/-- ICC and IPK of a partition in A. -/
def Dev.icc (d : Dev) (p : PartIx) : Nat := min 320 (fld (d.reg (.pacePcfg p)) 43 35)
@[inherit_doc Dev.icc]
def Dev.ipk (d : Dev) (p : PartIx) : Nat := min 400 (fld (d.reg (.pacePcfg p)) 34 26)

/-- PKG_W and PEAK_W in W. -/
def Dev.pkgW (d : Dev) : Nat := min 2800 (fld (d.reg .paceGcfg) 63 52)
@[inherit_doc Dev.pkgW]
def Dev.peakW (d : Dev) : Nat := max d.pkgW (min 3200 (fld (d.reg .paceGcfg) 51 40))

/-- V0_p + GUARD, at least 600 mV (R382). -/
def Dev.vfloor (d : Dev) (p : PartIx) : Nat :=
  max 600 (fld (d.reg (.paceMargin p)) 63 54 + fld (d.reg (.paceMargin p)) 53 48)

/-- VSET and REST as the Pacer last set them; a halt is no rest of 63 slots. -/
def Dev.vset (d : Dev) (p : PartIx) : Nat := fld (d.reg (.pacePstat p)) 63 54
@[inherit_doc Dev.vset]
def Dev.rest (d : Dev) (p : PartIx) : Nat := if bit (d.reg (.pacePstat p)) 47 then 0 else fld (d.reg (.pacePstat p)) 53 48

-- the estimate (R373)

/-- The dynamic term: (V ÷ 750)² × Σ w × n ÷ 2 µs, w in 0.01 pJ. -/
def dynPower (w n : List Nat) (v : Nat) : Nat := 5 * ((w.take 12).zipWith (· * ·) n).sum * v ^ 2 / 750 ^ 2

/-- The leakage term: LEAK × (V ÷ 750)³ × 2^((Tj − 60 °C) ÷ 25 K), with 32 fraction bits of the exponent. -/
def leakPower (leak v : Nat) (tj : Int) : Nat :=
  let x : Int := (tj - 960) * 2 ^ 32 / 400
  let f := pow2Frac 32 (x % 2 ^ 32).toNat
  let k : Int := x / 2 ^ 32
  let base := leak * 10 ^ 8 * v ^ 3 * f / (750 ^ 3 * 2 ^ 160)
  if 0 ≤ k then base * 2 ^ k.toNat else base / 2 ^ (-k).toNat

/-- What one interval of a partition came to: dynamic and leakage power, and the dynamic power without the rest that was in
force. -/
structure PartPower where
  p    : PartIx
  dyn  : Nat
  leak : Nat
  full : Nat
  deriving DecidableEq, Repr

/-- The estimate of a partition. -/
def State.partPower (s : State) (a : Activity) (p : PartIx) : PartPower :=
  let w := s.nv.part.weights.getD p.val []
  let v := s.dev.vset p
  let arrays := (List.range 4).map fun j => (s.dev.acts.get [] p.val).getD j 0
  let dyn := dynPower w (arrays ++ a.counts.getD p.val []) v
  { p := p, dyn := dyn, leak := leakPower (w.getD 12 0) v (s.dev.paceOf p).tj, full := dyn * 64 / (64 - s.dev.rest p) }

/-- The smallest rest of at most 56 that satisfies `ok`, 56 where none does. -/
def leastRest (ok : Nat → Bool) : Nat := ((List.range 57).find? ok).getD 56

-- enforcement (R374, R375, R376)

/-- One interval of enforcement with `n` intervals in the place of 10: whether the estimate exceeded the sustained limit,
whether it stayed within it without rest, the rest in force during it and the rest now demanded, whether the estimate is below
0.9 of the limit. Answers the steps of 5 mV, down and up (log entry 60). -/
def Enforce.tick (e : Enforce) (n : Nat) (was rest : Nat) (low : Bool) : Enforce × Bool × Bool :=
  let demand := if 0 < was then min n (e.demand + 1) else 0
  let fall := decide (demand = n) && e.fallT == 0
  let fallT := if demand < n then 0 else if fall then 9 else e.fallT - 1
  let rising := decide (rest = 0) && low
  let rise := rising && decide (49 ≤ e.riseT)
  let riseT := if rising && !rise then e.riseT + 1 else 0
  ({ e with demand := demand, fallT := fallT, riseT := riseT }, fall, rise)

/-- Whether the sustained limit holds: from `n` intervals over it until `n` intervals that stayed within it. -/
def Enforce.sustain (e : Enforce) (n : Nat) (exceeded stayed : Bool) : Enforce :=
  let ovf := if exceeded then min n (e.ovf + 1) else 0
  let under := if stayed then min n (e.under + 1) else 0
  { e with ovf := ovf, under := under, hold := if e.hold then decide (under < n) else decide (ovf = n) }

/-- Note whether the limit was enforced; the second value says that enforcement began after 1 ms without (R376). -/
def Enforce.note (e : Enforce) (on : Bool) : Enforce × Bool :=
  let begins := on && !e.on && (match e.quiet with | none => true | some q => decide (500 ≤ q))
  ({ e with on := on, quiet := if on then some 0 else e.quiet.map fun q => min 500 (q + 1) }, begins)

/-- The rail number of VCORE_p (R371). -/
def coreRail (p : PartIx) : Nat := 4 * p.val

/-- TIMING_RATE after an interval (R43). -/
def Dev.rateReport (d : Dev) (p : PartIx) (mhz : Nat) : Dev :=
  d.modReg (.timingRate p) fun w =>
    let w := setFld w 15 0 mhz
    if mhz = 0 then w else setFld (setFld w 63 48 (max mhz (fld w 63 48))) 47 32 (min mhz (fld w 47 32))

/-- The current limit of one partition over the interval: enforcement, rest_cur, V_cur, CURRENT_LIMIT. -/
def State.limitPart (s : State) (x : PartPower) : State :=
  let p := x.p
  let a := s.dev.paceOf p
  let v := s.dev.vset p
  let at_ (amp : Nat) : Nat := amp * v * 10 ^ 6
  let e := a.cur.sustain 10 (decide (at_ (s.dev.icc p) < x.dyn + x.leak)) (decide (x.full + x.leak ≤ at_ (s.dev.icc p)))
  let lim := if e.hold then min (s.dev.icc p) (s.dev.ipk p) else s.dev.ipk p
  let rest : Nat := leastRest fun r => decide (x.full * (64 - r) / 64 + x.leak ≤ at_ lim)
  let (e, fall, rise) := e.tick 10 a.restCur rest (decide (10 * (x.dyn + x.leak) < 9 * at_ (s.dev.icc p)))
  let (e, begins) := e.note (e.hold || decide (0 < rest) || a.rested)
  let vCur := if fall then max 600 (a.vCur - 5) else if rise then min (s.dev.vhi p) (a.vCur + 5) else a.vCur
  let s := s.onDev fun d => d.modPace p fun a => { a with cur := e, restCur := rest, vCur := vCur }
  if begins then s.record .currentLimit 0 (coreRail p) (idHub s.dev.devId) else s

/-- rest_cap (R378): the smallest rest that holds the rate measured in the last interval at 2.00 G steps/s. -/
def restCap (rate was : Nat) : Nat := leastRest fun r => decide (rate * 64 / (64 - was) * (64 - r) ≤ 2000 * 64)

/-- rest_therm in force: 56 while the hub is too hot (R384). -/
def Dev.restTherm (d : Dev) (p : PartIx) : Nat := if d.package.hubHot then 56 else (d.paceOf p).restTherm

/-- The package limit over the interval (R375): one rest for every partition. -/
def State.limitPackage (s : State) (a : Activity) (l : List PartPower) : State :=
  let k := s.dev.package
  let rails := a.rails.sum * 10 ^ 9
  let est := (l.map fun x => x.dyn + x.leak).sum + rails
  let withRest (r : Nat) : Nat := (l.map fun x =>
    let own := max (s.dev.paceOf x.p).restCur (s.dev.restTherm x.p)
    x.full * (64 - max r own) / 64 + x.leak).sum + rails
  let cap (w : Nat) : Nat := w * 10 ^ 9
  let e := k.enf.sustain 500 (decide (cap s.dev.pkgW < est)) (decide (withRest 0 ≤ cap s.dev.pkgW))
  let lim := if e.hold then s.dev.pkgW else s.dev.peakW
  let rest : Nat := leastRest fun r => decide (withRest r ≤ cap lim)
  let (e, fall, rise) := e.tick 500 k.restPkg rest (decide (10 * est < 9 * cap s.dev.pkgW))
  let (e, begins) := e.note (e.hold || decide (0 < rest))
  let s := s.onDev fun d =>
    let d := { d with package := { d.package with enf := e, restPkg := rest } }
    let d := l.foldl (fun d x => d.modPace x.p fun y =>
      { y with vPkg := if fall then max 600 (y.vPkg - 5) else if rise then min (d.vhi x.p) (y.vPkg + 5) else y.vPkg }) d
    let on := e.on || l.any fun x => (d.paceOf x.p).cur.on
    d.modReg .paceGstat fun w =>
      let n := min 4095 (est / 10 ^ 9)
      let w := setFld (setFld w 63 52 n) 51 40 (max n (fld w 51 40))
      if on then satAdd w 31 0 1 else w
  if begins then s.record .currentLimit 0 34 (idHub s.dev.devId) else s

-- combining the policies (R379)

/-- The code of the first term that attains the value; terms are listed with their codes. -/
def firstTerm (v : Nat) (l : List (Nat × Nat)) : Nat := ((l.find? fun e => e.2 == v).map (·.1)).getD 0

/-- A halted partition as PACE_PSTAT reports it (R381). -/
def haltWord (w : Word) : Word := setFld (setFld (setBit w 47 true) 53 48 0x3F) 46 44 7

/-- VSET, REST and LIMITER for the next interval; the interval's rest ends. -/
def Dev.combine (d : Dev) (p : PartIx) (cap : Nat) : Dev :=
  let a := d.paceOf p
  let terms : List (Nat × Nat) := [(0, d.vhi p), (1, a.vPace), (2, a.vCur), (3, a.vPkg), (4, a.vTherm)]
  let want := (terms.map (·.2)).foldl min 1023
  let floor := d.vfloor p
  let rests : List (Nat × Nat) := [(2, a.restCur), (3, d.package.restPkg), (4, d.restTherm p), (5, cap)]
  let rest : Nat := min 56 ((rests.map (·.2)).foldl max 0)
  let lim := if 0 < rest then firstTerm ((rests.map (·.2)).foldl max 0) rests
    else if want < floor then 6 else firstTerm want terms
  let d := d.modPace p fun a => { a with rested := false }
  d.modReg (.pacePstat p) fun w =>
    let w := setFld w 63 54 (clampN 600 850 (max floor want))
    if a.tCrit || decide (850 < floor) then haltWord w
    else setFld (setFld (setBit w 47 false) 53 48 rest) 46 44 lim

/-- IEST, IMAX and PEST of the interval. -/
def Dev.reportPower (d : Dev) (x : PartPower) : Dev :=
  let i := min 511 ((x.dyn + x.leak) / d.vset x.p / 10 ^ 6)
  d.modReg (.pacePstat x.p) fun w =>
    setFld (setFld (setFld w 43 35 i) 34 26 (max i (fld w 34 26))) 25 16 (min 1023 ((x.dyn + x.leak) / 10 ^ 9))

/-- PACER_INTERVAL (R373 … R379, R43), with the array counters of the interval and the other activity as operands: the interval's estimates, the limits, and the terms of the next interval. -/
def execPacerInterval (a : Activity) (s : State) : Ans :=
  .next (s.when s.dev.hubUp
    (let ps := (List.finRange 8).filter s.nv.part.enabled
     let l := ps.map (s.partPower a)
     let caps := ps.map fun p => (p, restCap (min 65535 (a.rates.getD p.val 0)) (s.dev.rest p))
     let s := l.foldl State.limitPart s
     let s := s.limitPackage a l
     s.onDev fun d =>
       let d := l.foldl Dev.reportPower d
       let d := ps.foldl (fun d p => d.rateReport p (min 65535 (a.rates.getD p.val 0))) d
       caps.foldl (fun d e => d.combine e.1 e.2) { d with acts := [] }))

/-- ALLOWANCE_REACHED (R374): every issue stage of the partition rests until the interval ends. -/
def execAllowanceReached (p : PartIx) (s : State) : Ans :=
  .next (s.when (s.dev.hubUp && s.nv.part.enabled p) (s.onDev fun d => d.modPace p fun a => { a with rested := true }))

/-- A VID frame (R443): 0b10, the code of the setpoint, and their complement. -/
def vidWord (mv : Nat) : Nat :=
  let hi := 0x80 + (mv - 600) / 5
  256 * hi + (255 - hi)

/-- VID_FRAME (R372, R443): the setpoint of VCORE_p to its regulator. -/
def execVidFrame (p : PartIx) (s : State) : Ans :=
  .next (s.when (s.dev.hubUp && s.nv.part.enabled p) (s.onDev fun d => d.emit (.vid (coreRail p) (vidWord (d.vset p)))))

-- droop (R381)

/-- DROOP_DETECT: below VSET − 35 mV the cluster's issue stages close. -/
def execDroopDetect (k : ClusterIx) (mv : Nat) (s : State) : Ans :=
  let p := clusterPart k
  .next (s.when (s.dev.hubUp && s.nv.part.enabled p && decide (mv + 35 < s.dev.vset p) &&
      !(s.dev.paceOf p).closed.contains k.val)
    (s.onDev fun d => (d.modPace p fun a => { a with closed := a.closed ++ [k.val] }).modReg (.pacePstat p) fun w =>
      satAdd w 15 0 1))

/-- DROOP_RECOVER: above VSET − 25 mV they open again. -/
def execDroopRecover (k : ClusterIx) (mv : Nat) (s : State) : Ans :=
  let p := clusterPart k
  .next (s.when (s.dev.hubUp && decide (s.dev.vset p < mv + 25))
    (s.onDev fun d => d.modPace p fun a => { a with closed := a.closed.filter fun x => x != k.val }))

-- ageing margin (R382)

/-- A measured V0_p: EXHAUSTED with MARGIN_LOW and the replacement cause once 600 mV − V0 is below 15 mV; MARGIN_LOW again and a
halt once FLOOR exceeds 850 mV. -/
def State.measureV0 (s : State) (p : PartIx) (v0 : Nat) : State :=
  let low (s : State) : State := s.record .marginLow 0 p.val (idHub s.dev.devId)
  let w := setFld (s.dev.reg (.paceMargin p)) 63 54 (min 1023 v0)
  let spent := decide (600 < v0 + 15) && !bit w 47
  let w := if spent then setBit w 47 true else w
  let s := (s.onDev fun d => d.setReg (.paceMargin p) w).onNv fun nv => nv.keepReg (.paceMargin p) w
  let s := if spent then (low s).onDev fun d => d.change s.now (.margin p) else s
  let ovf := decide (850 < s.dev.vfloor p)
  let s := if ovf && !(s.dev.paceOf p).floorHalt then low s else s
  s.onDev fun d =>
    let d := d.modPace p fun a => { a with floorHalt := ovf }
    if ovf then d.modReg (.pacePstat p) haltWord else d

/-- GUARD_UPDATE: after an hour of uptime, with the median V0 of that hour. A reduction is persisted and journalled. -/
def execGuardUpdate (p : PartIx) (v0 : Nat) (s : State) : Ans :=
  .next (s.when (s.dev.hubUp && s.dev.partUp p)
    (let old := fld (s.dev.reg (.paceMargin p)) 53 48
     let new := min old (max 15 (600 - v0))
     let s := if new < old then
         let w := satAdd (setFld (s.dev.reg (.paceMargin p)) 53 48 new) 31 16 1
         ((s.onDev fun d => d.setReg (.paceMargin p) w).onNv fun nv => nv.keepReg (.paceMargin p) w).journalSelf
           (0x2120 + p.val) 0x0C old new
       else s
     s.measureV0 p v0))

-- temperature inputs (R383, R445)

/-- What an input delivers: a temperature, or open or short; outside the measurable range it is broken at that end (R445). -/
def senseRead (lo hi : Int) : Sense → Sense
  | .temp t => if t < 16 * lo then .opened else if 16 * hi < t then .short else .temp t
  | x => x

/-- The temperature of a working input. -/
def senseValue : Sense → Option Int
  | .temp t => some t
  | _ => none

/-- The hottest of some temperatures. -/
def hottest : List Int → Option Int
  | [] => none
  | t :: r => some (r.foldl max t)

/-- THERM_READ of an input with the value in use. -/
def thermWord (x : Sense) (t : Int) : Word :=
  fput 15 0 (unint 16 t) ||| (match x with
    | .temp _ => 0
    | .opened => 0x80000000
    | .short => 0xC0000000)

/-- TEMP of an input. -/
def Dev.temp (d : Dev) (i : Fin 28) : Int := sint 16 (fld (d.reg (.thermRead i)) 15 0)

/-- An input as sampled, read as `t`; its first break is recorded. -/
def State.sampled (s : State) (i : Fin 28) (x : Sense) (t : Int) : State :=
  let s := s.onDev fun d => d.setReg (.thermRead i) (thermWord x t)
  if (senseValue x).isSome || s.dev.package.broken.contains i.val then s
  else
    let s := s.onDev fun d => { d with package := { d.package with broken := d.package.broken ++ [i.val] } }
    s.record .sensorBroken 0 ((if x = .short then 32 else 0) + i.val) (idHub s.dev.devId)

/-- TDRAM_p or Tj_p above its limit shows in THERM_PART (R386). -/
def Dev.thermPartWord (d : Dev) (p : PartIx) : Dev :=
  let a := d.paceOf p
  d.setReg (.thermPart p) (fput 63 48 (unint 16 a.tj) ||| fput 47 32 (unint 16 a.tdram) |||
    fput 1 1 a.tCrit.toNat ||| fput 0 0 (decide (1600 < a.tj) || decide (1520 < a.tdram)).toNat)

/-- DIODE_SAMPLE (R383, R385): the diodes of each die in order west, centre, east; Tj_p is the hottest value in use, the die's
reference follows their mean. -/
def execDiodeSample (l : List Sense) (s : State) : Ans :=
  .next (s.when s.dev.hubUp
    (let ps := (List.finRange 8).filter s.nv.part.enabled
     let sense (p : PartIx) (j : Nat) : Sense := senseRead (-40) 150 (l.getD (3 * p.val + j) .opened)
     let works (p : PartIx) : List Int := ((List.range 3).map (sense p)).filterMap senseValue
     let all := hottest ((ps.map works).flatten)
     ps.foldl (fun s p =>
       let sub : Int := match hottest (works p), all with
         | some t, _ => t
         | none, some t => t + 160
         | none, none => 1600
       let use (j : Nat) : Int := (senseValue (sense p j)).getD sub
       let s := (List.range 3).foldl (fun s j =>
         let s := s.sampled (Fin.ofNat 28 (3 * p.val + j)) (sense p j) (use j)
         if (senseValue (sense p j)).isNone then s.onDev fun d => d.change s.now (.sensor p) else s) s
       s.onDev fun d => (d.modPace p fun a =>
         { a with tj := max (use 0) (max (use 1) (use 2)), reference := (use 0 + use 1 + use 2) / 3 }).thermPartWord p) s))

/-- A thermal condition of R384: THERMAL is recorded when it begins, and again only after 1 ms of absence. -/
def State.thermal (s : State) (key : Nat) (now : Bool) (subj who : Nat) : State :=
  let v := s.dev.package.conds.get 0 key
  let put (n : Nat) : State := s.onDev fun d => { d with package := { d.package with conds := d.package.conds.set 0 key n } }
  if now then
    let new := v == 0 || (decide (2 ≤ v) && decide (v - 2 + 1000000 ≤ s.now))
    if new then (put 1).record .thermal 0 subj who else put 1
  else if v = 1 then put (s.now + 2) else s

/-- THERMISTOR_SAMPLE (R383, R384): inlet, outlet, board north and south. -/
def execThermistorSample (l : List Sense) (s : State) : Ans :=
  .next (s.when s.dev.hubUp
    (let sense (j : Nat) : Sense := senseRead (-20) 125 (l.getD j .opened)
     let limit : Int := if s.nv.part.gradeE then 720 else 640
     let dt : Int := 16 * (fld (s.dev.reg .thermCfg) 47 40 : Nat)
     let inlet := (senseValue (sense 0)).getD limit
     let outlet := (senseValue (sense 1)).getD (inlet + dt)
     let s := s.sampled 24 (sense 0) inlet
     let s := s.sampled 25 (sense 1) outlet
     let s := s.sampled 26 (sense 2) ((senseValue (sense 2)).getD 1360)
     let s := s.sampled 27 (sense 3) ((senseValue (sense 3)).getD 1360)
     let hub := idHub s.dev.devId
     let s := s.thermal 24 (decide (limit < inlet)) 24 hub
     let s := s.thermal 30 (decide (inlet + dt < outlet)) 30 hub
     let s := s.thermal 26 (decide (1360 < s.dev.temp 26)) 26 hub
     s.thermal 27 (decide (1360 < s.dev.temp 27)) 27 hub))

/-- The hottest legal reading of the hub's sensor, read in its place while it is broken (R52): R383 names no substitute for it,
and the model takes that of a die without a working diode, the hottest diode of the device + 10 K, 100 °C where no die has been
read (DESIGN CHOICE, log entry 115). -/
def State.hubHottest (s : State) : Int :=
  match hottest ((((List.finRange 8).filter s.nv.part.enabled).map fun p => (s.dev.paceOf p).tj).filter fun t => t != 0) with
  | some t => t + 160
  | none => 1600

/-- DRAM_SENSOR_SAMPLE (R383): the sensor of each DRAM layer of each partition, the hottest of which is TDRAM_p, and the hub. -/
def execDramSensorSample (l : List (List Int)) (hub : Sense) (s : State) : Ans :=
  .next (s.when s.dev.hubUp (s.onDev fun d =>
    let hub := (senseValue hub).getD s.hubHottest
    let d := ((List.finRange 8).filter s.nv.part.enabled).foldl (fun d p =>
      let t := l.getD p.val []
      (d.modPace p fun a => { a with tdram := (hottest t).getD 0, layers := t }).thermPartWord p) d
    ({ d with package := { d.package with hub := hub } }).setReg .thermHub (fput 15 0 (unint 16 hub))))

-- thermal control (R384)

/-- T_TARGET and DRAM_TARGET in force, in 1/16 °C. -/
def Dev.tTarget (d : Dev) : Int := 16 * (clampN 70 100 (fld (d.reg .thermCfg) 63 56) : Nat)
@[inherit_doc Dev.tTarget]
def Dev.dramTarget (d : Dev) : Int := 16 * (clampN 70 93 (fld (d.reg .thermCfg) 55 48) : Nat)

/-- V_therm and rest_therm of a partition, and its halt for T_CRIT. -/
def Dev.thermStep (d : Dev) (p : PartIx) : Dev :=
  let a := d.paceOf p
  let a : Pace :=
    if 1600 < a.tj ∨ 1520 < a.tdram then { a with restTherm := 56, vTherm := min a.vTherm (d.vfloor p) }
    else if d.tTarget < a.tj ∨ d.dramTarget < a.tdram then
      if d.vset p ≤ d.vfloor p then { a with restTherm := min 56 (a.restTherm + 4) }
      else { a with vTherm := max 600 (a.vTherm - 5) }
    else if a.tj < d.tTarget - 48 ∧ a.tdram < d.dramTarget - 48 then
      if 0 < a.restTherm then { a with restTherm := a.restTherm - 4 }
      else { a with vTherm := max a.vTherm (min (d.vhi p) (a.vTherm + 5)) }
    else a
  let a := { a with tCrit := decide (1760 ≤ a.tj) || (a.tCrit && decide (1600 ≤ a.tj)) }
  let d := (d.modPace p fun _ => a).thermPartWord p
  if a.tCrit then d.modReg (.pacePstat p) haltWord else d

/-- The input number of the hottest diode of a die, the first of equals. -/
def Dev.hotDiode (d : Dev) (p : PartIx) : Nat :=
  let i (j : Nat) : Fin 28 := Fin.ofNat 28 (3 * p.val + j)
  ((List.range 3).find? fun j => d.temp (i j) == (d.paceOf p).tj).map (fun j => 3 * p.val + j) |>.getD (3 * p.val)

/-- THERMAL_CONTROL. -/
def execThermalControl (s : State) : Ans :=
  .next (s.when s.dev.hubUp
    (let ps := (List.finRange 8).filter s.nv.part.enabled
     let dev := s.dev.devId
     -- events of the same moment: by partition, the hub's last (R333)
     let s := ps.foldl (fun s p => s.thermal (200 + p.val) (decide (1520 < (s.dev.paceOf p).tdram)) 28 (idUnit dev p.val 0)) s
     let s := ps.foldl (fun s p => s.thermal (100 + p.val) (decide (1600 < (s.dev.paceOf p).tj)) (s.dev.hotDiode p) (idHub dev)) s
     let s := s.onDev fun d => ps.foldl Dev.thermStep d
     let hub := s.dev.package.hub
     let s := s.thermal 29 (decide (1600 < hub)) 29 (idHub dev)
     s.onDev fun d =>
       let d : Dev := { d with package := { d.package with
         hubHot := decide (1600 < hub) || (d.package.hubHot && decide (1552 ≤ hub)) } }
       let hot := decide (1920 ≤ hub) || ps.any fun (p : PartIx) =>
         decide (1920 ≤ (d.paceOf p).tj) || decide (1920 ≤ (d.paceOf p).tdram)
       { d with thermN := d.thermN || hot }))

/-- OSCILLATOR_COMPENSATION (R52, R385): from the hub's own sensor. -/
def execOscillatorCompensation (s : State) : Ans :=
  .next (s.when s.dev.hubUp (s.onDev fun d => { d with package := { d.package with oscTrim := d.package.hub } }))

-- registers (R386)

/-- PACE_GSTAT_READ. -/
def execPaceGstatRead (o : Origin) (s : State) : Ans := .next (s.readClear o .paceGstat (s.dev.reg .paceGstat))

/-- PACE_PSTAT_READ. -/
def execPacePstatRead (o : Origin) (p : PartIx) (s : State) : Ans :=
  .next (s.readClear o (.pacePstat p) (s.dev.reg (.pacePstat p)))

/-- A write of PACE_PCFG (R379, R386): a term that stands at the old VHI runs free at the new one. -/
def State.pcfgWrite (p : PartIx) (v : Word) (s : State) : State :=
  let old := s.dev.vhi p
  s.onDev fun d =>
    let d := d.modReg (.pacePcfg p) fun w => storeTyped (.pacePcfg p) w v
    let move (x : Nat) : Nat := if x = old then d.vhi p else x
    d.modPace p fun a => { a with vCur := move a.vCur, vPkg := move a.vPkg, vPace := move a.vPace, vTherm := move a.vTherm }

end Sys2Proof.Machine
end

