-- ==== Sys2Proof/Machine/Partner.lean ====
section
/-! DEFINITION. Requests that arrive from other devices, and the responses to this device's requests (R296 … R299, R323, R325). -/

namespace Sys2Proof.Machine

-- windows (R323, R329)

/-- Whether window `w` admits a message of source `src` to the bytes a … a + n − 1; `perm` is the bit of its permission. -/
def Dev.winAdmits (d : Dev) (w : PortIx) (src perm a n : Nat) : Bool :=
  let lo := d.reg (.linkWin w 0)
  let hi := d.reg (.linkWin w 1)
  let g := fld hi 5 0
  let g := if 12 ≤ g ∧ g ≤ 40 then g else 12
  let base := fld lo 51 12 * 4096
  bit lo 63 && bit lo perm && decide (src &&& fld hi 47 32 = fld hi 63 48 &&& fld hi 47 32) &&
    decide (base % 2 ^ g = 0 ∧ base < 2 ^ 40 ∧ base ≤ a ∧ a + n ≤ base + 2 ^ g)

/-- The windows that admit an access, lowest index first. -/
def Dev.windows (d : Dev) (src perm a n : Nat) : List PortIx := (List.finRange 64).filter fun w => d.winAdmits w src perm a n

/-- The window check of a message (R323): whether one admits it. None: counted and recorded; several: MULTI_MATCH. -/
def State.windowCheck (s : State) (n : PortIx) (m : Msg) (perm len : Nat) : Bool × State :=
  match s.dev.windows m.src perm m.addr len with
  | [] =>
    let s := s.onDev fun d => d.modReg (.linkPerr n) fun w => satAdd w 31 24 1
    (false, s.record .linkWindow m.addr (m.op * 64 + n.val) (idRemote m.src))
  | [_] => (true, s)
  | w :: _ => (true, s.record .multiMatch m.addr (0x200000 + w.val) (idHub s.dev.devId))

/-- Take the oldest message of its virtual channel when it is a request of this kind, in its turn at the slices, check it against the
windows, and answer it with what `f` comes to: STATUS, value of PARAM and data. -/
def State.serveRemote (s : State) (n : PortIx) (op perm : Nat) (len : State → Msg → Nat) (f : Msg → State → Nat × List Byte × State) :
    State :=
  match (s.dev.port n).oldest (opVc op) with
  | none => s
  | some x => s.when (x.msg.op == op) (
    let size := len s x.msg
    let run := if s.dev.windows x.msg.src perm x.msg.addr size = [] then [] else [(x.msg.addr, size)]
    s.gated (.link n (opVc op)) (if 3 ≤ op then .adder else .link) (srcLink n) (if op = 1 then run else []) (if op = 1 then [] else run) fun s =>
      s.withMsg n (opVc op) (fun _ => true) fun m s =>
        let (ok, s) := s.windowCheck n m perm (len s m)
        let (st, data, s) := if ok then f m s else (3, [], s)
        s.onDev fun d => d.respond s.now m.servedBy m st 0 data)

/-- Read bytes line by line for an agent other than the Anchor: none where a line ends in an error completion; whether a
granule was uncorrectable. -/
def State.readSpan (s : State) (a n : Nat) : Option (List Byte × Bool) × State :=
  (spanPieces a n).foldl (fun (acc : Option (List Byte × Bool) × State) e =>
    match acc.2.readFor e.1 e.2 with
    | (some r, s) => (acc.1.map fun x => (x.1 ++ r.bytes, x.2 || r.bad != []), s)
    | (none, s) => (none, s)) (some ([], false), s)

/-- Write bytes line by line: false where a line ends in an error completion, which leaves that line unwritten. -/
def State.writeSpan (s : State) (a : Nat) (l : List Byte) : Bool × State :=
  (spanPieces a l.length).foldl (fun (acc : Bool × State) e =>
    if acc.2.roConflict e.1 e.2 then (false, acc.2)
    else match acc.2.writeFor e.1 ((l.drop (e.1 - a)).take e.2) with
      | (true, s) => (acc.1, s)
      | (false, s) => (false, s)) (true, s)

/-- REMOTE_READ (R297): DATA, POISONED where a sector is uncorrectable, or a STATUS. -/
def execRemoteRead (n : PortIx) (u : Upset) (s : State) : Ans :=
  .next (s.serveRemote n 1 62 (fun _ m => 32 * (m.len + 1)) fun m s =>
    match (s.applyUpset m.addr u).readSpan m.addr (32 * (m.len + 1)) with
    | (some (l, bad), s) => (if bad then 2 else 0, l, s)
    | (none, s) => (1, [], s))

/-- REMOTE_WRITE (R297). -/
def execRemoteWrite (n : PortIx) (s : State) : Ans :=
  .next (s.serveRemote n 2 61 (fun _ m => m.data.length) fun m s =>
    let (ok, s) := s.writeSpan m.addr m.data
    (if ok then 0 else 1, [], s))

/-- The bytes an ADD covers (R323): twice its data where its destination lies in a Relay range. -/
def State.addRange (s : State) (m : Msg) : Nat :=
  if (s.relayOf m.addr).isSome then 2 * m.data.length else m.data.length

/-- Add a message's data: to the Relay as a whole, elsewhere line by line. None where a part ends in an error completion,
else whether poison was written. -/
def State.addSpan (s : State) (m : Msg) : Option Bool × State :=
  let one (s : State) (a : Nat) (l : List Byte) : Option Bool × State :=
    s.addTransfer a (nbits m.param 11 8) (nbits m.param 7 4) (m.param.testBit 3) (m.param.testBit 2) l
  if (s.relayOf m.addr).isSome then one s m.addr m.data
  else (spanPieces m.addr m.data.length).foldl (fun (acc : Option Bool × State) e =>
    match one acc.2 e.1 ((m.data.drop (e.1 - m.addr)).take e.2) with
    | (some b, s) => (acc.1.map (· || b), s)
    | (none, s) => (none, s)) (some false, s)

/-- REMOTE_ADD (R297): the adders, or a contribution to the Relay. -/
def execRemoteAdd (n : PortIx) (u : Upset) (s : State) : Ans :=
  .next (s.serveRemote n 3 60 (fun s m => s.addRange m) fun m s =>
    match (s.applyUpset m.addr u).addSpan m with
    | (some b, s) => (if b then 2 else 0, [], s)
    | (none, s) => (1, [], s))

/-- REMOTE_AMO (R297): applied by the adder of the slice, answered with the old value. -/
def execRemoteAmo (n : PortIx) (u : Upset) (s : State) : Ans :=
  .next (s.serveRemote n 4 59 (fun _ m => if nbits m.param 7 4 = 14 then 8 else 4) fun m s =>
    let w := if nbits m.param 7 4 = 14 then 8 else 4
    match (s.applyUpset m.addr u).relayBlocks m.addr w with
    | (true, s) => (1, [], s)
    | (false, s) =>
      match s.adder m.addr (nbits m.param 11 8) (nbits m.param 7 4) false false (m.data.take w) with
      | (.done old _ ps, s) => (if ps then 2 else 0, padTo 32 0 old, s)
      | (.error, s) => (1, [], s))

/-- The source that answers for a mailbox (R305): the partition of its core, or the hub. -/
def State.mailboxHome (s : State) (mb : Nat) : Nat :=
  match s.nv.part.coreOf mb with
  | some c => if mb < 0x3F8 then (corePart c).val else hubSrc
  | none => hubSrc

/-- REMOTE_MBX_POST (R280, R284, R297): a stamp whose DEVICE is not the message's source is refused as UNBOUND. -/
def execRemoteMbxPost (n : PortIx) (s : State) : Ans :=
  .next (s.withMsg n 0 (fun m => m.op == 5) fun m s =>
    let ws := natWords 8 (ofLe m.data)
    let w0 := ws.headD 0
    let id := fld w0 31 0
    let mb := m.addr % 1024
    let ch := m.addr / 1024 % 32
    -- an identity of another device than the source is bound to no channel
    let (r, s) := if idDevice id = m.src then s.post mb ch id (fld w0 63 48) (ws.drop 1)
      else if !s.hasReceiver mb then (3, s)
      else (2, s.onDev fun d => d.setChan mb ch { d.chan mb ch with refused := min 255 ((d.chan mb ch).refused + 1) })
    s.onDev fun d => d.respond s.now (s.mailboxHome mb) m 0 r [])

/-- REMOTE_MBX_STAT (R287, R297): answered DONE with MBX_CH of the channel; DISCARDED is cleared where asked by the device of the bound sender. -/
def execRemoteMbxStat (n : PortIx) (s : State) : Ans :=
  .next (s.withMsg n 0 (fun m => m.op == 6) fun m s =>
    let mb := m.addr % 1024
    let ch := m.addr / 1024 % 32
    let w := if mb < 1024 then s.dev.mbxWord mb ch else 0
    let s := s.onDev fun d =>
      if m.param.testBit 0 && d.bindOf mb ch != 0 && idDevice (d.bindOf mb ch) == m.src then
        d.setChan mb ch { d.chan mb ch with discarded := false } else d
    s.onDev fun d => d.respond s.now (s.mailboxHome mb) m 0 0 (leBytes 8 w.toNat))

/-- REMOTE_RESPONSE (R299, R325): the outstanding request of its TAG ends; another TAG is counted in LATE. -/
def execRemoteResponse (n : PortIx) (s : State) : Ans :=
  .next (s.withMsg n 1 (fun m => m.op == 8 || m.op == 9) fun m s =>
    match s.dev.sent m.tag with
    | some e => s.onDev fun d => d.finishRemote s.now e m.status m.data (m.param % 8)
    | none => s.onDev fun d => d.modReg (.linkPerr n) fun w => satAdd w 15 8 1)

end Sys2Proof.Machine
end

