-- ==== Sys2Proof/Machine/Host.lean ====
section
/-! DEFINITION. The Host link, the far tier's control and the Vault (R411 … R434). -/

namespace Sys2Proof.Machine

-- the memory aperture (R415, R416)

/-- Whether a posted write of BAR2 to another device is still under way. -/
def Dev.postedOut (d : Dev) : Bool :=
  d.remotes.any fun e => e.2.any fun r => match r.who with
    | .bar2 _ read _ _ => !read
    | _ => false

/-- Requests issued through the far-tier window that have still to be served (R37). -/
def Dev.windowOut (d : Dev) : List Nat := d.openIn fun a => decide (0x8000000000 ≤ a ∧ a < 0xC000000000)

/-- Whether a waiting host access may be made now. -/
def HostOp.ready (d : Dev) : HostOp → Bool
  | .read _ _ | .write _ _ _ => !d.postedOut
  | .farwin _ ids => !ids.any d.reqOpen && !d.postedOut
  | .slot _ _ ids tags => !ids.any d.reqOpen && !tags.any fun k => (d.remote k).isSome

/-- A posted write that cannot be applied writes nothing, is counted and reported (R416). -/
def State.discard (s : State) (a : Nat) : State :=
  s.onDev fun d => (d.modReg .hostStat fun w => satAdd w 47 32 1).emit (.advisory 0 a)

/-- A BAR2 access to another device: one message for each piece (R296, R416). -/
def State.bar2Remote (s : State) (a : Nat) (len : Nat) (data : Option (List Byte)) : State :=
  let span := match data with
    | some _ => (a, len)
    | none => (a / 32 * 32, 32 * ceilDiv (a % 32 + len) 32)
  (msgPieces span).foldl (fun s e =>
    match s.place e.1 with
    | .remote dst addr =>
      let m : Msg := match data with
        | some l =>
          let x := sectorsOf addr ((l.drop (e.1 - a)).take e.2) (freeByte s.dev.freeCtr)
          { src := 0, dst := dst, op := 2, len := x.2.length / 32 - 1, addr := x.1, data := x.2 }
        | none => { src := 0, dst := dst, op := 1, len := e.2 / 32 - 1, addr := addr }
      let who : RemoteWho := .bar2 0 data.isNone (max a e.1 - e.1) (min (a + len) (e.1 + e.2) - max a e.1)
      match (s.dev.spend (ceilDiv m.data.length 8)).sendRemote s.now hubSrc who e.1 m with
      | (none, d) => s.onDev fun _ => d
      | (some _, d) =>
        let s := s.onDev fun _ => d
        if data.isSome then s.discard e.1 else s.onDev fun d => d.emit (.abort 0 e.1)
    | _ => s) s

/-- A BAR2 access at its physical address. -/
def HostOp.run (s : State) : HostOp → State
  | .read a len =>
    match s.place a with
    | .remote _ _ => s.bar2Remote a len none
    | _ => match s.readSpan a len with
      | (some (l, bad), s) => s.onDev fun d => d.emit (.pcie 0 l bad)
      | (none, s) => s.onDev fun d => d.emit (.abort 0 a)
  | .write a data poisoned =>
    match s.place a with
    | .remote _ _ => if poisoned then s.discard a else s.bar2Remote a data.length (some data)
    | _ => match s.writeSpan a data with
      | (ok, s) =>
        let s := if ok then s else s.discard a
        if poisoned && ok then (spanPieces a data.length).foldl (fun s e => s.memPoison e.1 e.2) s else s
  | .farwin v _ => s.onDev fun d => d.modReg .mapFarwin fun w => storeTyped .mapFarwin w v
  | .slot i v _ _ => s.onDev fun d => d.modReg (.linkSlot i) fun w => storeTyped (.linkSlot i) w v

/-- The bytes a BAR2 access reads and writes. -/
def HostOp.runs : HostOp → List (Nat × Nat) × List (Nat × Nat)
  | .read a len => ([(a, len)], [])
  | .write a data _ => ([], [(a, data.length)])
  | _ => ([], [])

/-- Make the waiting accesses that may be made, in order and each in its turn at the slices; `n` bounds their number. An access finds
the windows as the writes before it left them, not as those behind it will. -/
def State.hostDrain : Nat → State → State
  | 0, s => s
  | n + 1, s => match s.dev.hostWait with
    | [] => s
    | op :: r =>
      if op.ready s.dev then
        match (s.onDev fun d => { d with hostWait := [] }).attempt .host .host 0 op.runs.1 op.runs.2 fun s => op.run s with
        | (true, s) => State.hostDrain n (s.onDev fun d => { d with hostWait := r })
        | (false, s) => s.onDev fun d => { d with hostWait := op :: r }
      else s

/-- A host access takes its turn behind the ones that wait (R416). -/
def State.hostAccess (s : State) (op : HostOp) : State :=
  let s := s.onDev fun d => { d with hostWait := d.hostWait ++ [op] }
  State.hostDrain s.dev.hostWait.length s

/-- The physical address of a BAR2 offset; none through a segment that is not mapped (R415). -/
def Dev.aperture (d : Dev) (x : Nat) : Option Nat :=
  let w := d.reg (.b2map (Fin.ofNat 16 (x / 2 ^ 32)))
  if d.hubUp && bit w 63 then some (fld w 51 32 * 2 ^ 32 + x % 2 ^ 32) else none

/-- BAR2_READ (R415, R416). -/
def execBar2Read (x len : Nat) (s : State) : Ans :=
  .next (match s.dev.aperture x with
    | some a => s.hostAccess (.read a len)
    | none => s.onDev fun d => d.emit (.abort 0 x))

/-- BAR2_WRITE (R415, R416). -/
def execBar2Write (x : Nat) (data : List Byte) (poisoned : Bool) (s : State) : Ans :=
  .next (match s.dev.aperture x with
    | some a => s.hostAccess (.write a data poisoned)
    | none => s.discard x)

/-- HOST_B2MAP_WRITE (R415): accesses made before keep the address they had. -/
def execHostB2mapWrite (o : Origin) (i : Fin 16) (v : Word) (s : State) : Ans :=
  .next (s.regWrite o (.b2map i) fun s => s.onDev fun d => d.modReg (.b2map i) fun w => storeTyped (.b2map i) w v)

/-- MAP_FARWIN_WRITE (R36, R37): the write waits for the accesses issued through the window before it; one issued while it waits takes
the new value. -/
def execMapFarwinWrite (o : Origin) (v : Word) (s : State) : Ans :=
  .next (s.regWrite o .mapFarwin fun s => s.hostAccess (.farwin v s.dev.windowOut))

/-- BAR0_DENIED_WRITE (R418): a write from a function that may not make it. -/
def execBar0DeniedWrite (o : Origin) (off : Nat) (v : Word) (s : State) : Ans :=
  .next (match Reg.ofOffset off with
    | some r => s.when (!originMayWrite o r) (s.regWriteV o r v id)
    | none => s)

/-- HOST_STAT_READ (R418). -/
def execHostStatRead (o : Origin) (s : State) : Ans := .next (s.readClear o .hostStat (s.dev.reg .hostStat))

-- resets of the PCIe controller (R360, R421)

/-- The PCIe state of a function: its MSI-X table and pending bits, the BAR2 map of function 0, the completions of its accesses. -/
def Dev.clearFn (d : Dev) (fn : Nat) : Dev :=
  let d := { d with regs := d.regs.keep (fun k => decide (k < msixKey fn 0 ∨ msixKey fn 0x201 ≤ k)) }
  let d := if fn = 0 then d.clearRegs 0x900000 0x900080 else d
  { d with
    hostWait := if fn = 0 then d.hostWait.filter (fun (o : HostOp) => match o with | .read _ _ => false | _ => true) else d.hostWait
    waits := if fn = 0 then d.waits.filter (fun w => w.tok != .host) else d.waits
    remotes := d.remotes.map (fun e => (e.1, e.2.map (fun r => match r.who with
      | .bar2 f _ _ _ => if f = fn then { r with who := .gone fn } else r
      | _ => r))) }

/-- A sender's epoch advances (R281); messages held that it posted become stale (R288). -/
def Dev.advanceEpoch (d : Dev) (id : Nat) : Dev :=
  let d := { d with epochs := d.epochs.set 0 (d.epochKey id) ((d.epochOf id + 1) % 65536) }
  (d.chans.map (·.1)).foldl (fun d i =>
    let x := d.chans.get {} i
    if x.full && d.bindOf (i / 32) (i % 32) == id then { d with chans := d.chans.set {} i { x with stale := true } } else d) d

/-- FUNCTION_LEVEL_RESET (R421, R281). -/
def execFunctionLevelReset (fn : Fin 2) (s : State) : Ans :=
  .next (s.when s.dev.powered (s.onDev fun d =>
    (d.clearFn fn.val).advanceEpoch (idHost d.devId fn.val)))

/-- PCIE_FUNDAMENTAL_RESET (R360): the PCIe state of both functions, and nothing else. -/
def execPcieFundamentalReset (s : State) : Ans :=
  .next (s.when s.dev.powered (s.onDev fun d => (d.clearFn 0).clearFn 1))

/-- PCIE_AER_UNCORRECTABLE (R421). -/
def execPcieAerUncorrectable (fn : Fin 2) (bit : Nat) (s : State) : Ans :=
  .next (s.when s.dev.powered (if fn.val < 2 then s.record .pcieErr 0 bit (idHub s.dev.devId) else s))

-- the far tier (R422 … R426)

/-- FAR_PORT after enumeration (R423). -/
def farPortWord (e : FarEnv) (split : Bool) : Word :=
  if !e.up then fput 60 60 split.toNat
  else fput 63 62 2 ||| fput 61 61 e.flit256.toNat ||| fput 60 60 split.toNat ||| fput 59 52 e.rate ||| fput 49 48 e.present |||
    fput 31 16 (if e.present.testBit 1 then e.cap1 else 0) ||| fput 15 0 (if e.present.testBit 0 then e.cap0 else 0)

/-- The hub trains both ports and enumerates their expanders. -/
def Dev.farEnumerate (d : Dev) (e : BootEnv) : Dev :=
  (d.setReg (.farPort 0) (farPortWord e.far0 e.split0)).setReg (.farPort 1) (farPortWord e.far1 e.split1)

/-- The targets of a decoder, each with its first address and length in GiB. -/
def farTargets (w : Word) : List (Nat × Nat × Nat × Nat) :=
  let e := fld w 60 60
  let dpa := fld w 27 16
  if bit w 62 then [(0, e, dpa, ceilDiv (fld w 44 32) 2), (1, e, dpa, ceilDiv (fld w 44 32) 2)]
  else [(fld w 61 61, e, dpa, fld w 44 32)]

/-- Whether two runs of GiB have one in common. -/
def decOverlaps (a n b m : Nat) : Bool := decide (a < b + m ∧ b < a + n)

/-- Whether two valid decoders conflict (R425). -/
def farClash (v w : Word) : Bool :=
  decOverlaps (fld v 11 0) (fld v 44 32) (fld w 11 0) (fld w 44 32) ||
    (farTargets v).any fun x => (farTargets w).any fun y =>
      x.1 == y.1 && x.2.1 == y.2.1 && decOverlaps x.2.2.1 x.2.2.2 y.2.2.1 y.2.2.2

/-- Whether the decoders keep EN from being accepted (R425). -/
def Dev.farBad (d : Dev) : Bool :=
  let l := ((List.finRange 4).map fun i => d.reg (.farDec i)).filter fun w => bit w 63
  let lacks (w : Word) : Bool := (farTargets w).any fun x =>
    let p := d.reg (.farPort (Fin.ofNat 2 x.1))
    !(bit p (48 + x.2.1)) || decide ((if x.2.1 = 0 then fld p 15 0 else fld p 31 16) < x.2.2.1 + x.2.2.2)
  l.any lacks || (List.range l.length).any fun i => (List.range i).any fun j => farClash (l.getD i 0) (l.getD j 0)

/-- A write of FAR_CTL (R425): setting EN is refused, or the expanders' decoders are programmed to match; clearing it is always
accepted. -/
def State.farCtlWrite (v : Word) (s : State) : State :=
  s.onDev fun d =>
    if bit v 63 && d.farBad then d.modReg .farCtl fun w => setBit w 62 true
    else
      let d := d.modReg .farCtl fun w => storeTyped .farCtl w v
      if bit v 63 then
        (List.finRange 4).foldl (fun d i =>
          let w := d.reg (.farDec i)
          if bit w 63 then (farTargets w).foldl (fun d x => d.emit (.cxl x.1 x.2.1 i.val)) d else d) d
      else d

/-- FAR_ENABLE (R425). -/
def execFarEnable (o : Origin) (v : Word) (s : State) : Ans := .next (s.regWrite o .farCtl (State.farCtlWrite v))

/-- A write of FAR_DEC (R425): stored only while EN is 0. -/
def State.farDecWrite (i : Fin 4) (v : Word) (s : State) : State :=
  s.onDev fun d =>
    if bit (d.reg .farCtl) 63 then d.modReg .farCtl fun w => setBit w 62 true
    else d.modReg (.farDec i) fun w => storeTyped (.farDec i) w v

/-- FAR_DEC_WRITE (R425). -/
def execFarDecWrite (o : Origin) (d : Fin 4) (v : Word) (s : State) : Ans :=
  .next (s.regWrite o (.farDec d) (State.farDecWrite d v))

/-- CXL_PORT_EVENT (R426): recorded; a port whose link goes down begins to retrain. -/
def execCxlPortEvent (q : Fin 2) (down : Bool) (s : State) : Ans :=
  .next (s.when (s.dev.powered && fld (s.dev.reg (.farPort q)) 63 62 != 0)
    ((s.onDev fun d => if down then d.modReg (.farPort q) fun w => setFld w 63 62 1 else d).record .cxlErr 0 q.val
      (idHub s.dev.devId)))

/-- CXL_PORT_RETRAINED (R426). -/
def execCxlPortRetrained (q : Fin 2) (s : State) : Ans :=
  .next (s.when (fld (s.dev.reg (.farPort q)) 63 62 == 1) (s.onDev fun d => d.modReg (.farPort q) fun w => setFld w 63 62 2))

-- the Vault (R427 … R434)

/-- Whether a configuration request through PCIe is answered with Request Retry Status (R354, R357, R366): until step 5 of a boot. No
row of the command table is a configuration request. -/
def Dev.configRetry (d : Dev) : Bool := d.powered && decide (d.phase < 4)

/-- Bytes of the staging window. -/
def Dev.staged (d : Dev) (off n : Nat) : List Byte :=
  let first := off / 8
  let words := (List.range (ceilDiv (off % 8 + n) 8)).map fun i => d.regs.get 0 (0x1000000 + 8 * (first + i))
  ((words.flatMap fun w => leBytes 8 w.toNat).drop (off % 8)).take n

/-- The staged package, where its header is well formed. -/
def Dev.package? (d : Dev) : Option Staged :=
  let h := d.staged 0 256
  let at_ (i n : Nat) : Nat := ofLe ((h.drop i).take n)
  let zero (i n : Nat) : Bool := ((h.drop i).take n).all fun b => b == 0
  if at_ 0 4 = 0x5A445550 ∧ 1 ≤ at_ 4 1 ∧ at_ 4 1 ≤ 4 ∧ at_ 5 1 ≤ 2 ∧ zero 6 2 ∧ zero 160 96 ∧ at_ 12 4 ≤ 2 ^ 24 - 256 then
    some { kind := at_ 4 1, signer := at_ 5 1, version := at_ 8 4, signed := h.take 64, digest := (h.drop 16).take 48
           sig := (h.drop 64).take 96, body := d.staged 256 (at_ 12 4) }
  else none

/-- Whether a package is signed by a signer its kind allows (R430). -/
def Vault.signedOk (v : Vault) (p : Staged) : Bool :=
  if p.signer = 0 then ecdsaOk Config.bootKey p.signed p.sig
  else if p.signer = 1 then
    (p.kind == 2 || p.kind == 3) && (match v.owner with
      | some k => ecdsaOk k p.signed p.sig
      | none => false)
  else p.kind == 4 && v.owner.isNone && p.sig.all fun b => b == 0

/-- RESULT of a package and the Vault it leaves; `fr` is a free value. A wrong DIGEST and a changed slot 0 fail with a RESULT the
manual does not name (log entry 61). -/
def Vault.apply (v : Vault) (p : Staged) (flashOk : Bool) (fr : Nat) : Nat × Vault :=
  if !v.signedOk p then (2, v)
  else if sha384 p.body ≠ p.digest then (1 + fr % 2, v)
  else if (p.kind = 1 ∧ p.version < v.minver) ∨ (p.kind = 3 ∧ p.version ≤ v.revVer) then (3, v)
  else if p.kind = 2 ∧ (Config.bodyAnchors p.body).head? ≠ some Config.rootAnchor then (1 + fr % 3, v)
  else if !flashOk then (4, if p.kind = 1 then { v with slotB := none } else v)
  else if p.kind = 1 then
    (0, { v with slotA := some p, slotB := some p, minver := max v.minver (Config.bodyMinver p.body) })
  else if p.kind = 2 then (0, { v with anchors := ((Config.bodyAnchors p.body).drop 1).take 3 })
  else if p.kind = 3 then (0, { v with revoked := (Config.bodySerials p.body).take 4096, revVer := p.version })
  else (0, { v with owner := some (Config.bodyKey p.body) })

/-- The subindex of 0x2800 an accepted change is journalled under, its old and its new value. -/
def vaultJournal (v w : Vault) (kind : Nat) : Nat × Nat × Nat :=
  if kind = 3 then (4, v.revVer, w.revVer)
  else if kind = 4 then (1, if v.owner.isSome then 2 else 1, 2)
  else (0, v.minver, w.minver)

/-- A Vault command ends: RESULT, DONE and its message (R419, R431). -/
def Dev.vaultDone (d : Dev) (r : Nat) : Dev :=
  let was := bit (d.reg .vaultStat) 62
  let d := (d.modReg .vaultStat fun w => setFld (setBit (setBit w 63 false) 62 true) 59 56 r)
  let d := { d with vaultFn := none }
  if was then d else d.msix 1 5

/-- A write of VAULT_CMD (R431). -/
def State.vaultCmd (o : Origin) (v : Word) (s : State) : State :=
  s.onDev fun d =>
    let c := fld v 63 60
    if bit (d.reg .vaultStat) 63 then d.modReg .vaultStat fun w => setBit w 61 true
    else if c = 1 then { d.modReg .vaultStat fun w => setBit w 63 true with vaultFn := some (originFn o) }
    else if c = 2 then (d.clearRegs 0x1000000 0x2000000).vaultDone 0
    else d.modReg .vaultStat fun w => setBit w 60 true

/-- VAULT_COMMIT. -/
def execVaultCommit (o : Origin) (s : State) : Ans := .next (s.regWrite o .vaultCmd (State.vaultCmd o (fput 63 60 1)))

/-- VAULT_CLEAR. -/
def execVaultClear (o : Origin) (s : State) : Ans := .next (s.regWrite o .vaultCmd (State.vaultCmd o (fput 63 60 2)))

/-- VAULT_BADCMD: a CMD other than COMMIT and CLEAR. -/
def execVaultBadcmd (o : Origin) (v : Word) (s : State) : Ans :=
  .next (s.when (fld v 63 60 != 1 && fld v 63 60 != 2) (s.regWrite o .vaultCmd (State.vaultCmd o v)))

/-- Every UP port whose Partner's chain holds a revoked serial retrains (R433). -/
def State.retrainRevoked (s : State) : State :=
  s.onDev fun d => (List.finRange 64).foldl (fun d n =>
    if d.portState n == 5 && (d.port n).chain.any s.nv.vault.revoked.contains then d.retrain s.now n else d) d

/-- VAULT_COMMIT_DONE (R430 … R434): the staged package is verified and applied, an accepted change is journalled. A firmware
image committed in recovery restarts the hub from step 3 of R366. -/
def execVaultCommitDone (flashOk : Bool) (s : State) : Ans :=
  .next (match s.dev.vaultFn with
    | none => s
    | some fn => match s.dev.package? with
      | none => s.onDev fun d => d.vaultDone 1
      | some p =>
        let old := s.nv.vault
        let (r, new) := old.apply p flashOk s.dev.free.toNat
        let s := (s.onDev fun d => d.spend).onNv fun nv => { nv with vault := new }
        let s := if r = 4 then (s.record .flashErr s.dev.free.toNat 0 (idHub s.dev.devId)).onDev fun d => d.spend else s
        let (sub, a, b) := vaultJournal old new p.kind
        let s := if r = 0 then s.journal (idHost s.dev.devId fn) 0x2800 sub 0 a b else s
        let s := if r = 0 ∧ p.kind = 3 then s.retrainRevoked else s
        let s := s.onDev fun d => d.vaultDone r
        if r = 0 ∧ p.kind = 1 ∧ s.dev.phase = 15 then
          s.onDev fun d => { d with seqs := [{ kind := .warm, step := 2, env := { d.bootEnv with slotAok := true }, bring := {}, t0 := s.now }] }
        else s)

/-- A firmware package cut short by a power failure or a warm reset (R432): what has been written depends on the step it had
reached, a free choice; other packages leave the Vault as it was. -/
def State.vaultCut (s : State) : State :=
  match s.dev.vaultFn, s.dev.package? with
  | some _, some p =>
    let v := s.nv.vault
    if p.kind = 1 ∧ (v.apply p true 0).1 = 0 then
      let k := s.dev.free.toNat % 3
      (s.onDev fun d => { d.spend with vaultFn := none }).onNv fun nv => { nv with vault :=
        if k = 0 then { v with slotB := none }
        else if k = 1 then { v with slotA := none, slotB := some p }
        else { v with slotA := some p, slotB := some p } }
    else s.onDev fun d => { d with vaultFn := none }
  | _, _ => s.onDev fun d => { d with vaultFn := none }

end Sys2Proof.Machine
end

