-- ==== Sys2Proof/Machine/Issue.lean ====
section
/-! DEFINITION. The execution of the base instructions of a control processor (R92 … R100, R110, R130, R131, R450, R451). -/

namespace Sys2Proof.Machine

/-- An instruction whose effect lies in its core's registers retires. -/
def State.onCore (s : State) (c : CoreIx) (f : Core → Core) : State := s.onDev fun d => d.modCore c f

/-- A jump: the link register, the target with bit 0 cleared. -/
def Core.jump (k : Core) (rd : RegNum) (len : Nat) (target : Word) : Core :=
  { k.setX rd (k.pc + BitVec.ofNat 64 len) with pc := target &&& 0xFFFFFFFFFFFFFFFE, instret := k.instret + 1 }

/-- The rounding mode of an instruction: its own, or that of frm; none for a reserved one. -/
def Core.rndMode (k : Core) (rm : Nat) : Option Rnd :=
  let r := if rm = 7 then k.fcsr / 32 % 8 else rm
  if r ≤ 4 then some (rndOf r) else none

/-- Raise flags in fflags. -/
def Core.raise (k : Core) (fl : Nat) : Core := { k with fcsr := k.fcsr ||| fl % 32 }

/-- A floating-point result goes to an f register. -/
def Core.putF (k : Core) (rd : RegNum) (dbl : Bool) (r : FRes) : Core :=
  { (k.raise r.2).fpDirty with f := k.f.set 0 rd.val (box dbl r.1) }.retire

/-- A floating-point result goes to an x register. -/
def Core.putFX (k : Core) (rd : RegNum) (v : Word) (fl : Nat) : Core :=
  (if fl = 0 then k.setX rd v else ((k.raise fl).fpDirty).setX rd v).retire

/-- An operand of a floating-point instruction. -/
def Core.getF (k : Core) (dbl : Bool) (r : RegNum) : Nat := unbox dbl (k.f.get 0 r.val)

/-- The format of an instruction. -/
def fmtOf (dbl : Bool) : Fmt := if dbl then Fmt.fp64 else Fmt.fp32

/-- FSGNJ, FSGNJN, FSGNJX. -/
def signJoin (dbl : Bool) (f3 a b : Nat) : Nat :=
  let n := if dbl then 63 else 31
  let s := match f3 with
    | 0 => b.testBit n
    | 1 => !b.testBit n
    | _ => a.testBit n != b.testBit n
  a % 2 ^ n + if s then 2 ^ n else 0

/-- A floating-point instruction of the core; none where its rounding mode is reserved. -/
def Core.fpu (k : Core) (o : Op) : Option Core :=
  let g (d : Bool) (r : RegNum) := k.getF d r
  match o with
  | .fma d np nc rm rd a b c => (k.rndMode rm).map fun m => k.putF rd d ((fmtOf d).fmaF m np nc (g d a) (g d b) (g d c))
  | .fadd d sub rm rd a b => (k.rndMode rm).map fun m => k.putF rd d ((fmtOf d).addF m sub (g d a) (g d b))
  | .fmul d rm rd a b => (k.rndMode rm).map fun m => k.putF rd d ((fmtOf d).mulF m (g d a) (g d b))
  | .fdiv d rm rd a b => (k.rndMode rm).map fun m => k.putF rd d ((fmtOf d).divF m (g d a) (g d b))
  | .fsqrt d rm rd a => (k.rndMode rm).map fun m => k.putF rd d ((fmtOf d).sqrtF m (g d a))
  | .fsgnj d f3 rd a b => some (k.putF rd d (signJoin d f3 (g d a) (g d b), 0))
  | .fminmax d mx rd a b => some (k.putF rd d ((fmtOf d).minMaxF mx (g d a) (g d b)))
  | .fcmp d f3 rd a b => let r := (fmtOf d).cmpF f3 (g d a) (g d b); some (k.putFX rd (BitVec.ofNat 64 r.1) r.2)
  | .fclass d rd a => some (k.putFX rd (BitVec.ofNat 64 ((fmtOf d).classF (g d a))) 0)
  | .fcvtInt d long sgn rm rd a => (k.rndMode rm).map fun m =>
      let r := (fmtOf d).toIntF m (if long then 64 else 32) sgn (g d a)
      k.putFX rd (if long then BitVec.ofNat 64 r.1 else sx 32 r.1) r.2
  | .intCvt d long sgn rm rd a => (k.rndMode rm).map fun m =>
      let x := (k.getX a).toNat
      let n := if long then 64 else 32
      k.putF rd d ((fmtOf d).ofIntF m (if sgn then sint n x else ((x % 2 ^ n : Nat) : Int)))
  | .fcvt toD rm rd a => (k.rndMode rm).map fun m =>
      k.putF rd toD (if toD then Fmt.fp32.convF Fmt.fp64 m (g false a) else Fmt.fp64.convF Fmt.fp32 m (g true a))
  | .fmvXF d rd a => some (k.putFX rd (if d then k.f.get 0 a.val else sx 32 (k.f.get 0 a.val).toNat) 0)
  | .fmvFX d rd a => some (k.putF rd d ((k.getX a).toNat, 0))
  | _ => none

/-- MRET: back to the mode of MPP (R92; user or machine). -/
def Core.mret (k : Core) : Core :=
  { k with
    pc := k.mepc, mach := fld k.mstatus 12 11 == 3, instret := k.instret + 1
    mstatus :=
      let m := setFld (setBit (setBit k.mstatus 3 (bit k.mstatus 7)) 7 true) 12 11 0
      if fld k.mstatus 12 11 = 3 then m else setBit m 17 false }

/-- Carry out a base instruction that has been fetched. -/
def State.perform (s : State) (c : CoreIx) (w : Word32) (u : Upset) : State :=
  let k := s.dev.core c
  let len := wordLen w
  let put (rd : RegNum) (v : Word) : State := s.setRd c len rd v
  let illegal : State := s.trap c 2 (wordBits w)
  match decodeOf w with
  | .lui rd imm => put rd imm
  | .auipc rd imm => put rd (k.pc + imm)
  | .jal rd off => s.onCore c fun k => k.jump rd len (k.pc + off)
  | .jalr rd a off => s.onCore c fun k => k.jump rd len (k.getX a + off)
  | .branch f3 a b off =>
    if branchTaken f3 (k.getX a) (k.getX b) then s.onCore c fun k => k.jump x0 len (k.pc + off) else s.retire c len
  | .load f3 fp rd a off => if fp && !k.fpOn then illegal else s.loadAt c len f3 fp rd (k.getX a + off).toNat u
  | .store f3 fp a b off =>
    if fp && !k.fpOn then illegal
    else
      let n := accSize f3
      s.storeAt c len n ((if fp then k.f.get 0 b.val else k.getX b).toNat % 2 ^ (8 * n)) (k.getX a + off).toNat
  | .opImm f3 alt rd a imm => put rd (aluOp f3 alt (k.getX a) imm)
  | .opImmW f3 alt rd a imm => put rd (aluOpW f3 alt (k.getX a) imm)
  | .op f3 alt rd a b => put rd (aluOp f3 alt (k.getX a) (k.getX b))
  | .opW f3 alt rd a b => put rd (aluOpW f3 alt (k.getX a) (k.getX b))
  | .mul f3 rd a b => put rd (mulOp f3 (k.getX a) (k.getX b))
  | .mulW f3 rd a b => put rd (mulOpW f3 (k.getX a) (k.getX b))
  | .amo f5 dbl rd a b => s.amoAt c f5 dbl rd a b u
  | .lr dbl rd a => s.lrAt c dbl rd a u
  | .sc dbl rd a b => s.scAt c dbl rd a b
  | .fence => s.fenceOp c
  | .fenceI => s.retire c
  | .ecall => s.trap c (if k.mach then 11 else 8) 0
  | .ebreak => s.trap c 3 k.pc
  | .mret => if k.mach then s.onCore c Core.mret else illegal
  | .wfi => if !k.mach && bit k.mstatus 21 then illegal else s.retire c
  | .csr f3 rd a addr => s.csrOp c f3 rd a addr w
  | .tensor | .vector | .vmem | .illegal => illegal
  | o => if !k.fpOn then illegal else match k.fpu o with
    | some k' => s.onCore c fun _ => k'
    | none => illegal

/-- A base instruction of a core: the common course, then its effect. -/
def State.runBase (s : State) (c : CoreIx) (w : Word32) (u : Upset) : State :=
  s.issue c (wordLen w) fun s => s.perform c w u

/-- LOAD (R96 … R99, R107). -/
def execLoad (c : CoreIx) (w : Word32) (u : Upset) (s : State) : Ans :=
  .next (match decodeOf w with
    | .load _ _ _ _ _ => s.runBase c w u
    | _ => s)

/-- STORE (R96 … R99, R111). -/
def execStore (c : CoreIx) (w : Word32) (s : State) : Ans :=
  .next (match decodeOf w with
    | .store _ _ _ _ _ => s.runBase c w .none
    | _ => s)

/-- AMO (R98, R100, R169). -/
def execAmo (c : CoreIx) (w : Word32) (u : Upset) (s : State) : Ans :=
  .next (match decodeOf w with
    | .amo _ _ _ _ _ => s.runBase c w u
    | _ => s)

/-- LR (R98, R100). -/
def execLr (c : CoreIx) (w : Word32) (u : Upset) (s : State) : Ans :=
  .next (match decodeOf w with
    | .lr _ _ _ => s.runBase c w u
    | _ => s)

/-- SC (R98, R100). -/
def execSc (c : CoreIx) (w : Word32) (s : State) : Ans :=
  .next (match decodeOf w with
    | .sc _ _ _ _ => s.runBase c w .none
    | _ => s)

/-- FENCE (R99). -/
def execFence (c : CoreIx) (w : Word32) (s : State) : Ans :=
  .next (match decodeOf w with
    | .fence => s.runBase c w .none
    | _ => s)

/-- FENCE.I does nothing (R110). -/
def execFenceI (c : CoreIx) (w : Word32) (s : State) : Ans :=
  .next (match decodeOf w with
    | .fenceI => s.runBase c w .none
    | _ => s)

/-- ENVIRONMENT_CALL (R130, R450): the trap; from user mode during a task the runtime ends the task with a0 as its status,
by the store of TASK_END_STORE. -/
def execEnvironmentCall (c : CoreIx) (s : State) : Ans := .next (s.runBase c 0x73 .none)

/-- RESERVATION_TIMEOUT (R100): 1 µs has passed since the LR. -/
def execReservationTimeout (c : CoreIx) (s : State) : Ans :=
  .next (s.onCore c fun k => if k.resv.any fun r => decide (r.2 + 1000 < s.now) then { k with resv := none } else k)

/-- Whether an interrupt may be taken in a stall (R451). -/
def Stall.interruptible : Stall → Bool
  | .none | .tensQueue | .vecQueue | .twait _ | .vwait _ | .hurdle _ _ | .slot => true
  | _ => false

/-- A WAIT or an ACQUIRE that an interrupt breaks leaves its bank (R451); the acquirers behind it are served as COUNT allows
(R263). -/
def Dev.withdraw (d : Dev) (c : CoreIx) : Dev :=
  match (d.core c).stall with
  | .hurdle h _ => (d.modHurdle h.val fun x =>
      { x with waits := x.waits.filter fun w => w.who != .core c, acqs := x.acqs.filter fun a => a.1 != c }).serve h.val
  | _ => d

/-- INTERRUPT_TAKE (R131, R132, R451): the enabled pending interrupt of highest priority. -/
def execInterruptTake (c : CoreIx) (s : State) : Ans :=
  .next (match s.interrupt c with
    | some i =>
      s.when (s.coreUp c && (s.dev.core c).stall.interruptible)
        (s.onDev fun d => (d.withdraw c).trap s.now c (BitVec.ofNat 64 (2 ^ 63 + i)) 0)
    | none => s)

/-- TIMECMP_MATCH (R131): `time` has reached CORE_TIMECMP. -/
def execTimecmpMatch (c : CoreIx) (s : State) : Ans :=
  .next (s.onCore c fun k => if k.timecmp.toNat ≤ s.now then { k with mtip := true } else k)

end Sys2Proof.Machine
end

