-- ==== Sys2Proof/Machine/Starter.lean ====
section
/-! DEFINITION. The Starter (R353 … R370): cold boot, resets by level, what each keeps and loses, STRT_CMD. A reset makes the
first step of its table when it is accepted, and one further step at each step of the block on an empty queue (log entry 5). -/

namespace Sys2Proof.Machine

-- the partition's state as STRT shows it (R369)

/-- Set STRT_PART.STATE and the bits of STRT_STATUS that follow it: 1 down, 2 resetting, 3 up. -/
def Dev.setPart (d : Dev) (p : PartIx) (st : Nat) : Dev :=
  (d.modReg (.strtPart p) fun w => setFld w 63 62 st).modReg .strtStatus fun w =>
    setBit (setBit w (56 + p.val) (st == 3)) (48 + p.val) (st == 2)

/-- Set STRT_STATUS.PHASE. -/
def Dev.setPhase (d : Dev) (n : Nat) : Dev := d.modReg .strtStatus fun w => setFld w 3 0 n

/-- The enabled partitions. -/
def State.parts (s : State) : List PartIx := (List.finRange 8).filter s.nv.part.enabled

-- a core's reset (R361, R362)

/-- Whether a core belongs to a list. -/
def inCores (l : List CoreIx) (c : CoreIx) : Bool := l.contains c

/-- Requests of the cores to other devices are detached (R361): their tags are withheld for twice the timeout. -/
def Dev.detach (d : Dev) (now : Nat) (l : List CoreIx) : Dev :=
  let ms := max 1 (fld (d.reg .linkGcfg) 47 32)
  let mine (r : Remote) : Bool := match r.who with
    | .core id => (d.reqs.get none id).any fun q => l.contains q.core
    | .dma c _ _ => l.contains c
    | .mbx c _ _ => l.contains c
    | _ => false
  let gone := d.remotes.filter fun e => e.2.any mine
  let d := { d with
    remotes := d.remotes.filter fun e => !(e.2.any mine)
    withheld := d.withheld.filter (fun (w : Nat × Nat) => decide (now < w.2)) ++
      gone.filterMap fun (e : Nat × Option Remote) => e.2.bind fun r => r.via.map fun _ => (r.msg.tag, now + 2 * ms * 1000000) }
  d.releaseAll now

/-- Whether every request that the cores have issued to this device has completed; a response that has come is discarded. -/
def Dev.drained (d : Dev) (l : List CoreIx) : Bool :=
  d.reqs.all fun e => !(e.2.any fun q => l.contains q.core && (match q.st with
    | .done _ | .away => false
    | _ => true))

/-- Step 1 of R362 on some cores: the running task fails, the holds are lost (R269), every DMA chain ends, nothing more is
issued. `abort` says that the reason is that of the abort. -/
def State.coresStop (s : State) (l : List CoreIx) (abort : Bool) : State :=
  let s := l.foldl (fun s c =>
    let why := match (s.dev.core c).task with
      | some t => if abort then t.abort.getD 12 else 12
      | none => 12
    s.endFailed c why 0) s
  s.onDev fun d => d.coresHalt s.now l

/-- Step 3 of R362 on some cores, drained: messages held are discarded, the epochs advance, everything of a core returns to its
reset value; local SRAM counts as unwritten. What R345 has counted of its words stays. -/
def State.coresClear (s : State) (l : List CoreIx) : State :=
  s.onDev fun d =>
    let d := d.detach s.now l
    let d := { d with reqs := d.reqs.filter fun e => !(e.2.any fun (q : Req) => l.contains q.core) }
    let d := d.leaveBanks l true
    l.foldl (fun d c =>
      let n := s.mailbox c
      let d := if s.nv.part.coreGood c.val then
          (List.range 32).foldl (fun d i => d.setChan n i (d.chan n i).discard) d
        else d
      (d.advanceEpoch (idCore d.devId c)).modCore c fun k => { sramFix := k.sramFix }) d

/-- The read-only and translation caches of some clusters are emptied, their runtime stores too. What R345 has counted of their words
stays. -/
def Dev.clearClusters (d : Dev) (l : List ClusterIx) : Dev :=
  let d := { d with tlb := d.tlb.keep fun k => !(l.any fun c => c.val == k / 256) }
  l.foldl (fun d c => d.modCluster c fun x => { fix := x.fix }) d

/-- A copy of the core runtime as it reaches a cluster: the image, cut to the 256 KiB of a runtime store, with the bytes at some
positions damaged. -/
def runtimeCopy (image : List Byte) (hurt : List Nat) : List Byte :=
  hurt.foldl (fun l i => l.modify i (· ^^^ 1)) (image.take 262144)

/-- What a cluster's runtime store holds in the end (R358): the broadcast copy where it meets the verified digest, else the copy sent
to it alone, where that does. -/
def runtimeOf (image digest : List Byte) (first second : List Nat) : Option (List Byte) :=
  [runtimeCopy image first, runtimeCopy image second].find? fun l => sha384 l == digest

/-- The core runtime reaches every good cluster of a list (R358); one whose check fails twice counts as failing its self-test. -/
def State.broadcast (s : State) (l : List ClusterIx) (b : BringUp) : State :=
  match s.dev.image with
  | none => s
  | some im =>
    let image := Config.bodyRuntime im.body
    let digest := Config.bodyRuntimeDigest im.body
    (s.onDev fun d => l.foldl (fun d c =>
      if s.nv.clusterGood c then
        let hurt := ((b.copies.find? fun e => e.1 == c.val % 8).map (·.2)).getD ([], [])
        match runtimeOf image digest hurt.1 hurt.2 with
        | some x => d.modCluster c fun k => { k with runtime := some x }
        | none => d.change s.now (.cluster c)
      else d) d).updateAll

/-- The clusters of a partition. -/
def partClusters (p : PartIx) : List ClusterIx := (List.finRange 64).filter fun k => k.val / 8 == p.val

-- self-test and stack bring-up (R345, R354, R359, R363)

/-- Failures of a self-test, and V0 as the bring-up measures it (R382). -/
def State.selfTest (s : State) (p : PartIx) (b : BringUp) : State :=
  let s := s.onDev fun d =>
    let d := b.cores.foldl (fun d u => if u < 72 then d.change s.now (.core (Fin.ofNat 576 (72 * p.val + u))) else d) d
    b.clusters.foldl (fun d u => if u < 8 then d.change s.now (.cluster (Fin.ofNat 64 (8 * p.val + u))) else d) d
  s.measureV0 p b.v0

/-- The channels of a partition begin to retrain for its bring-up (R151). This retrain is not among those that RETRAINS counts "since
partition bring-up" (log entry 132). -/
def State.stackBegins (s : State) (p : PartIx) : State :=
  s.onDev fun d => (List.finRange 32).foldl (fun d c => d.modReg (.stackChstat p c) fun w => setBit w 5 true) d

/-- Stack bring-up of a partition (R359): remap tables reloaded, channels retrained, every coupling link tested. A link starts
from what its descriptor entry says. -/
def State.stackUp (s : State) (p : PartIx) (b : BringUp) : State :=
  let s := s.onDev fun d => (List.finRange 256).foldl (fun d i =>
    d.setReg (.sliceRemap p i) ((s.nv.keptReg (.sliceRemap p i)).getD 0)) d
  let s := s.onDev fun d =>
    let d := { d with slices := d.slices.keep fun k => k / 32 != p.val }
    let d := (List.finRange 32).foldl (fun d c => d.modReg (.stackChstat p c) fun w => setFld w 7 4 0) d
    (List.range 224).foldl (fun d u =>
      let e := s.nv.entry p.val (145 + u)
      d.modLink p u fun _ => { onVias := bit e 40, spares := fld e 39 32 }) d
  ((List.range 224).filter s.nv.part.hasLink).foldl (fun s u =>
    s.linkTest p 0 ((b.links.find? fun t => t.unit == u).getD { unit := u })) s

-- a partition's reset (R363, R364, R348, R270)

/-- Every Hurdle homed in the partition is lost, and every wait, acquirer and registration on one ends failed (R270). -/
def Dev.failBank (d : Dev) (now : Nat) (p : PartIx) : Dev :=
  ((d.hurdles.map (·.1)).filter fun h => h / 8192 == p.val).foldl (fun d h =>
    let d := if (d.hurdle h).state = 1 then d.loseHurdle now h 1 else d
    let d := if (d.hurdle h).state = 1 then d.failHurdle now h 1 else d
    let x := d.hurdle h
    let d := d.setHurdle h { x with waits := [], acqs := [] }
    let d := x.waits.foldl (fun d w => d.endWait h (x.resultWord h 1) false w) d
    d.endAcqs h (x.resultWord h 1) x.acqs) d

/-- Page entries of the partition's moves in flight return to their values, and frames they were filling are free (R363). -/
def State.undoMoves (s : State) (p : PartIx) : State :=
  let l := (s.dev.pager p).moves
  let s := l.foldl (fun s m =>
    let s := s.ptePut m.pteAt m.old
    if m.inward then s.onDev fun d => d.setFrame m.frame 0 else s) s
  s.onDev fun d => { d with pagers := d.pagers.modify {} p.val fun g => { g with moves := [] } }

/-- Write-back buffers are written, dirty lines of the cache share are lost with it (R348, R364). -/
def State.flushSlices (s : State) (p : PartIx) : State :=
  let lines := (List.finRange 32).flatMap fun c => (s.dev.slice p c).wb
  let s := { s with mem := (lines.filter fun l => (s.dev.cached l).isNone).foldl Memory.toSectors s.mem }
  let s := s.onDev fun d => (List.finRange 32).foldl (fun d c => d.modSlice p c fun x => { x with wb := [] }) d
  ((s.dev.cache.map (·.1)).filter fun l => linePart l == p).foldl State.loseLine s

/-- Steps 1 and 2 of R363 after NOTICE: what ends when a partition is reset. -/
def State.partStop (s : State) (p : PartIx) : State :=
  let s := s.onDev fun d => d.failBank s.now p
  let s := (s.undoMoves p).flushSlices p
  let s := s.coresStop (partCores p) false
  let s := s.onDev fun d => d.loseHolds s.now fun a => a == .anchor p
  (s.anchEnter p 6).onDev fun d => d.modAnchor p fun _ => {}

/-- Whether the register at a BAR0 offset lies in a block of the partition and R364 does not keep it. -/
def lostByPart (p : PartIx) (k : Nat) : Bool :=
  let within (base size : Nat) : Option Nat := if base + size * p.val ≤ k ∧ k < base + size * (p.val + 1) then some (k - base - size * p.val) else none
  (within 0x30000 0x8000).isSome ||
  (match within 0x80000 0x10000 with
    | some o => decide (0x20 ≤ o ∧ o < 0x800)
    | none => false) ||
  (match within 0x140000 0x10000 with
    | some o => !(decide (o < 0x200) || o == 0x600 || o == 0x608 || decide (0x620 ≤ o ∧ o < 0x648))
    | none => false) ||
  (match within 0x200000 0x10000 with
    | some o => !(o == 0 || o == 0x20 || o == 0x28 || o == 0x38 || decide (0x1000 ≤ o))
    | none => false)

/-- The queues of a partition after its reset (R364): enabled ones STOPPED, waiting tasks in the ring. -/
def State.queuesStop (s : State) (p : PartIx) : State :=
  (List.finRange 64).foldl (fun s q =>
    let x := s.dev.queue p q
    let s := s.endHolds x.held
    s.onDev fun d => (d.dropHeadWaits p q).modQueue p q fun x =>
      { x with stage := .fresh, desc := [], regions := [], held := [], waitFor := none, space := false }) s

/-- The recompute list is emptied (R364): each buffer returns to dropped and its consumers fail with RC_FAILED. -/
def State.recompsStop (s : State) (p : PartIx) : State :=
  ((s.dev.dispOf p).recomp.map fun r => r.handle).foldl (fun s h => State.failRecomp none 256 h s) s

/-- A request that a slice has accepted and not answered. -/
def ReqAt.atSlice : ReqAt → Bool
  | .held | .dram | .adder => true
  | _ => false

/-- Step 3 of R363: the endpoints reset, the registers of R364 kept. -/
def State.partClear (s : State) (p : PartIx) : State :=
  let s := (s.recompsStop p).queuesStop p
  let s := s.coresClear (partCores p)
  let absorbed := s.dev.reqs.filterMap fun e => e.2.bind fun q =>
    if q.addr / 2 ^ 36 == p.val && q.st.atSlice then some e.1 else none
  let s := s.answerAll absorbed
  let waiting := (List.finRange 64).map fun q => (q, fld (s.dev.reg (.resQstat p q)) 12 0, s.dev.queueOn p q)
  let hints := (s.dev.pager p).hints.length
  let anch := s.dev.reg (.anchStat p) &&& (fmask 63 61 ||| fmask 60 60)
  s.onDev fun d =>
    let d := { d with
      regs := d.regs.keep fun k => !lostByPart p k
      hurdles := d.hurdles.keep fun h => h / 8192 != p.val
      phArr := d.phArr.keep fun k => k % 8 != p.val
      slices := d.slices.keep fun k => k / 32 != p.val
      waits := d.waits.filter fun w => !w.slices.any fun k => k / 32 == p.val
      testAt := d.testAt.keep fun k => k != p.val
      sweeps := d.sweeps.keep fun k => k != p.val
      laps := d.laps.keep fun k => k != p.val
      disp := d.disp.keep fun k => k != p.val
      submStage := d.submStage.keep fun k => k / (64 * 24) != p.val
      pagers := d.pagers.modify {} p.val fun g => { frames := g.frames, hand := g.hand } }
    let d := d.clearClusters (partClusters p)
    let d := waiting.foldl (fun d e => d.setReg (.resQstat p e.1) (fput 60 60 e.2.2.toNat ||| fput 12 0 e.2.1)) d
    let d := d.modReg (.resPstat p) fun w => setFld w 63 48 (min hints 65535)
    d.setReg (.anchStat p) anch

/-- The partition is up (step 7 of R363): LAST_US and, for a partition's own reset, the message of function 1. -/
def State.partUpNow (s : State) (p : PartIx) (t0 : Nat) (msg : Bool) : State :=
  s.onDev fun d =>
    let d := (d.setPart p 3).modReg (.strtPart p) fun w => setFld w 47 24 (min ((s.now - t0) / 1000) (2 ^ 24 - 1))
    if msg then d.msix 1 4 else d

/-- NOTICE (R327) to the Partner of every UP port and to every device bound in a valid LINK_SLOT entry. -/
def State.notice (s : State) (bytes : List Nat) : State :=
  let data := bytes.map (BitVec.ofNat 8)
  let s := s.onDev fun d => (List.finRange 64).foldl (fun d n => if d.portState n = 5 then d.manage n 0x14 data else d) d
  let partners := (List.finRange 64).filterMap fun n => if s.dev.portState n = 5 then some (s.dev.port n).peerDev else none
  let slots := nub ((List.finRange 4096).filterMap fun i =>
    let w := s.dev.reg (.linkSlot i)
    if bit w 63 then some (fld w 15 0) else none)
  s.onDev fun d => (slots.filter fun x => x != d.devId && !partners.contains x).foldl (fun d dst =>
    match d.route s.now dst with
    | (.port n, d) => d.enqueue n 3 hubSrc { src := d.devId, dst := dst, op := 0x14, data := padTo 32 0 data }
    | (_, d) => d) d

-- cold boot and warm device reset (R354 … R358, R366)

/-- Whether the boot ROM passes an image (R356, R428): its signature by the boot key, its hash, its version. -/
def Staged.boots (p : Staged) (minver : Nat) : Bool :=
  ecdsaOk Config.bootKey p.signed p.sig && sha384 p.body == p.digest && decide (minver ≤ p.version)

/-- Firmware verified (R356, R428): the slot that runs, slot A first, and its image; none where both fail. A slot that the flash does
not return as it was written fails. -/
def bootSlot (v : Vault) (e : BootEnv) : Option (Nat × Staged) :=
  let image (x : Option Staged) (read : Bool) : Option Staged := x.filter fun p => read && p.boots v.minver
  ((image v.slotA e.slotAok).map fun p => (0, p)).orElse fun _ => (image v.slotB e.slotBok).map fun p => (1, p)

/-- The boot ROM's step: PHASE 0x2 with the slot that runs, or 0xF. -/
def State.verify (s : State) (e : BootEnv) : State :=
  match bootSlot s.nv.vault e with
  | some (n, p) => s.onDev fun d =>
    { (d.modReg .strtStatus fun w => setBit w 11 (n == 1)).setPhase 2 with image := some p, fwVer := p.version }
  | none => s.onDev fun d => { d.setPhase 15 with seqs := [] }

/-- Firmware starts (step 4 of R354, step 5 of R366): DEVID and the Pacer's margins loaded, damaged copies recorded, the boot-up
message, pre-operational, REPLACE_N. -/
def State.firmwareUp (s : State) (e : BootEnv) : State :=
  let s := s.onDev fun d =>
    let d := d.modReg .linkGcfg fun w => setFld w 63 48 (fld ((s.nv.keptReg .linkGcfg).getD (Reg.reset .linkGcfg)) 63 48)
    let d := (List.finRange 8).foldl (fun d p => d.setReg (.paceMargin p) ((s.nv.keptReg (.paceMargin p)).getD 0)) d
    { d with replaceN := bit s.nv.health 0, bootEnv := e, comm := s.nv.saved, nmt := .silent }
  let s := s.onDev fun d => d.setPhase 3
  let s := e.flashBad.foldl (fun s off => s.record .flashErr off 0 (idHub s.dev.devId)) s
  if s.dev.nodeId = 0 then s
  else (s.onDev fun d => d.emit (.can .boot)).enterNmt .preop

/-- Persisted register words return (R405, step 12 of R354): those that satisfy `p`. -/
def State.restoreRegs (s : State) (p : Nat → Bool) : State :=
  (s.nv.regs.filter fun e => p e.1).foldl (fun s e => match e.2, Reg.ofOffset e.1 with
    | some w, some r => match r with
      | .pacePcfg q => s.pcfgWrite q w
      | .linkPcfg _ | .sliceRemap _ _ | .paceMargin _ => s
      | .linkGcfg => s.onDev fun d => d.modReg r fun x => setFld x 47 32 (fld w 47 32)
      | r => s.onDev fun d => d.setReg r w
    | some w, none => s.onDev fun d => { d with regs := d.regs.set 0 e.1 w }
    | _, _ => s) s

/-- Optics enabled, LINK_PCFG from its persisted value, the ports train (step 11 of R354); retired ports stay retired. -/
def State.portsUp (s : State) : State :=
  let s := s.onDev fun d => (List.finRange 64).foldl (fun d n =>
    if !s.nv.part.enabled (portPart n) then d
    else (d.setReg (.linkPcfg n) ((s.nv.keptReg (.linkPcfg n)).getD 0)).setPortState n (if s.nv.portGood n then 0 else 9)) d
  (s.onDev fun d => { d with optEn := true }.setPhase 10).lightPorts

/-- READY (step 12 of R354, step 11 of R366). -/
def State.setReady (s : State) : State :=
  s.onDev fun d =>
    let d := (d.setPhase 11).modReg .strtStatus fun w => setBit w 9 true
    { (d.setReg .strtReadyNs (BitVec.ofNat 64 s.now)).msix 1 4 with early := d.waitingPosts }

/-- The management flits that wait at a port leave before its light goes: as many turns as they and the replay before them
take. -/
def Dev.sendManaged (d : Dev) (now : Nat) (n : PortIx) : Dev :=
  let p := d.port n
  (List.range (p.resend.length + (p.txq.filter fun t => t.vc == 3).length)).foldl (fun d _ => d.transmit now n) d

/-- A waiting Host access is given up: Completer Abort for a read, a discarded write. -/
def State.abortWaiting (s : State) (o : HostOp) : State :=
  match o with
  | .read a _ => s.onDev fun d => d.emit (.abort 0 a)
  | .write a _ _ => s.discard a
  | _ => s

/-- Host accesses that wait, or whose answer is outstanding, when the memory stops answering (R366): Completer Abort for a read, a
discarded write otherwise. -/
def State.abortHost (s : State) : State :=
  let s := s.dev.hostWait.foldl State.abortWaiting (s.onDev fun d => { d with hostWait := [], waits := d.waits.filter fun w => w.tok != .host })
  s.onDev fun d => (d.remotes.filterMap fun e => e.2.bind fun r => match r.who with
    | .bar2 _ _ _ _ => some e.1
    | _ => none).foldl (fun d k => d.endRemote k 1 [] 0) d

/-- The first step of a warm device reset (R366): NOTICE, every port leaves UP and waits, the partitions absorb, BAR accesses are
answered with Completer Abort. A Vault command under way is cut short (R432). -/
def State.warmBegin (s : State) (e : BootEnv) : State :=
  let s := ((s.notice [1, 0]).vaultCut).abortHost
  let s := s.onDev fun d => (List.finRange 64).foldl (fun d n =>
    let st := d.portState n
    if st = 0 ∨ st = 9 then d
    else
      let d := if st = 5 then d.sendManaged s.now n else d
      let d := (d.setPortState n 1).modPort n fun p => { p.idle with looping := false, downOk := false }
      (d.dropTraffic s.now n).loseLink s.now n) d
  let ps := s.parts
  s.onDev fun d =>
    let d := ps.foldl (fun d p => d.setPart p 2) d
    { (d.modReg .strtStatus fun w => setFld (setBit (setBit w 9 false) 10 false) 46 40 0).setPhase 1 with
      nmt := .silent, nodeHeld := none, hostWait := []
      seqs := [{ kind := .warm, step := 1, env := e, bring := {}, t0 := s.now }] }

/-- Whether the register at an offset keeps its word through the restart of the hub (R360, R364, R369): the error record, STRT,
the MSI-X structures, what a partition's reset keeps, remap tables and live bits. -/
def keptByHub (k : Nat) : Bool :=
  decide (0x600000 ≤ k ∧ k < 0x600820) || decide (0x700000 ≤ k ∧ k < 0x700080) || decide (0x100000000 ≤ k ∧ k < 2 ^ 40) ||
    (decide (0x80000 ≤ k ∧ k < 0x100000) || decide (0x140000 ≤ k ∧ k < 0x1C0000) || decide (0x200000 ≤ k ∧ k < 0x280000))

/-- The hub restarts (step 3 of R366): its registers, mailboxes, epochs, links and everything it had in flight. Device time and the
ports' counts of retrains since cold boot (R329) go on. -/
def State.hubRestart (s : State) : State :=
  s.onDev fun d0 =>
    let d := d0
    let d := { Dev.reset with
      regs := d.regs.keep keptByHub, freeCtr := d.freeCtr, out := d.out, powered := d.powered, seqs := d.seqs, strtRes := d.strtRes
      bootEnv := d.bootEnv, replaceN := d.replaceN, thermN := d.thermN, optEn := d.optEn, timeCopy := d.timeCopy, cores := d.cores, pagers := d.pagers
      queues := d.queues, nextReq := d.nextReq, arrivals := d.arrivals, anchors := d.anchors, updates := d.updates }
    let counts := (List.finRange 64).map fun n => (n, fld (d0.reg (.linkPstat n)) 31 16)
    let d := counts.foldl (fun d e => if e.2 = 0 then d else d.modReg (.linkPstat e.1) fun w => setFld w 31 16 e.2) d
    (d.clearReg .timingStatus).setPhase 1

/-- A step of a warm device reset after the first (R366). -/
def State.warmStep (s : State) (q : Sequence) (n : Nat) : State :=
  let ps := s.parts
  let e := q.env
  let b (p : PartIx) : BringUp := e.parts.getD p.val {}
  if n = 2 then ps.foldl (fun s p => (s.partStop p).partClear p) s
  else if n = 3 then s.hubRestart
  else if n = 4 then s.verify e
  else if n = 5 then (s.firmwareUp e).onDev fun d => d.setPhase 4
  else if n = 6 then (ps.foldl State.stackBegins (ps.foldl (fun s p => s.selfTest p (b p)) s).updateTogether).onDev fun d => d.setPhase 5
  else if n = 7 then (ps.foldl (fun s p => s.stackUp p (b p)) s).onDev fun d => d.setPhase 7
  else if n = 8 then s.onDev fun d => (d.farEnumerate e).setPhase 8
  else if n = 9 then
    let s := ps.foldl (fun s p => (s.broadcast (partClusters p) (b p)).partUpNow p q.t0 false) s
    s.onDev fun d => d.setPhase 9
  else if n = 10 then s.portsUp
  else if n = 11 then
    ((s.restoreRegs fun k => !keptByHub k).onDev fun d => d.modReg .strtStatus fun w => satAdd w 31 16 1).setReady
  else s

/-- A step of cold boot after the first (R354). -/
def State.coldStep (s : State) (q : Sequence) (n : Nat) : State :=
  let ps := s.parts
  let e := q.env
  let b (p : PartIx) : BringUp := e.parts.getD p.val {}
  if n = 2 then s.onDev fun d => d.setPhase 1
  else if n = 3 then s.verify e
  else if n = 4 then s.firmwareUp e
  else if n = 5 then s.onDev fun d => d.setPhase 4
  else if n = 6 then ((ps.foldl (fun s p => s.selfTest p (b p)) s).updateTogether).onDev fun d => d.setPhase 5
  else if n = 7 then (ps.foldl State.stackBegins s).onDev fun d => d.setPhase 6
  else if n = 8 then (ps.foldl (fun s p => s.stackUp p (b p)) s).onDev fun d => d.setPhase 7
  else if n = 9 then s.onDev fun d => (d.farEnumerate e).setPhase 8
  else if n = 10 then
    let s := ps.foldl (fun s p => (s.broadcast (partClusters p) (b p)).partUpNow p q.t0 false) s
    s.onDev fun d => { d with optEn := true }.setPhase 9
  else if n = 11 then s.portsUp
  else if n = 12 then (s.restoreRegs fun _ => true).setReady
  else s

/-- A step of a partition reset after the first (R363). -/
def State.partStep (s : State) (q : Sequence) (p : PartIx) (n : Nat) : State :=
  if n = 2 then s.partStop p
  else if n = 3 then s.partClear p
  else if n = 4 then (s.selfTest p q.bring).updateTogether.stackBegins p
  else if n = 5 then s.stackUp p q.bring
  else if n = 6 then s.broadcast (partClusters p) q.bring
  else if n = 7 then s.partUpNow p q.t0 true
  else s

/-- A step of a core or cluster reset after the first (R362); step 2 is made once the cores are drained. -/
def State.coreStep (s : State) (l : List CoreIx) (k : Option ClusterIx) (b : BringUp) (n : Nat) : State :=
  if n = 3 then s.coresClear l
  else if n = 4 then match k with
    | some k =>
      (s.onDev fun d => d.clearClusters [k]).broadcast [k] b
    | none => s
  else s

/-- The cores a sequence resets, its cluster, and the number of its steps. -/
def SeqKind.scope : SeqKind → List CoreIx × Option ClusterIx × Nat
  | .core c => ([c], none, 4)
  | .cluster k => (clusterCores k, some k, 4)
  | .partition _ => ([], none, 7)
  | .warm => ([], none, 11)
  | .cold => ([], none, 12)

/-- One further step of a sequence; the last one ends it. -/
def State.seqStep (s : State) (q : Sequence) : State :=
  if !s.dev.seqs.contains q then s
  else
    let n := q.step + 1
    let (l, k, last) := q.kind.scope
    if n = 2 && !s.dev.drained l then s
    else
      let s := s.onDev fun d => { d with seqs := d.seqs.filterMap fun x =>
        if x = q then (if n = last then none else some { q with step := n }) else some x }
      match q.kind with
      | .cold => s.coldStep q n
      | .warm => s.warmStep q n
      | .partition p => s.partStep q p n
      | _ => s.coreStep l k q.bring n

/-- Every sequence under way makes its next step; an NMT reset node held until READY is then performed (R357). -/
def State.sequences (s : State) : State :=
  let s := s.dev.seqs.foldl State.seqStep s
  match s.dev.nodeHeld with
  | some e => if s.dev.ready then s.warmBegin e else s
  | none => s

-- ordering a reset (R360, R367, R368)

/-- Whether a reset of this kind is under way over the unit. -/
def SeqKind.covers (a b : SeqKind) : Bool :=
  match a with
  | .cold | .warm => true
  | .partition p => match b with
    | .partition x => x == p
    | .cluster k => clusterPart k == p
    | .core c => corePart c == p
    | _ => false
  | .cluster k => match b with
    | .cluster x => x == k
    | .core c => coreCluster c == k
    | _ => false
  | .core c => match b with
    | .core x => x == c
    | _ => false

/-- Whether a command names a fused partition, or a retired or fused core or cluster (R367). -/
def State.noUnit (s : State) : SeqKind → Bool
  | .core c => !s.nv.part.enabled (corePart c) || !s.nv.coreGood c
  | .cluster k => !s.nv.part.enabled (clusterPart k) || !s.nv.clusterGood k
  | .partition p => !s.nv.part.enabled p
  | _ => false

/-- The key of an origin's last STRT_CMD result; 3 stands for the Board Controller. -/
def strtKey : Origin → Nat
  | .fn0 => 0
  | .fn1 => 1
  | .firmware => 2

/-- Set RESULT of the last command of an origin: 1 ACCEPTED, 2 MERGED, 3 REFUSED, 4 BADCMD. -/
def State.strtResult (s : State) (key r : Nat) : State := s.onDev fun d => { d with strtRes := d.strtRes.set 0 key r }

/-- A reset begins with step 1 of its table; the lower-level resets it covers end where they stand (R368). -/
def State.begin (s : State) (k : SeqKind) (e : BootEnv) (b : BringUp) (abort : Bool) : State :=
  let s := s.onDev fun d => { d with seqs := d.seqs.filter fun q => !k.covers q.kind }
  let push (s : State) : State := s.onDev fun d => { d with
    seqs := d.seqs ++ [{ kind := k, step := 1, env := e, bring := b, t0 := s.now }] }
  match k with
  | .core c => (push s).coresStop [c] abort
  | .cluster c => (push s).coresStop (clusterCores c) abort
  | .partition p =>
    push ((s.notice [0, p.val]).onDev fun d => (d.setPart p 2).modReg (.strtPart p) fun w => satAdd w 15 0 1)
  | .warm => s.warmBegin e
  | .cold => s

/-- A reset ordered by a command (R367 … R369): `may` says whether its origin may order this level. -/
def State.order (s : State) (key : Nat) (may : Bool) (k : SeqKind) (e : BootEnv) (b : BringUp) : State :=
  if !s.dev.ready || !may || s.noUnit k then s.strtResult key 3
  else if s.dev.seqs.any fun q => q.kind.covers k then s.strtResult key 2
  else
    let s := (s.strtResult key 1).onDev fun d => d.modReg .strtCstat fun w => wrapAdd w 31 0 1
    s.begin k e b false

/-- A write of STRT_CMD through an origin: one from function 0 writes nothing and is refused (R367, R418). -/
def State.strtGo (s : State) (o : Origin) (f : State → State) : State :=
  let t := s.regWrite o .strtCmd f
  if o = .fn0 ∧ s.dev.answers o .strtCmd then t.strtResult (strtKey o) 3 else t

/-- A task that has not ended within ABORT_US of an abort request has its core reset by the dispatcher (R216), recorded as
ABORT_TIMEOUT (R336). -/
def State.abortExpires (s : State) (c : CoreIx) : State :=
  match (s.dev.core c).task with
  | some t =>
    s.when (s.coreUp c && t.abort.isSome && decide (t.abortAt + 1000 * fld (s.dev.reg (.resCtl t.part)) 63 48 ≤ s.now))
      ((s.record .abortTimeout (descFld t.words 31 0) t.queue.val (idCore s.dev.devId c)).begin (.core c) {} {} true)
  | none => s

/-- CORE_RESET (R360, R362): by a command, or by the dispatcher once an abort has not been obeyed. -/
def execCoreReset (r : ResetBy) (c : CoreIx) (s : State) : Ans :=
  .next (match r with
    | .cmd o => s.strtGo o fun s => s.order (strtKey o) true (.core c) {} {}
    | .dispatcher => s.abortExpires c)

/-- CLUSTER_RESET (R360, R362). -/
def execClusterReset (o : Origin) (k : ClusterIx) (b : BringUp) (s : State) : Ans :=
  .next (s.strtGo o fun s => s.order (strtKey o) (o != .firmware) (.cluster k) {} b)

/-- PARTITION_RESET (R360, R363). -/
def execPartitionReset (o : Origin) (p : PartIx) (b : BringUp) (s : State) : Ans :=
  .next (s.strtGo o fun s => s.order (strtKey o) (o != .firmware) (.partition p) {} b)

/-- WARM_DEVICE_RESET (R360, R366). -/
def execWarmDeviceReset (o : Origin) (e : BootEnv) (s : State) : Ans :=
  .next (s.strtGo o fun s => s.order (strtKey o) (o != .firmware) .warm { e with nodeId := s.dev.bootEnv.nodeId } {})

/-- A warm device reset that no command orders (R367, R368): before READY of a warm reset it starts again from step 1. -/
def State.warmReset (s : State) (e : BootEnv) : State :=
  (s.onDev fun d => { d with seqs := [] }).warmBegin { e with nodeId := s.dev.bootEnv.nodeId }

/-- RESET_N_ASSERT (R367, R368). -/
def execResetNAssert (e : BootEnv) (s : State) : Ans := .next (s.when s.dev.powered (s.warmReset e))

/-- The reset that a word written to STRT_CMD orders; none for a reserved LEVEL, and none inside for a UNIT that does not exist. -/
def strtKind (v : Word) : Option (Option SeqKind) :=
  let p := fld v 10 8
  let u := fld v 6 0
  match fld v 63 60 with
  | 1 => some (if u < 72 then some (.core (Fin.ofNat 576 (72 * p + u))) else none)
  | 2 => some (if u < 8 then some (.cluster (Fin.ofNat 64 (8 * p + u))) else none)
  | 3 => some (some (.partition (Fin.ofNat 8 p)))
  | 4 => some (some .warm)
  | _ => none

/-- Whether Firmware may order a reset of this kind (R344). -/
def SeqKind.isCore : SeqKind → Bool
  | .core _ => true
  | _ => false

/-- What a word written to STRT_CMD does, whatever bring-up finds `b` and `e` give. -/
def State.strtWrite (s : State) (key : Nat) (v : Word) (e : BootEnv) (b : BringUp) : State :=
  match strtKind v with
  | none => s.strtResult key 4
  | some none => s.strtResult key 3
  | some (some k) => s.order key (key != 2 || k.isCore) k { e with nodeId := s.dev.bootEnv.nodeId } b

/-- STRT_CMD_BADCMD (R369): a reserved LEVEL. -/
def execStrtCmdBadcmd (o : Origin) (v : Word) (s : State) : Ans :=
  .next (s.when (strtKind v == none) (s.strtGo o fun s => s.strtWrite (strtKey o) v {} {}))

/-- ABORT_TIMEOUT (R216). -/
def execAbortTimeout (c : CoreIx) (s : State) : Ans := .next (s.abortExpires c)

-- power (R354, R442)

/-- POWER_GOOD (R354, R442): a rising edge of PWRGD. Device time counts from 0, nothing volatile is left, memory is unwritten. -/
def execPowerGood (e : BootEnv) (s : State) : Ans :=
  .next (
    let s := if s.dev.powered then (s.vaultCut).onNv Nv.jLose else s
    { s with
      clk := {}
      mem := {}
      dev := { Dev.reset with
        freeCtr := s.dev.freeCtr, out := s.dev.out, powered := true, bootEnv := e
        regs := (List.finRange 8).foldl (fun t p =>
          t.set (Reg.reset (.strtPart p)) (Reg.offset (.strtPart p)) (if s.nv.part.enabled p then Reg.reset (.strtPart p) else 0)) []
        seqs := [{ kind := .cold, step := 1, env := e, bring := {}, t0 := 0 }] } })

/-- POWER_FAIL (R442): PWRGD low for 10 µs. The hub and every partition are held in reset, the lasers are off, OPT_EN falls; what
was not persisted is lost (R405). -/
def execPowerFail (s : State) : Ans :=
  .next (s.when s.dev.powered
    (let s := s.vaultCut.onNv Nv.jLose
     { s with dev := { Dev.reset with freeCtr := s.dev.freeCtr, out := s.dev.out } }))

end Sys2Proof.Machine
end

