-- ==== Sys2Proof/Machine/RegWrite.lean ====
section
/-! DEFINITION. What a write of any register does (R8, R413): the effect its chapter gives it, or the type of each field. -/

namespace Sys2Proof.Machine

-- MSI-X (R419, R420)

/-- Whether the condition of a vector holds (R419): a doorbell raised, ATTN, an enabled STATUS, a replacement event, READY,
DONE. -/
def State.vectorHolds (s : State) (fn v : Nat) : Bool :=
  let bell (n : Nat) : Bool := (List.range 32).any fun c => (s.dev.chan n c).db
  match fn, v with
  | 0, 0 => bell 0x3FC
  | 0, 1 => bell 0x3FD
  | 0, 2 => (List.finRange 8).any fun p => bit (s.dev.reg (.anchStat p)) 56
  | 1, 0 => bell 0x3FE
  | 1, 1 => bell 0x3FF
  | 1, 2 => (List.finRange 64).any fun i => bit (s.dev.reg (.errStat i)) 63 && bit (s.dev.reg .errIrqen) i.val
  | 1, 3 => bit s.nv.health 0
  | 1, 4 => s.dev.ready
  | 1, 5 => bit (s.dev.reg .vaultStat) 62
  | _, _ => false

/-- A write of a word of a function's MSI-X table: a vector unmasked while pending is sent when its condition still holds. -/
def State.msixWrite (s : State) (fn : Nat) (i : Fin 16) (v : Word) : State :=
  let s := s.onDev fun d => d.setMsix fn i.val (storeTyped (.msixTable i) (d.msixWord fn i.val) v)
  let k := i.val / 2
  if i.val % 2 = 1 ∧ !bit v 32 ∧ bit (s.dev.pba fn) k then
    let s := s.onDev fun d => d.setPba fn (setBit (d.pba fn) k false)
    if s.vectorHolds fn k then s.onDev fun d => d.msix fn k else s
  else s

/-- A write of SLICE_RMCTL (R182): THRESH takes 1 … 8 and is persisted; another value leaves it unchanged. A THRESH lowered to or below
a channel's used entries sets no FLAGS bit by itself; the next remap of the channel does (R24 and R182 do not say when: DESIGN CHOICE,
log entry 126). -/
def State.rmctlWrite (s : State) (p : PartIx) (v : Word) : State :=
  if 1 ≤ fld v 3 0 ∧ fld v 3 0 ≤ 8 then
    let w := storeTyped (.sliceRmctl p) (s.dev.reg (.sliceRmctl p)) v
    (s.onNv fun nv => nv.keepReg (.sliceRmctl p) w).onDev fun d => d.setReg (.sliceRmctl p) w
  else s

-- every register

/-- The effect of a write of `v` to a register by an origin that may make it. -/
def State.regEffect (o : Origin) (r : Reg) (v : Word) (s : State) : State :=
  match r with
  | .stackMctl p => s.mctlWrite p v
  | .stackChctl p c => s.chctlWrite p c v
  | .sliceCfg p => s.sliceCfgWrite p v
  | .sliceRmctl p => s.rmctlWrite p v
  | .sliceLive p i => s.liveWrite p i v
  | .resRoot a => s.onDev fun d => d.rootWrite a v
  | .resInval => s.invalWrite v
  | .resQcfg p q => s.qcfgWrite p q v
  | .resQstat p q => s.qstatWrite p q v
  | .resCtl p => s.resCtlWrite p v
  | .resBuft p => s.allocCfg (.resBuft p) p v
  | .resApool p i => s.allocCfg (.resApool p i) p v
  | .resPpool p => s.poolWrite p v
  | .resSubmit p q w =>
    if w.val = 7 then s.submitWindow o p q v
    else s.onDev fun d => { d with submStage := d.submStage.set 0 (submKey p q o w.val) v }
  | .resHint p w =>
    if w.val = 1 then s.submitHint ((s.dev.hintStage.get 0 (hintKey p o)).toNat + v.toNat * 2 ^ 64)
    else s.onDev fun d => { d with hintStage := d.hintStage.set 0 (hintKey p o) v }
  | .trainStep => s.trainWrite false v
  | .trainLs => s.trainWrite true v
  | .anchCtl p => s.anchCtlWrite p v
  | .anchCmd p => s.anchCmdWrite o p v
  | .anchRules p | .anchRelay p | .anchSeed p | .anchHp p _ _ => s.anchConfigWrite p r v
  | .hrdCfg h => s.hrdCfgWrite h v
  | .mbxCh n c => s.onDev fun d => d.mbxChWrite o n.val c.val v
  | .span sl half => s.onDev fun d => d.spanWrite sl half v
  | .hrdHop => s.hopWord o v
  | .linkPcfg n => s.portCfgWrite n v
  | .linkPcmd n => s.onDev fun d => d.pcmdWrite s.now n v
  | .linkVcbuf n => s.onDev fun d => d.vcbufWrite n v
  | .linkGcfg => s.gcfgWrite v
  | .linkSlot sl => s.slotWrite sl v
  | .linkRoute i half => s.onDev fun d => (d.modReg (.linkRoute i half) fun w => storeTyped (.linkRoute i half) w v).markEgress
  | .errStat i => s.onDev fun d => d.errStatWrite i v
  | .strtCmd => s.strtWrite (strtKey o) v s.dev.bootEnv {}
  | .pacePcfg p => s.pcfgWrite p v
  | .mapFarwin => s.hostAccess (.farwin v s.dev.windowOut)
  | .farCtl => s.farCtlWrite v
  | .farDec i => s.farDecWrite i v
  | .vaultCmd => s.vaultCmd o v
  | .msixTable i => s.msixWrite (originFn o) i v
  | r => s.onDev fun d => d.setReg r (storeTyped r (d.reg r) v)

/-- A write of a register: answered, denied, ignored or carried out by the common course; STRT_CMD keeps a result for the
function that may not write it (R367). -/
def State.writeReg (s : State) (o : Origin) (r : Reg) (v : Word) : State :=
  match r with
  | .strtCmd => s.strtGo o (State.regEffect o .strtCmd v)
  | r => s.regWriteV o r v (State.regEffect o r v)

/-- REGISTER_WRITE (R8, R413): an offset outside the blocks ignores the write. A word that orders a reset meets what the last
boot met (log entry 62). -/
def execRegisterWrite (o : Origin) (off : Nat) (v : Word) (s : State) : Ans :=
  .next (match Reg.ofOffset off with
    | some r => s.writeReg o r v
    | none => s)

end Sys2Proof.Machine
end

