-- ==== Sys2Proof/Machine/Dictionary.lean ====
section
/-! DEFINITION. The object dictionary (R387 … R391, R402 … R404, R410): its entries, what they read, what a write of one does. -/

namespace Sys2Proof.Machine

-- the entry model (R387, R388)

/-- Data types of the entries. -/
inductive DType where
  | bool | u8 | u16 | u32 | u64 | i8 | i16 | text | domain
  deriving DecidableEq, Repr

/-- Bytes of a value; none for the types of varying length. -/
def DType.size : DType → Option Nat
  | .bool | .u8 | .i8 => some 1
  | .u16 | .i16 => some 2
  | .u32 => some 4
  | .u64 => some 8
  | .text | .domain => none

/-- Access codes. -/
inductive Access' where
  | no | r | rw | w
  deriving DecidableEq, Repr

/-- Whether a code allows reading. -/
def Access'.reads : Access' → Bool
  | .r | .rw => true
  | _ => false

/-- Whether a code allows writing. -/
def Access'.writes : Access' → Bool
  | .w | .rw => true
  | _ => false

/-- An entry: type, access of the origin classes C, H, F, S, P, the partition of a per-partition entry, the register and the
parts of it that it mirrors. -/
structure Entry where
  ty : DType
  acc : List Access'
  part : Option PartIx := none
  mirror : Option (Reg × Parts) := none
  deriving DecidableEq, Repr

/-- Access columns of the tables. -/
def accR5 : List Access' := [.r, .r, .r, .r, .r]
@[inherit_doc accR5]
def accR4 : List Access' := [.r, .r, .r, .r, .no]
@[inherit_doc accR5]
def accR3 : List Access' := [.r, .r, .r, .no, .no]
@[inherit_doc accR5]
def accRw3 : List Access' := [.rw, .rw, .rw, .no, .no]
@[inherit_doc accR5]
def accRw4 : List Access' := [.rw, .rw, .rw, .r, .no]
@[inherit_doc accR5]
def accHost : List Access' := [.r, .rw, .rw, .r, .no]

/-- The column of an origin class. -/
def DictOrigin.column : DictOrigin → Nat
  | .can _ => 0 | .host => 1 | .firmware => 2 | .core _ => 3 | .partner _ => 4

/-- The code of an origin class. -/
def Entry.accOf (e : Entry) (d : DictOrigin) : Access' := e.acc.getD d.column .no

-- the entries (R402, R404, R410)

/-- The communication area. -/
def commEntry (index sub : Nat) : Option Entry :=
  if index = 0x1000 ∧ sub = 0 then some { ty := .u32, acc := accR4 }
  else if index = 0x1001 ∧ sub = 0 then some { ty := .u8, acc := accR4 }
  else if (index = 0x1008 ∨ index = 0x1009 ∨ index = 0x100A) ∧ sub = 0 then some { ty := .text, acc := accR3 }
  else if (index = 0x1010 ∨ index = 0x1011) ∧ sub = 1 then some { ty := .u32, acc := accRw3 }
  else if index = 0x1014 ∧ sub = 0 then some { ty := .u32, acc := accRw3 }
  else if (index = 0x1015 ∨ index = 0x1017) ∧ sub = 0 then some { ty := .u16, acc := accRw3 }
  else if index = 0x1018 ∧ 1 ≤ sub ∧ sub ≤ 4 then some { ty := .u32, acc := accR4 }
  else if 0x1400 ≤ index ∧ index < 0x1404 then
    if sub = 1 then some { ty := .u32, acc := accRw3 } else if sub = 2 then some { ty := .u8, acc := accRw3 } else none
  else if 0x1800 ≤ index ∧ index < 0x1810 then
    if sub = 1 then some { ty := .u32, acc := accRw3 } else if sub = 2 then some { ty := .u8, acc := accRw3 }
    else if sub = 3 ∨ sub = 5 then some { ty := .u16, acc := accRw3 } else none
  else if (0x1600 ≤ index ∧ index < 0x1604) ∨ (0x1A00 ≤ index ∧ index < 0x1A10) then
    if sub = 0 then some { ty := .u8, acc := accRw3 } else if sub ≤ 0x40 then some { ty := .u32, acc := accRw3 } else none
  else none

/-- A read-only entry that mirrors one field. -/
def mirrorR (ty : DType) (r : Reg) (hi lo : Nat) (p : Option PartIx := none) : Option Entry :=
  some { ty := ty, acc := accR4, part := p, mirror := some (r, [(hi, lo)]) }

/-- A writable entry: the parts of its register as `mirrorsOf` gives them. -/
def mirrorW (ty : DType) (acc : List Access') (r : Reg) (index sub : Nat) (p : Option PartIx := none) : Option Entry :=
  ((mirrorsOf r).find? fun m => m.1 == index && m.2.1 == sub).map fun m =>
    { ty := ty, acc := acc, part := p, mirror := some (r, m.2.2) }

/-- Pacer and thermal entries, 0x2100 … 0x22FF. -/
def paceEntry (index sub : Nat) : Option Entry :=
  let p : PartIx := Fin.ofNat 8 (index % 8)
  if index = 0x2100 then
    if sub = 0x10 then mirrorR .u16 .paceGstat 63 52
    else mirrorW (if sub ≤ 2 then .u16 else .u8) accRw4 .paceGcfg index sub
  else if index = 0x2101 ∧ 1 ≤ sub ∧ sub ≤ 4 then mirrorW .u32 accRw4 (.pacePhrd (Fin.ofNat 4 (sub - 1))) index sub
  else if 0x2110 ≤ index ∧ index < 0x2118 ∧ 1 ≤ sub ∧ sub ≤ 13 then some { ty := .u16, acc := accR4, part := some p }
  else if 0x2120 ≤ index ∧ index < 0x2128 then
    match sub with
    | 1 | 2 | 3 | 4 => mirrorW .u16 accRw4 (.pacePcfg p) index sub (some p)
    | 5 => mirrorW .bool accRw4 (.pacePcfg p) index sub (some p)
    | 6 => mirrorR .u16 (.pacePstat p) 63 54 (some p)
    | 7 => mirrorR .u8 (.pacePstat p) 53 48 (some p)
    | 8 => mirrorR .u8 (.pacePstat p) 46 44 (some p)
    | 9 => mirrorR .u16 (.pacePstat p) 43 35 (some p)
    | 10 => mirrorR .u16 (.pacePstat p) 25 16 (some p)
    | 11 => mirrorR .u16 (.paceMargin p) 63 54 (some p)
    | 12 => mirrorR .u8 (.paceMargin p) 53 48 (some p)
    | 13 => mirrorR .bool (.paceMargin p) 47 47 (some p)
    | _ => none
  else if index = 0x2200 then mirrorW .u8 accRw4 .thermCfg index sub
  else if index = 0x2201 ∧ 1 ≤ sub ∧ sub ≤ 28 then mirrorR .i16 (.thermRead (Fin.ofNat 28 (sub - 1))) 15 0
  else if index = 0x2202 ∧ sub = 0 then some { ty := .u32, acc := accR4 }
  else if index = 0x2203 ∧ sub = 9 then mirrorR .i16 .thermHub 15 0
  else if index = 0x2203 ∧ 1 ≤ sub ∧ sub ≤ 8 then mirrorR .i16 (.thermPart (Fin.ofNat 8 (sub - 1))) 63 48 (some (Fin.ofNat 8 (sub - 1)))
  else if index = 0x2204 ∧ 1 ≤ sub ∧ sub ≤ 8 then mirrorR .i16 (.thermPart (Fin.ofNat 8 (sub - 1))) 47 32 (some (Fin.ofNat 8 (sub - 1)))
  else none

/-- Error and link entries, 0x2300 … 0x24FF. -/
def errEntry (index sub : Nat) : Option Entry :=
  if 0x2300 ≤ index ∧ index < 0x2340 then
    let i : Fin 64 := Fin.ofNat 64 (index - 0x2300)
    match sub with
    | 1 => mirrorW .u64 accRw4 (.errStat i) index sub
    | 2 => mirrorR .u64 (.errAddr i) 63 0
    | 3 => mirrorR .u64 (.errId i) 63 0
    | 4 => mirrorR .u64 (.errTime i) 63 0
    | _ => none
  else if index = 0x2380 ∧ sub = 0 then mirrorR .u64 .errSummary 63 0
  else if index = 0x2381 ∧ sub = 0 then mirrorW .u64 accRw4 .errEmcyen index sub
  else if index = 0x2382 ∧ sub = 0 then mirrorW .u64 accHost .errIrqen index sub
  else if index = 0x2383 ∧ sub = 0 then some { ty := .u64, acc := accR4 }
  else if index = 0x2400 then
    match sub with
    | 1 => mirrorW .u16 accRw4 .linkGcfg index sub
    | 2 => some { ty := .u8, acc := accR5, mirror := some (.strtStatus, [(46, 40)]) }
    | _ => none
  else if 0x2410 ≤ index ∧ index < 0x2450 then
    let n : PortIx := Fin.ofNat 64 (index - 0x2410)
    match sub with
    | 1 => mirrorW .u8 accRw4 (.linkPcfg n) index sub
    | 2 => mirrorR .u8 (.linkPstat n) 63 60
    | 3 => mirrorR .u16 (.linkPstat n) 47 32
    | 4 => mirrorR .u64 (.linkPeer n) 63 0
    | 5 => mirrorR .u16 (.linkPstat n) 31 16
    | 6 => mirrorR .u16 (.linkPerr n) 63 48
    | 7 | 8 => mirrorW .u16 accRw4 (.linkRcap n) index sub
    | 9 => mirrorR .u32 (.linkPfec n) 63 32
    | 10 => mirrorR .u16 (.linkPfec n) 31 16
    | _ => none
  else none

/-- Memory, training, journal, Vault and Starter entries, 0x2500 … 0x29FF. -/
def unitEntry (index sub : Nat) : Option Entry :=
  let p : PartIx := Fin.ofNat 8 (index % 8)
  if 0x2500 ≤ index ∧ index < 0x2508 then
    match sub with
    | 1 | 2 => mirrorW .u8 accRw4 (.sliceCfg p) index sub (some p)
    | 3 => mirrorW .u8 accRw4 (.sliceRmctl p) index sub (some p)
    | 4 => mirrorW .u16 accRw4 (.sliceScrub p) index sub (some p)
    | 5 => mirrorW .bool accRw4 (.sliceScrub p) index sub (some p)
    | 6 => mirrorR .u32 (.sliceLap p) 63 44 (some p)
    | 7 => mirrorR .u16 (.sliceLap p) 43 32 (some p)
    | 8 => mirrorR .u16 (.sliceLap p) 31 16 (some p)
    | 9 => mirrorR .u16 (.sliceLap p) 15 0 (some p)
    | 10 | 12 => some { ty := .u16, acc := accR4, part := some p }
    | 11 | 13 => some { ty := .u32, acc := accR4, part := some p }
    | _ => none
  else if index = 0x2600 then
    match sub with
    | 1 | 2 => mirrorW .u32 accHost .trainStep index sub
    | 3 | 6 | 7 => mirrorW .i8 accHost .trainLs index sub
    | 4 => mirrorW .bool accHost .trainLs index sub
    | 5 => mirrorW .u16 accHost .trainLs index sub
    | 8 => mirrorR .u16 .trainLs 47 32
    | _ => none
  else if 0x2610 ≤ index ∧ index < 0x2618 then
    match sub with
    | 1 => mirrorR .u8 (.anchStat p) 63 61 (some p)
    | 2 => mirrorR .bool (.anchStat p) 60 60 (some p)
    | 3 => mirrorR .bool (.anchStat p) 58 58 (some p)
    | 4 => mirrorR .u32 (.anchClamp p) 63 32 (some p)
    | 5 => mirrorR .u16 (.anchStat p) 47 32 (some p)
    | 6 => mirrorR .u16 (.anchStat p) 31 16 (some p)
    | 7 => mirrorR .u32 (.anchVote p) 31 0 (some p)
    | 8 => mirrorR .u8 (.anchVote p) 63 61 (some p)
    | _ => none
  else if index = 0x2700 then
    match sub with
    | 1 | 2 | 3 | 4 => some { ty := .u64, acc := accR3 }
    | 5 => some { ty := .u32, acc := accR3 }
    | 6 => some { ty := .u64, acc := accRw3 }
    | _ => none
  else if (index = 0x2701 ∨ index = 0x2702 ∨ index = 0x2703) ∧ sub = 0 then some { ty := .domain, acc := accR3 }
  else if index = 0x2800 then
    match sub with
    | 1 => some { ty := .u8, acc := accR3 }
    | 2 | 3 => some { ty := .domain, acc := accR3 }
    | 4 => some { ty := .u32, acc := accR3 }
    | _ => none
  else if index = 0x2900 then
    match sub with
    | 1 => mirrorR .u64 .strtStatus 63 0
    | 2 => some { ty := .u64, acc := [.w, .w, .w, .no, .no], mirror := some (.strtCmd, [(63, 0)]) }
    | 3 => mirrorR .u64 .strtCstat 63 0
    | 4 => mirrorR .u64 .strtReadyNs 63 0
    | _ => none
  else if 0x2910 ≤ index ∧ index < 0x2918 ∧ sub = 0 then mirrorR .u64 (.strtPart p) 63 0 (some p)
  else none

/-- Identity and floor plan, 0x2000 … 0x2017. -/
def idEntry (index sub : Nat) : Option Entry :=
  if index = 0x2000 then
    match sub with
    | 1 => some { ty := .u64, acc := accR5 }
    | 2 => some { ty := .text, acc := accR5 }
    | 3 => mirrorW .u16 [.rw, .rw, .rw, .r, .r] .linkGcfg index sub
    | 4 => some { ty := .u8, acc := accR5 }
    | 5 => some { ty := .u8, acc := accR4 }
    | 6 => some { ty := .u8, acc := accRw3 }
    | _ => none
  else if index = 0x2001 ∧ sub = 0 then some { ty := .domain, acc := accR5 }
  else if index = 0x2002 ∧ sub = 0 then some { ty := .u32, acc := accR4 }
  else if 0x2010 ≤ index ∧ index < 0x2018 ∧ sub = 0 then some { ty := .domain, acc := accR4 }
  else none

/-- The entries of the tables. -/
def listedEntry (index sub : Nat) : Option Entry :=
  if index < 0x2000 then commEntry index sub
  else if index < 0x2100 then idEntry index sub
  else if index < 0x2300 then paceEntry index sub
  else if index < 0x2500 then errEntry index sub
  else unitEntry index sub

/-- The highest subindex of an index whose subindex 0x00 holds it; 0 for any other index (R387). -/
def highSub (index : Nat) : Nat :=
  if index = 0x1010 ∨ index = 0x1011 then 1 else if index = 0x1018 then 4
  else if 0x1400 ≤ index ∧ index < 0x1404 then 2 else if 0x1800 ≤ index ∧ index < 0x1810 then 5
  else if index = 0x2000 then 6 else if index = 0x2100 then 0x10 else if index = 0x2101 then 4
  else if (0x2110 ≤ index ∧ index < 0x2118) ∨ (0x2120 ≤ index ∧ index < 0x2128) then 13
  else if index = 0x2200 then 3 else if index = 0x2201 then 28 else if index = 0x2203 then 9 else if index = 0x2204 then 8
  else if 0x2300 ≤ index ∧ index < 0x2340 then 4 else if index = 0x2400 then 2
  else if 0x2410 ≤ index ∧ index < 0x2450 then 10 else if 0x2500 ≤ index ∧ index < 0x2508 then 13
  else if index = 0x2600 ∨ (0x2610 ≤ index ∧ index < 0x2618) then 8
  else if index = 0x2700 then 6 else if index = 0x2800 ∨ index = 0x2900 then 4
  else 0

/-- An entry; subindex 0x00 of an index with further ones is read-only to every class that may read the index. -/
def dictEntry (index sub : Nat) : Option Entry :=
  match listedEntry index sub with
  | some e => some e
  | none =>
    if sub = 0 ∧ highSub index ≠ 0 then
      let subs := (List.range (highSub index)).filterMap fun i => listedEntry index (i + 1)
      some { ty := .u8, acc := (List.range 5).map fun j => if subs.any fun e => (e.acc.getD j .no).reads then .r else .no }
    else none

/-- Whether an index exists. -/
def dictIndex (index : Nat) : Bool := (listedEntry index 0).isSome || highSub index != 0

-- what entries read (R389 … R391)

/-- The key of an origin's STRT_CMD result and of its CURSOR. -/
def DictOrigin.key : DictOrigin → Nat
  | .host => 1
  | .firmware => 2
  | .can n => 16 + n % 128
  | .core _ => 4
  | .partner _ => 5

/-- The descriptor header (R21), with GEN as `gen`. -/
def State.descHeaderAt (s : State) (gen : Nat) : List Byte :=
  let pt := s.nv.part
  let good := ((List.finRange 576).filter fun c => s.nv.coreGood c).length
  leBytes 2 1 ++ leBytes 2 0x40 ++ leBytes 2 0xC00 ++ leBytes 2 8 ++ leBytes 8 pt.serial.toNat ++ leBytes 4 gen ++
    leBytes 1 pt.parts ++ leBytes 1 pt.layers ++ leBytes 1 pt.gradeE.toNat ++ leBytes 1 0 ++ leBytes 4 good ++
    leBytes 4 (pt.countGood 0 576) ++ leBytes 8 s.nv.lastChange.toNat ++ List.replicate 24 0

/-- The header of the generation that stands: what a dictionary read returns (R27). -/
def State.descHeader (s : State) : List Byte := s.descHeaderAt s.nv.gen

/-- GEN as it reads at this moment: odd while an update is under way (R29). -/
def State.genNow (s : State) : Nat := (s.nv.gen + s.dev.genOpen.toNat) % 2 ^ 32

/-- A 64-bit word of the BAR0 mirror of the descriptor (R26): header, then the entries. -/
def State.descWord (s : State) (i : Nat) : Word :=
  if i < 8 then BitVec.ofNat 64 (ofLe (((s.descHeaderAt s.genNow).drop (8 * i)).take 8))
  else s.nv.entry ((i - 8) / 384) ((i - 8) % 384)

/-- A register as it reads to an origin, and as an entry shows it: the words hardware makes up are made up here. -/
def State.shown (s : State) (d : DictOrigin) (r : Reg) : Word :=
  match r with
  | .desc i => s.descWord i.val
  | .timingNow => BitVec.ofNat 64 s.now
  | .hrdState h => (s.dev.hurdle h).stateWord
  | .hrdCfg h => (s.dev.hurdle h).cfg
  | .mbxCh n c => s.dev.mbxWord n.val c.val
  | .health => s.nv.health
  | .errSummary => s.dev.errSummary
  | .strtStatus =>
    let up := (List.finRange 64).filter fun n => s.dev.portState n == 5
    let all := (List.finRange 64).all fun n => !bit (s.dev.reg (.linkPcfg n)) 0 || s.dev.portState n == 5
    setBit (setFld (s.dev.reg .strtStatus) 46 40 up.length) 10 (all && decide (10 ≤ s.dev.phase ∧ s.dev.phase ≠ 15))
  | .strtCstat => setFld (s.dev.reg .strtCstat) 63 60 (s.dev.strtRes.get 0 d.key)
  | .strtCmd => 0
  | r => s.dev.reg r

/-- The characters of a text. -/
def textBytes (t : String) : List Byte := t.toList.map fun c => BitVec.ofNat 8 c.toNat

/-- A number below 10 as a digit. -/
def digit (n : Nat) : Byte := BitVec.ofNat 8 (48 + n % 10)

/-- Enabled partitions. -/
def Part.count (pt : Part) : Nat := ((List.finRange 8).filter fun p => pt.enabled p).length

/-- The part number (R2): ZD1-nP-mL-g. -/
def Part.number (pt : Part) : List Byte :=
  textBytes "ZD1-" ++ [digit pt.count] ++ textBytes "P-" ++ [digit pt.layers] ++ textBytes (if pt.gradeE then "L-E" else "L-C")

/-- The oldest journal entry held. -/
def Journal.oldest (j : Journal) : Nat := min j.oldestRam j.oldestFlash

/-- Held entries from a sequence on, by sequence. -/
def Journal.held (j : Journal) (from' : Nat) : List (Nat × JEntry) :=
  let ram := j.ram.zipIdx.map fun e => (j.oldestRam + e.2, e.1)
  let flash := ((j.flash.map fun b => b.entries.zipIdx.map fun e => (b.first + e.2, e.1)).flatten).filter fun e => decide (e.1 < j.oldestRam)
  (flash ++ ram).filter fun e => decide (from' ≤ e.1)

/-- CURSOR of an origin: the oldest entry held until it has been written or moved. -/
def State.cursor (s : State) (d : DictOrigin) : Nat :=
  match s.dev.cursors.get 0 d.key with
  | 0 => s.nv.journal.oldest
  | n + 1 => n

/-- Set a CURSOR. -/
def Dev.setCursor (x : Dev) (d : DictOrigin) (n : Nat) : Dev := { x with cursors := x.cursors.set 0 d.key (n + 1) }

/-- The snapshot a read of 0x2701.00 takes. -/
def State.journalSnap (s : State) (d : DictOrigin) : List (Nat × JEntry) := (s.nv.journal.held (s.cursor d)).take 64

/-- Bytes of a text or DOMAIN entry. -/
def State.entryBytes (s : State) (d : DictOrigin) (index sub : Nat) : List Byte :=
  if index = 0x1008 then textBytes "Zilrin Dorka"
  else if index = 0x1009 ∨ (index = 0x2000 ∧ sub = 2) then s.nv.part.number
  else if index = 0x100A then Config.versionText s.dev.fwVer
  else if index = 0x2001 then s.descHeader
  else if 0x2010 ≤ index ∧ index < 0x2018 then ((List.range 384).map fun k => leBytes 8 (s.nv.entry (index - 0x2010) k).toNat).flatten
  else if index = 0x2701 then ((s.journalSnap d).map fun e => e.2.bytes).flatten
  else if index = 0x2702 then s.nv.jHead
  else if index = 0x2703 then
    let m := leBytes 8 s.nv.journal.head ++ s.nv.jHead
    m ++ ecdsaSign Config.deviceKey (Config.signSecret m) m
  else if index = 0x2800 then (if sub = 2 then sha384 Config.bootKey else Config.deviceCert)
  else []

/-- What an entry of a number type reads that mirrors no register field. -/
def State.entryNum (s : State) (d : DictOrigin) (index sub : Nat) : Nat :=
  let p : PartIx := Fin.ofNat 8 (index % 8)
  let dev := s.dev
  let pt := s.nv.part
  let chans (f : ChanIx → Nat) : Nat := ((List.finRange 32).map f).sum
  if index = 0x1001 then s.errRegister
  else if index = 0x1010 ∨ index = 0x1011 then 1
  else if index = 0x1018 then
    match sub with
    | 1 => 0x5C3
    | 2 => 0x0D100000 + 0x10000 * pt.count + 0x100 * pt.layers + (if pt.gradeE then 0x0E else 0x0C)
    | 3 => Config.revision.toNat
    | _ => pt.serial.toNat % 2 ^ 32
  else if index < 0x2000 then dev.commVal index sub
  else if index = 0x2000 then
    match sub with
    | 1 => pt.serial.toNat
    | 4 => pt.gradeE.toNat
    | 5 => dev.nodeId
    | _ => (dev.regs.get 2 (entryKey 0x2000 6)).toNat
  else if index = 0x2002 then s.genNow
  else if 0x2110 ≤ index ∧ index < 0x2118 then (pt.weights.getD p.val []).getD (sub - 1) 0
  else if index = 0x2202 then ((List.finRange 28).map fun i => (bit (dev.reg (.thermRead i)) 31).toNat * 2 ^ i.val).sum
  else if index = 0x2383 then s.nv.health.toNat
  else if 0x2500 ≤ index ∧ index < 0x2508 then
    match sub with
    | 10 => chans fun c => dev.remapCount p c
    | 11 => chans fun c => (bit (dev.reg (.stackChstat p c)) 7).toNat * 2 ^ c.val
    | 12 => ((List.range 224).filter fun u => (dev.link p u).onVias).length
    | _ => chans fun c => fld (dev.reg (.stackChstat p c)) 63 48
  else if index = 0x2700 then
    match sub with
    | 1 => s.nv.journal.head
    | 2 => s.nv.journal.oldestRam
    | 3 => s.nv.journal.oldestFlash
    | 4 => s.nv.journal.persisted
    | 5 => s.nv.journal.lost
    | _ => s.cursor d
  else if index = 0x2800 then
    match sub with
    | 1 => if dev.phase = 15 then 3 else if s.nv.vault.owner.isSome then 2 else 1
    | _ => s.nv.vault.revVer
  else 0

/-- Whether an entry is a per-partition entry of a fused partition, or mirrors a register of one (R404, R329). -/
def State.entryFused (s : State) (e : Entry) : Bool :=
  (e.part.any fun p => !s.nv.part.enabled p) || e.mirror.any fun m => s.nv.fusedReg m.1

/-- What an entry of a number type reads. -/
def State.entryVal (s : State) (d : DictOrigin) (index sub : Nat) (e : Entry) : Nat :=
  if s.entryFused e then 0
  else if sub = 0 ∧ (listedEntry index 0).isNone then highSub index
  else match e.mirror with
    | some (r, parts) => partsGet (s.shown d r) parts
    | none => s.entryNum d index sub

/-- The value of an entry as bytes. -/
def State.entryData (s : State) (d : DictOrigin) (index sub : Nat) (e : Entry) : List Byte :=
  match e.ty.size with
  | some n => leBytes n (s.entryVal d index sub e)
  | none => s.entryBytes d index sub

/-- Whether the unit behind an entry is up (check 6 of R390): the block of the register it mirrors answers; the partition of an
entry that shows its stack is up. -/
def State.entryUp (s : State) (index sub : Nat) (e : Entry) : Bool :=
  match e.mirror with
  | some (r, _) => s.dev.answers .fn1 r
  | none => if 0x2500 ≤ index ∧ index < 0x2508 ∧ sub ≠ 0 then e.part.all fun p => s.dev.partUp p else true

/-- The checks of R390 that reads and writes share, up to the access right: the abort code, or the entry. -/
def dictFind (d : DictOrigin) (write : Bool) (index sub : Nat) : Nat × Option Entry :=
  match dictEntry index sub with
  | none => (if dictIndex index then 0x06090011 else 0x06020000, none)
  | some e =>
    let a := e.accOf d
    if write then
      (if a.writes then 0 else if a = .r then 0x06010002 else 0x06010000, some e)
    else (if a.reads then 0 else if a = .w then 0x06010001 else 0x06010000, some e)

/-- A dictionary read: its abort code and the bytes of the value (R390). -/
def State.dictGet (s : State) (d : DictOrigin) (index sub : Nat) : Nat × List Byte :=
  match dictFind d false index sub with
  | (0, some e) =>
    if s.entryFused e then (0, s.entryData d index sub e)
    else if !s.entryUp index sub e then (0x08000022, [])
    else (0, s.entryData d index sub e)
  | (code, _) => (code, [])

-- PDO mappings (R401)

/-- Entries 0x1600 … and 0x1A00 … : whether an index is a mapping, and of a TPDO. -/
def mappingIndex (index : Nat) : Option Bool :=
  if 0x1600 ≤ index ∧ index < 0x1604 then some false else if 0x1A00 ≤ index ∧ index < 0x1A10 then some true else none

/-- Whether a mapping parameter names an entry that may be mapped: at most 64 bits, its own length, readable or writable by a CAN
node, outside 0x2700, 0x2800 and, for an RPDO, 0x2900 … 0x2917. -/
def mapOk (tpdo : Bool) (v : Nat) : Bool :=
  let index := v / 65536
  let sub := v / 256 % 256
  match dictEntry index sub with
  | none => false
  | some e =>
    let a := e.acc.getD 0 .no
    (match e.ty.size with
      | some n => v % 256 == 8 * n
      | none => false) &&
    (if tpdo then a.reads else a == .rw) &&
    !(decide (0x2700 ≤ index ∧ index < 0x2704) || index == 0x2800) && (tpdo || !decide (0x2900 ≤ index ∧ index ≤ 0x2917))

/-- The abort code of a mapping with `n` entries: 0x0604_0041 for an entry that breaks the rules, 0x0604_0042 beyond 64 bytes. -/
def mapCode (tpdo : Bool) (l : List Nat) : Nat :=
  if !l.all (mapOk tpdo) then 0x06040041
  else if 512 < (l.map (· % 256)).sum then 0x06040042 else 0

/-- The mapped entries of a PDO as they stand. -/
def Dev.mapping (d : Dev) (index : Nat) : List Nat :=
  (List.range (min 64 (d.commVal index 0))).map fun i => d.commVal index (i + 1)

/-- Check of a write of a mapping entry. -/
def Dev.mapWrite (d : Dev) (tpdo : Bool) (index sub v : Nat) : Nat :=
  if sub = 0 then
    if 64 < v then 0x06090030 else mapCode tpdo ((List.range v).map fun i => d.commVal index (i + 1))
  else if v = 0 ∧ d.commVal index 0 < sub then 0
  else if !mapOk tpdo v then 0x06040041
  else if sub ≤ d.commVal index 0 then mapCode tpdo ((d.mapping index).set (sub - 1) v) else 0

-- writes (R389, R390)

/-- Bits of the parts of a field. -/
def partsBits : Parts → Nat
  | [] => 0
  | (hi, lo) :: r => hi + 1 - lo + partsBits r

/-- The range check of a write (check 5), with the codes of R401 for mappings. -/
def State.rangeCode (s : State) (index sub : Nat) (e : Entry) (v : Nat) : Nat :=
  let bad (b : Bool) : Nat := if b then 0x06090030 else 0
  if 256 ^ (e.ty.size.getD 0) ≤ v then 0x06090030
  else if e.ty = .bool then bad (1 < v)
  else if index = 0x1010 then bad (v != 0x65766173)
  else if index = 0x1011 then bad (v != 0x64616F6C)
  else if ((0x1400 ≤ index ∧ index < 0x1404) ∨ (0x1800 ≤ index ∧ index < 0x1810)) ∧ sub = 2 then bad (v < 0xFE)
  else match mappingIndex index with
    | some tpdo => s.dev.mapWrite tpdo index sub v
    | none =>
      if index = 0x2000 ∧ sub = 6 then bad (!([1, 2, 4, 5].contains v))
      else if index = 0x2400 ∧ sub = 1 then bad (v == 0)
      else if index = 0x2600 ∧ (sub = 6 ∨ sub = 7) then bad (64 < (sint 8 v).natAbs)
      else match e.mirror with
        | some (_, parts) => bad (2 ^ partsBits parts ≤ v)
        | none => 0

/-- The identity of an origin in the journal (R403, R407). -/
def State.dictId (s : State) : DictOrigin → Nat
  | .can n => 0x60000000 + 4096 * s.dev.devId + n % 128
  | .host => idHost s.dev.devId 1
  | .firmware => idFirmware s.dev.devId
  | .core c => idCore s.dev.devId c
  | .partner n => idRemote (s.dev.port n).peerDev

/-- Whether the register's own rules refused a field write that found `s` and left `t` (check 7): a field that did not take
the value, TRAIN outside IDLE (R224), a command that was refused or does not exist (R367). -/
def State.ruleRefused (s t : State) (d : DictOrigin) (r : Reg) (parts : Parts) (v : Nat) : Bool :=
  match r with
  | .trainStep | .trainLs => (List.finRange 8).any fun p => s.dev.anchState p != 0
  | .strtCmd => decide (3 ≤ t.dev.strtRes.get 0 d.key)
  | .errStat _ | .errEmcyen | .errIrqen => false
  | r => partsGet (t.dev.reg r) parts != v

/-- A field write through function 1 (R389): the other fields of the register are as they stand. -/
def State.fieldWrite (s : State) (d : DictOrigin) (r : Reg) (parts : Parts) (v : Nat) : State :=
  match r with
  | .strtCmd => s.strtWrite d.key (BitVec.ofNat 64 v) s.dev.bootEnv {}
  | r =>
    let t := State.regEffect .fn1 r (partsPut (s.dev.reg r &&& ~~~r.w1c) parts v) s
    s.markAuto t r

/-- A write of an entry that mirrors no register field. -/
def State.plainWrite (s : State) (d : DictOrigin) (index sub v : Nat) : State :=
  if index = 0x1010 then s.onNv fun nv => { nv with saved := s.dev.comm }
  else if index = 0x1011 then s.onDev fun x => { x with restore := true }
  else if index < 0x2000 then s.onDev fun x => x.setComm index sub v
  else if index = 0x2000 then
    s.onDev fun x => { x with regs := x.regs.set 2 (entryKey 0x2000 6) (BitVec.ofNat 64 v) }.touchAuto (entryKey 0x2000 6)
  else if index = 0x2700 then s.onDev fun x => x.setCursor d v
  else s

/-- A write that passed checks 1 … 6: its abort code and what it leaves, journalled (R406). -/
def State.dictApply (s : State) (d : DictOrigin) (index sub : Nat) (e : Entry) (v : Nat) : Nat × State :=
  let old := s.entryVal d index sub e
  let id := s.dictId d
  match e.mirror with
  | some (r, parts) =>
    let t := s.fieldWrite d r parts v
    if s.ruleRefused t d r parts v then (0x08000022, t.journal id index sub 2 old v)
    else
      let new := t.entryVal d index sub e
      (0, if new = old then t else t.journal id index sub 0 old new)
  | none =>
    let t := s.plainWrite d index sub v
    let new := t.entryVal d index sub e
    (0, if new = old ∨ index = 0x2700 then t else t.journal id index sub 0 old new)

/-- A dictionary write of a value, with the number of bytes it came in where the path tells (R390, R406, R409): its abort code
and what it leaves. -/
def State.dictPut (s : State) (d : DictOrigin) (index sub v : Nat) (len : Option Nat) : Nat × State :=
  if s.nv.journal.full then (0x08000020, s)
  else match dictFind d true index sub with
    | (code, none) => (code, s)
    | (0, some e) =>
      let log (code result : Nat) : Nat × State :=
        (code, if index = 0x2700 then s else s.journal (s.dictId d) index sub result (s.entryVal d index sub e) v)
      if len.any fun n => some n != e.ty.size then log 0x06070010 3
      else
        let range := s.rangeCode index sub e v
        if range ≠ 0 then log range 3
        else if s.entryFused e || !s.entryUp index sub e then log 0x08000022 2
        else s.dictApply d index sub e v
    | (code, some e) =>
      let old := if e.ty.size.isSome then s.entryVal d index sub e else 0
      (code, s.journal (s.dictId d) index sub 1 old v)

end Sys2Proof.Machine
end

