-- ==== Sys2Proof/Machine/Can.lean ====
section
/-! DEFINITION. The paths into the object dictionary (R392 … R396), CAN FD and CANopen FD (R397 … R403), persistence (R405) and
the journal's blocks and reads (R409, R410). -/

namespace Sys2Proof.Machine

-- USDO (R399)

/-- CAN is served: the dictionary is up, the node ID is not 0, the boot-up message has been sent. -/
def Dev.canUp (d : Dev) : Bool := d.dictUp && d.nodeId != 0 && d.nmt != .silent

/-- USDO requests are answered in pre-operational and operational (R400). -/
def Dev.usdoOn (d : Dev) : Bool := d.canUp && (d.nmt == .preop || d.nmt == .oper)

/-- Data bytes of one USDO frame (CiA 1301, log entry 64). -/
def usdoChunk : Nat := 56

/-- The transfer of a client. -/
def Dev.transfer (d : Dev) (client : Nat) : Option Usdo := d.usdo.find? fun x => x.client == client

/-- End a client's transfer. -/
def Dev.endTransfer (d : Dev) (client : Nat) : Dev := { d with usdo := d.usdo.filter fun x => x.client != client }

/-- Four other clients are served. -/
def Dev.usdoFull (d : Dev) (client : Nat) : Bool := decide (4 ≤ (d.usdo.filter fun x => x.client != client).length)

/-- A segment of the journal leaves: CURSOR moves past the entries sent whole (R410). The transfer keeps its own snapshot; its
subindex field holds the sequence of its first entry. -/
def Dev.journalSent (d : Dev) (o : DictOrigin) (index first sent : Nat) : Dev :=
  if index = 0x2701 then d.setCursor o (first + sent / 32) else d

/-- An upload: the whole value, or its first part and a transfer for the rest. -/
def State.usdoUp (s : State) (client index sub : Nat) : State :=
  let o := DictOrigin.can client
  let (code, data) := s.dictGet o index sub
  let s := s.onDev fun d => d.endTransfer client
  if s.dev.usdoFull client then s.onDev fun d => d.can (.usdoAbort client 0x05040005)
  else if code ≠ 0 then s.onDev fun d => d.can (.usdoAbort client code)
  else
    let first := match s.journalSnap o with
      | e :: _ => e.1
      | [] => s.cursor o
    let now := data.take usdoChunk
    s.onDev fun d =>
      let d := (d.can (.usdo client now data.length)).journalSent o index first now.length
      if data.length ≤ usdoChunk then d
      else { d with usdo := d.usdo ++ [{ client := client, index := index, sub := if index = 0x2701 then first else sub, upload := true, data := data.drop usdoChunk, size := data.length }] }

/-- A download with all its bytes. -/
def State.usdoStore (s : State) (client index sub : Nat) (data : List Byte) : State :=
  let (code, s) := s.dictPut (.can client) index sub (ofLe data) (some data.length)
  s.onDev fun d => d.can (if code = 0 then .usdo client [] 0 else .usdoAbort client code)

/-- A download: whole, or the first part of a transfer. -/
def State.usdoDown (s : State) (client index sub : Nat) (data : List Byte) (size : Nat) : State :=
  let s := s.onDev fun d => d.endTransfer client
  if s.dev.usdoFull client then s.onDev fun d => d.can (.usdoAbort client 0x05040005)
  else if size ≤ data.length then s.usdoStore client index sub (data.take size)
  else s.onDev fun d =>
    ({ d with usdo := d.usdo ++ [{ client := client, index := index, sub := sub, upload := false, data := data, size := size }] } : Dev).can
      (.usdo client [] size)

/-- USDO_UPLOAD (R399). -/
def execUsdoUpload (client index sub : Nat) (s : State) : Ans := .next (s.when s.dev.usdoOn (s.usdoUp client index sub))

/-- USDO_DOWNLOAD (R399). -/
def execUsdoDownload (client index sub : Nat) (data : List Byte) (size : Nat) (s : State) : Ans :=
  .next (s.when s.dev.usdoOn (s.usdoDown client index sub data size))

/-- USDO_SEGMENT (R399): the next part of an upload leaves, or a part of a download arrives and the last one makes the write. -/
def execUsdoSegment (client : Nat) (data : List Byte) (s : State) : Ans :=
  .next (match s.dev.transfer client with
    | none => s
    | some x => s.when s.dev.usdoOn (
      let rest := s.onDev fun d => d.endTransfer client
      if x.upload then
        let now := x.data.take usdoChunk
        let left := x.data.drop usdoChunk
        rest.onDev fun d =>
          let d := (d.can (.usdo client now x.size)).journalSent (.can client) x.index x.sub (x.size - left.length)
          if left = [] then d else { d with usdo := d.usdo ++ [{ x with data := left }] }
      else
        let got := x.data ++ data
        if x.size ≤ got.length then rest.usdoStore client x.index x.sub (got.take x.size)
        else rest.onDev fun d => ({ d with usdo := d.usdo ++ [{ x with data := got }] } : Dev).can (.usdo client [] x.size)))

/-- USDO_TIMEOUT (R399): a transfer idle for 1 s ends. -/
def execUsdoTimeout (client : Nat) (s : State) : Ans :=
  .next (match s.dev.transfer client with
    | none => s
    | some _ => s.onDev fun d => (d.endTransfer client).can (.usdoAbort client 0x05040000))

-- NMT (R400)

/-- NMT_START. -/
def execNmtStart (s : State) : Ans := .next (s.when (s.dev.canUp && s.dev.nmt != .oper) (s.enterNmt .oper))

/-- NMT_STOP: transfers under way end without an answer. -/
def execNmtStop (s : State) : Ans :=
  .next (s.when s.dev.canUp (s.onDev fun d => { d with nmt := .stopped, usdo := [] }))

/-- NMT_ENTER_PREOPERATIONAL. -/
def execNmtEnterPreoperational (s : State) : Ans :=
  .next (s.when (s.dev.canUp && s.dev.nmt != .preop) (s.enterNmt .preop))

/-- NMT_RESET_NODE (R357, R368, R400): before the boot-up message it is ignored, before READY of a cold boot it is held, in a warm
reset it starts the reset again. -/
def execNmtResetNode (e : BootEnv) (s : State) : Ans :=
  .next (s.when s.dev.canUp (if s.dev.ready || s.dev.seqs.any (·.kind == .warm) then s.warmReset e
    else s.onDev fun d => { d with nodeHeld := some e }))

/-- NMT_RESET_COMMUNICATION (R397, R400, R402): 0x1000 … 0x1FFF return to their stored values, or to the defaults once after
0x1011.01; the data-phase rate of 0x2000.06 takes effect; the boot-up message and pre-operational follow. -/
def execNmtResetCommunication (s : State) : Ans :=
  .next (s.when s.dev.canUp
    ((s.onDev fun d =>
      ({ d with comm := if d.restore then [] else s.nv.saved, restore := false, usdo := [], emcy := []
                rate := (d.regs.get 2 (entryKey 0x2000 6)).toNat } : Dev).can .boot).enterNmt .preop))

/-- The code of an NMT state in a heartbeat (CiA 1301, log entry 64). -/
def Nmt.code : Nmt → Nat
  | .silent => 0 | .preop => 0x7F | .oper => 5 | .stopped => 4

/-- HEARTBEAT (R399, R402): a period of 0 disables it. -/
def execHeartbeat (s : State) : Ans :=
  .next (s.when (s.dev.canUp && s.dev.commVal 0x1017 0 != 0) (s.onDev fun d => d.can (.heartbeat d.nmt.code)))

-- PDO (R401)

/-- The bytes of a mapped entry: a snapshot, or free values while its unit is not up (log entry 65). -/
def State.mapped (s : State) (v : Nat) : List Byte :=
  let r := s.dictGet (.can 0) (v / 65536) (v / 256 % 256)
  if r.1 = 0 then r.2 else leBytes (v % 256 / 8) s.dev.free.toNat

/-- TPDO_TRANSMIT (R401): at the event timer, in operational, when valid, mapped and the inhibit time has passed. -/
def execTpdoTransmit (j : Fin 16) (s : State) : Ans :=
  .next (
    let d := s.dev
    let cob := d.commVal (0x1800 + j.val) 1
    let map := d.mapping (0x1A00 + j.val)
    let last := d.tpdoAt.get 0 j.val
    s.when (d.canUp && d.nmt == .oper && decide (cob < 2 ^ 31) && d.commVal (0x1800 + j.val) 5 != 0 && map != [] &&
        (last == 0 || decide (last + 100000 * d.commVal (0x1800 + j.val) 3 ≤ s.now)))
      (s.onDev fun d =>
        (({ d with tpdoAt := d.tpdoAt.set 0 j.val s.now } : Dev).can (.tpdo j.val cob (map.map s.mapped).flatten)).spend))

/-- The writes of an RPDO, in mapping order. -/
def State.rpdoWrites : List Nat → List Byte → State → State
  | [], _, s => s
  | v :: r, l, s =>
    let n := v % 256 / 8
    State.rpdoWrites r (l.drop n) (s.dictPut (.can 0) (v / 65536) (v / 256 % 256) (ofLe (l.take n)) (some n)).2

/-- RPDO_RECEIVE (R401): in operational, when valid and long enough for its mapping (log entry 64). -/
def execRpdoReceive (i : Fin 4) (data : List Byte) (s : State) : Ans :=
  .next (
    let map := s.dev.mapping (0x1600 + i.val)
    s.when (s.dev.canUp && s.dev.nmt == .oper && decide (s.dev.commVal (0x1400 + i.val) 1 < 2 ^ 31) &&
        decide ((map.map (· % 256 / 8)).sum ≤ data.length))
      (State.rpdoWrites map data s))

-- the Host's mailbox path (R393)

/-- Segment `k` of `n` bytes, with zeros past the end. -/
def segment (l : List Byte) (n k : Nat) : List Byte := padTo n 0 ((l.drop (n * k)).take n)

/-- A snapshot of 0x2701.00 kept for the segments of one read: where the snapshot of an origin begins. -/
def snapKey (d : DictOrigin) : Nat := 1000 + d.key

/-- The bytes a segment of a text or DOMAIN entry is cut from (R27, R390): segment 0 takes a snapshot, the others are of it; a
later segment of an entry that has none takes it. -/
def State.snapshot (s : State) (d : DictOrigin) (index sub k : Nat) (data : List Byte) : List Byte × State :=
  let key := entryKey index sub
  let mine (e : DictOrigin × Nat × List Byte) : Bool := e.1 == d && e.2.1 == key
  if ((dictEntry index sub).bind fun e => e.ty.size).isSome then (data, s)
  else match (if k = 0 then none else s.dev.snaps.find? mine) with
    | some e => (e.2.2, s)
    | none => (data, s.onDev fun x => { x with snaps := x.snaps.filter (fun e => !mine e) ++ [(d, key, data)] })

/-- A segment of an entry for a path that reads one segment at a time. Segment 0 of 0x2701.00 takes the snapshot, and the others
are of it; CURSOR moves past the entries delivered. -/
def State.segmentOf (s : State) (d : DictOrigin) (index sub n k : Nat) : Nat × Nat × List Byte × State :=
  match s.dictGet d index sub with
  | (0, data) =>
    if index = 0x2701 then
      let begin' := if k = 0 then s.cursor d else s.dev.cursors.get 0 (snapKey d)
      let limit := if k = 0 then s.nv.journal.head else s.dev.cursors.get 0 (snapKey d + 1000)
      let snap := ((s.nv.journal.held begin').take 64).filter fun e => decide (e.1 < limit)
      let data := (snap.map fun e => e.2.bytes).flatten
      let s := s.onDev fun x =>
        { x with cursors := (x.cursors.set 0 (snapKey d) begin').set 0 (snapKey d + 1000) limit }
      let s := match (snap.take (n * (k + 1) / 32)).getLast? with
        | some e => s.onDev fun x => x.setCursor d (e.1 + 1)
        | none => s
      (0, data.length, segment data n k, s)
    else
      let (data, s) := s.snapshot d index sub k data
      (0, data.length, segment data n k, s)
  | (code, _) => (code, 0, List.replicate n 0, s)

/-- The answer to a request: words 1 … 7. -/
def State.hostDict (s : State) (w1 w2 : Word) : List Word × State :=
  let sub := fld w1 55 48
  let index := fld w1 47 32
  let ans (code : Nat) (w3 : Nat) (rest : List Word) : List Word := [w1, BitVec.ofNat 64 code, BitVec.ofNat 64 w3] ++ rest
  match fld w1 63 56 with
  | 1 => match s.dictGet .host index sub with
    | (code, data) => (ans code (ofLe (data.take 8)) [], s)
  | 2 => match s.dictPut .host index sub w2.toNat none with
    | (code, s) => (ans code 0 [], s)
  | 3 => match s.segmentOf .host index sub 32 w2.toNat with
    | (code, total, data, s) => (ans code total (natWords 4 (ofLe data)), s)
  | _ => (ans 0x06010000 0 [], s)

/-- A request waits on a channel with this OP, or with a reserved one, and the answer channel is free: it is taken, carried out
and answered. A sender other than function 1 has no access. -/
def State.hostRequest (s : State) (ch : Fin 16) (op : Nat) : State :=
  let x := s.dev.chan 0x3F8 (16 + ch.val)
  let w (i : Nat) : Word := x.words.getD i 0
  let code := fld (w 1) 63 56
  s.when (s.dev.firmwareTakes 0 (16 + ch.val) && x.full && !(s.dev.chan 0x3FE ch.val).full && (code == op || decide (code = 0 ∨ 3 < code)))
    (let s := s.onDev fun d => d.firmwareTook 0 (16 + ch.val)
     let (words, s) := if fld (w 0) 31 0 = idHost s.dev.devId 1 then s.hostDict (w 1) (w 2)
       else ([w 1, BitVec.ofNat 64 0x06010000], s)
     (s.post 0x3FE ch.val (idFirmware s.dev.devId) (s.dev.epochOf (idFirmware s.dev.devId)) words).2)

/-- DICT_READ. -/
def execDictRead (ch : Fin 16) (s : State) : Ans := .next (s.hostRequest ch 1)

/-- DICT_WRITE. -/
def execDictWrite (ch : Fin 16) (s : State) : Ans := .next (s.hostRequest ch 2)

/-- DICT_READ_SEGMENT. -/
def execDictReadSegment (ch : Fin 16) (s : State) : Ans := .next (s.hostRequest ch 3)

-- the CSR path (R394)

/-- The result of DICT_RD: the value, or a segment of a text or DOMAIN; a free value where the read fails (log entry 65). -/
def State.dictCsr (s : State) (c : CoreIx) (op : Word) : Nat × Word × State :=
  let index := fld op 31 16
  let sub := fld op 15 8
  match s.dictGet (.core c) index sub with
  | (0, data) =>
    let wide := ((dictEntry index sub).bind fun e => e.ty.size).isSome
    let (data, s) := s.snapshot (.core c) index sub (fld op 7 0) data
    (0, BitVec.ofNat 64 (ofLe (segment data 8 (if wide then 0 else fld op 7 0))), s)
  | (code, _) => (code, s.dev.free, s)

/-- DICT_RD (R394): only with rs1 ≠ x0. -/
def execDictRd (c : CoreIx) (rd rs1 : RegNum) (s : State) : Ans :=
  .next (s.issue c 4 fun s =>
    if rs1.val = 0 then s.illegal c (BitVec.ofNat 32 (0x850 * 2 ^ 20 + 0x1000 + 128 * rd.val + 0x73))
    else
      let (code, v, s) := s.dictCsr c ((s.dev.core c).getX rs1)
      s.onDev fun d => (d.modCore c fun k => ({ k with dictSt := BitVec.ofNat 64 code }.setX rd v).retire).spend)

-- the link path (R395)

/-- The result code of an abort code. -/
def flitResult (code : Nat) : Nat :=
  if code = 0 then 0 else if code = 0x06020000 ∨ code = 0x06090011 then 2 else if code = 0x08000022 then 3 else 1

/-- DICT_FLIT_READ (R395): 16 requests a millisecond are carried out. -/
def execDictFlitRead (n : PortIx) (s : State) : Ans :=
  .next (s.withMsg n 3 (fun m => m.op == 0x13 && m.byte 3 == 0) fun m s =>
    let ms := s.now / 1000000
    let p := s.dev.port n
    let used := if p.dictMs = ms then p.dictN else 0
    let head := leBytes 2 (m.half 0) ++ leBytes 1 (m.byte 2) ++ leBytes 1 1
    if 16 ≤ used then
      s.onDev fun d => (d.modReg (.linkPerr n) fun w => satAdd w 23 16 1).manage n 0x13 (head ++ leBytes 1 4 ++ leBytes 1 (m.byte 5))
    else
      let s := s.onDev fun d => d.modPort n fun p => { p with dictMs := ms, dictN := used + 1 }
      let (code, data) := s.dictGet (.partner n) (m.half 0) (m.byte 2)
      let (data, s) := if code = 0 then s.snapshot (.partner n) (m.half 0) (m.byte 2) (m.byte 5) data else (data, s)
      s.onDev fun d => d.manage n 0x13 (head ++ leBytes 1 (flitResult code) ++ leBytes 1 (m.byte 5) ++ leBytes 2 0 ++
        segment data 8 (m.byte 5)))

/-- DICT_FLIT_ANSWER (R395): Firmware's read of a Partner is complete. -/
def execDictFlitAnswer (n : PortIx) (s : State) : Ans :=
  .next (s.withMsg n 3 (fun m => m.op == 0x13 && m.byte 3 == 1) fun m s =>
    s.onDev fun d => d.emit (.dict .firmware (m.byte 4) ((m.data.drop 8).take 8)))

-- reads and writes with a row of their own (R402, R410)

/-- A read of an entry by an origin: on CAN by USDO, for the others the answer is given whole. -/
def State.readEntry (s : State) (d : DictOrigin) (index sub : Nat) : State :=
  match d with
  | .can n => s.when s.dev.usdoOn (s.usdoUp n index sub)
  | _ => s.when s.dev.dictUp (
      let (code, data) := s.dictGet d index sub
      let last := (s.journalSnap d).getLast?
      s.onDev fun x =>
        let x := x.emit (.dict d code data)
        match last with
        | some e => if index = 0x2701 ∧ code = 0 then x.setCursor d (e.1 + 1) else x
        | none => x)

/-- A write of an entry by an origin. -/
def State.writeEntry (s : State) (d : DictOrigin) (index sub v len : Nat) : State :=
  match d with
  | .can n => s.when s.dev.usdoOn (s.usdoDown n index sub (leBytes len v) len)
  | _ => s.when s.dev.dictUp (
      let (code, s) := s.dictPut d index sub v none
      s.onDev fun x => x.emit (.dict d code []))

/-- STORE_PARAMETERS (R402). -/
def execStoreParameters (d : DictOrigin) (s : State) : Ans := .next (s.writeEntry d 0x1010 1 0x65766173 4)

/-- RESTORE_DEFAULTS (R402). -/
def execRestoreDefaults (d : DictOrigin) (s : State) : Ans := .next (s.writeEntry d 0x1011 1 0x64616F6C 4)

/-- JOURNAL_READ (R410). -/
def execJournalRead (d : DictOrigin) (s : State) : Ans := .next (s.readEntry d 0x2701 0)

/-- JOURNAL_SIGNED_HEAD (R410). -/
def execJournalSignedHead (d : DictOrigin) (s : State) : Ans := .next (s.readEntry d 0x2703 0)

-- flash (R405, R409)

/-- A write to the package flash: whether it needed a retry, and at which offset, are free values; a retry is recorded (R336). -/
def State.flashWritten (s : State) : State :=
  let s := if bit s.dev.free 0 then s.record .flashErr (fld s.dev.free 31 1) 0 (idHub s.dev.devId) else s
  s.onDev fun d => d.spend

/-- JOURNAL_FLUSH (R409): one block; dropped entries are journalled as a gap once there is space. -/
def execJournalFlush (s : State) : Ans :=
  .next (s.when s.dev.powered ((s.onNv Nv.jFlush).jGap).flashWritten)

/-- The word of flash for a register with changed auto entries: its auto parts as they stand, the rest as kept. -/
def keptWord (s : State) (r : Reg) : Word :=
  let old := (s.nv.keptReg r).getD r.reset
  ((mirrorsOf r).filter fun m => autoEntry m.1 m.2.1).foldl (fun w m => partsPut w m.2.2 (partsGet (s.dev.reg r) m.2.2)) old

/-- AUTO_PERSIST (R405): the changes of the last second in one update, after the journal entries of all of them. -/
def execAutoPersist (s : State) : Ans :=
  .next (s.when (s.dev.powered && s.dev.dirty != [])
    (let s := (s.onNv fun nv => Nv.jFlushAll nv.journal.waiting nv).jGap
     let s := s.dev.dirty.foldl (fun s k => s.onNv fun nv => match Reg.ofOffset k with
       | some r => nv.keepReg r (keptWord s r)
       | none => { nv with regs := nv.regs.set none k (some (s.dev.regs.get 2 k)) }) s
     (s.onDev fun d => { d with dirty := [] }).flashWritten))

end Sys2Proof.Machine
end

