-- ==== Sys2Proof/Machine/Tensor.lean ====
section
/-! DEFINITION. The tensor instructions (R61, R71 … R76, R88) and the completion of a tensor ticket (R80). -/

namespace Sys2Proof.Machine

/-- The bits of a TMMA (R71). -/
def tmmaWord (rd rs1 rs2 rs3 : RegNum) (z w : Bool) (f2 : Fin 4) (f3 : Bool) : Word32 :=
  BitVec.ofNat 32 (rs3.val * 2 ^ 27 + f2.val * 2 ^ 25 + rs2.val * 2 ^ 20 + rs1.val * 2 ^ 15 + f3.toNat * 2 ^ 14 +
    z.toNat * 2 ^ 13 + w.toNat * 2 ^ 12 + rd.val * 2 ^ 7 + 0x0B)

/-- The bits of an R-type word. -/
def rTypeWord (f7 : Nat) (rd rs1 rs2 : RegNum) (opcode : Nat) : Word32 :=
  BitVec.ofNat 32 (f7 * 2 ^ 25 + rs2.val * 2 ^ 20 + rs1.val * 2 ^ 15 + rd.val * 2 ^ 7 + opcode)

/-- The tags of the active and shadow bank once every queued instruction has run (R75). -/
def Core.tagsAfter (k : Core) : Option Nat × Option Nat :=
  k.tqueue.foldl (fun t op =>
    if op.tlw then (t.1, some (fld op.ctl 7 4)) else if op.swap then (t.2, t.1) else t) (k.active.tag, k.shadow.tag)

/-- Whether two byte ranges overlap. -/
def overlaps (a n b m : Nat) : Bool := decide (a < b + m ∧ b < a + n)

/-- The fault of a TMMA at issue (R74), first condition first: (cause, trap value). -/
def Core.tmmaFault (k : Core) (w : Word32) (bad : Bool) (op : TensOp) (hi : Bool) : Option (Nat × Nat) :=
  let af := fld k.tctl 3 0
  let tags := k.tagsAfter
  let tag := if op.swap then tags.2 else tags.1
  let an := (op.m - 1) * k.tastride.toNat + actRow af
  let cn := (op.m - 1) * k.tcstride.toNat + 512
  let mx := isMx af
  if bad || fmtReserved af || !(tag.any fun t => fmtPair af t) then some (2, w.toNat)
  else if hi || decide (op.a % 32 ≠ 0 ∨ op.acc % 32 ≠ 0) || (mx && op.scale % 32 != 0) ||
      decide (k.tcstride.toNat < 512) then some (24, 5)
  else if k.scratch < op.a + an then some (24, 0)
  else if mx && decide (k.scratch < op.scale + op.m) then some (24, 1)
  else if k.scratch < op.acc + cn then some (24, 2)
  else if overlaps op.acc cn op.a an || (mx && overlaps op.acc cn op.scale op.m) then some (24, 6)
  else none

/-- The fault of a TLW at issue (R74). -/
def Core.tlwFault (k : Core) (w : Word32) (op : TensOp) (hi : Bool) : Option (Nat × Nat) :=
  let wf := fld k.tctl 7 4
  let mx := isMx wf
  if fmtReserved wf then some (2, w.toNat)
  else if hi || op.a % 32 != 0 || (mx && op.scale % 32 != 0) then some (24, 5)
  else if k.scratch < op.a + 31 * k.twstride.toNat + weightRow wf then some (24, 3)
  else if mx && decide (k.scratch < op.scale + 128) then some (24, 4)
  else none

/-- Issue a tensor instruction: stalled by a full queue (R76), faulted, or queued. -/
def State.tensIssue (s : State) (c : CoreIx) (rd : RegNum) (op : TensOp) (fault : Option (Nat × Nat)) : State :=
  if 8 ≤ (s.dev.core c).tqueue.length then s.onDev fun d => d.modCore c fun k => { k with stall := .tensQueue }
  else match fault with
    | some (cause, v) => s.trap c (BitVec.ofNat 64 cause) (BitVec.ofNat 64 v)
    | none => s.onDev fun d => d.modCore c fun k => k.tensIssue rd op

/-- TMMA in its four forms (R61, R71, R72, R74). -/
def execTmma (c : CoreIx) (rd rs1 rs2 rs3 : RegNum) (z w : Bool) (funct2 : Fin 4) (f3 : Bool) (s : State) : Ans :=
  .next (s.issue c 4 fun s =>
    let k := s.dev.core c
    let shape := k.getX rs3
    let op : TensOp := { tlw := false, ticket := 0, a := (k.getX rs1).toNat, scale := fld shape 31 10
                         acc := (k.getX rs2).toNat, m := fld shape 8 0 + 1, z := z, swap := w }
    s.tensIssue c rd op (k.tmmaFault (tmmaWord rd rs1 rs2 rs3 z w funct2 f3) (funct2.val != 0 || f3) op
      (decide (2 ^ 22 ≤ op.a ∨ 2 ^ 22 ≤ op.acc))))

/-- TLW (R73, R74). -/
def execTlw (c : CoreIx) (rd rs1 rs2 : RegNum) (s : State) : Ans :=
  .next (s.issue c 4 fun s =>
    let k := s.dev.core c
    let op : TensOp := { tlw := true, ticket := 0, a := (k.getX rs1).toNat, scale := (k.getX rs2).toNat }
    s.tensIssue c rd op (k.tlwFault (rTypeWord 0 rd rs1 rs2 0x2B) op
      (decide (2 ^ 22 ≤ op.a) || (isMx (fld k.tctl 7 4) && decide (2 ^ 22 ≤ op.scale)))))

/-- TWAIT (R73, R88). -/
def execTwait (c : CoreIx) (rd rs1 rs2 : RegNum) (s : State) : Ans :=
  .next (s.issue c 4 fun s =>
    if rd.val ≠ 0 ∨ rs2.val ≠ 0 then s.illegal c (rTypeWord 1 rd rs1 rs2 0x2B)
    else s.onDev fun d => d.tensWait s.now c
      (waitTicket (d.core c).tissued (((d.core c).getX rs1).toNat % 65536)))

/-- TPOLL (R73): never stalls and reports nothing. -/
def execTpoll (c : CoreIx) (rd rs1 rs2 : RegNum) (s : State) : Ans :=
  .next (s.issue c 4 fun s =>
    if rs2.val ≠ 0 then s.illegal c (rTypeWord 2 rd rs1 rs2 0x2B)
    else s.onDev fun d => d.modCore c fun k =>
      (k.setX rd (if ticketDone k.tdone ((k.getX rs1).toNat % 65536) then 1 else 0)).retire)

/-- TFENCE (R73, R88). -/
def execTfence (c : CoreIx) (rd rs1 rs2 : RegNum) (s : State) : Ans :=
  .next (s.issue c 4 fun s =>
    if rd.val ≠ 0 ∨ rs1.val ≠ 0 ∨ rs2.val ≠ 0 then s.illegal c (rTypeWord 3 rd rs1 rs2 0x2B)
    else s.onDev fun d => d.tensWait s.now c none)

/-- TENSOR_TICKET_COMPLETE (R80): the oldest tensor instruction of the core has run. -/
def execTensorTicketComplete (c : CoreIx) (s : State) : Ans :=
  .next (s.when (s.dev.partUp (corePart c)) (s.onDev fun d => d.tensComplete s.now c))

end Sys2Proof.Machine
end

