-- ==== Sys2Proof/Machine/Vector.lean ====
section
/-! DEFINITION. The vector instructions (R119 … R129) and the completion of a vector ticket (R120). -/

namespace Sys2Proof.Machine

/-- Issue a vector instruction: stalled by a full queue (R120), illegal under the reserved rounding mode (R123) or by its
fields, faulted, or queued. -/
def State.vecIssue (s : State) (c : CoreIx) (w : Word32) (bad : Bool) (fault : Option Nat) (act : VecAct) : State :=
  let k := s.dev.core c
  if 16 ≤ k.vqueue.length then s.onDev fun d => d.modCore c fun k => { k with stall := .vecQueue }
  else if bad || fld k.vctl 1 0 == 3 then s.illegal c w
  else match fault with
    | some v => s.trap c 26 (BitVec.ofNat 64 v)
    | none => s.onDev fun d => d.modCore c fun k => k.vecIssue act

/-- An arithmetic instruction of R121; one with a field marked 0 refuses a register there. -/
def State.vecArithIssue (s : State) (c : CoreIx) (f7 : Nat) (fn : VecFn) (unary : Bool) (vd vs1 vs2 : RegNum) : State :=
  s.issue c 4 fun s =>
    s.vecIssue c (rTypeWord f7 vd vs1 vs2 0x5B) (unary && vs2.val != 0) none (.arith fn vd vs1 vs2)

/-- VADD (R121). -/
def execVadd (c : CoreIx) (rd rs1 rs2 : RegNum) (s : State) : Ans := .next (s.vecArithIssue c 0x00 .add false rd rs1 rs2)
/-- VSUB (R121). -/
def execVsub (c : CoreIx) (rd rs1 rs2 : RegNum) (s : State) : Ans := .next (s.vecArithIssue c 0x01 .sub false rd rs1 rs2)
/-- VMUL (R121). -/
def execVmul (c : CoreIx) (rd rs1 rs2 : RegNum) (s : State) : Ans := .next (s.vecArithIssue c 0x02 .mul false rd rs1 rs2)
/-- VFMA (R121). -/
def execVfma (c : CoreIx) (rd rs1 rs2 : RegNum) (s : State) : Ans := .next (s.vecArithIssue c 0x03 .fma false rd rs1 rs2)
/-- VMIN (R121, R124). -/
def execVmin (c : CoreIx) (rd rs1 rs2 : RegNum) (s : State) : Ans := .next (s.vecArithIssue c 0x04 .min false rd rs1 rs2)
/-- VMAX (R121, R124). -/
def execVmax (c : CoreIx) (rd rs1 rs2 : RegNum) (s : State) : Ans := .next (s.vecArithIssue c 0x05 .max false rd rs1 rs2)
/-- VABS (R121). -/
def execVabs (c : CoreIx) (rd rs1 rs2 : RegNum) (s : State) : Ans := .next (s.vecArithIssue c 0x06 .abs true rd rs1 rs2)
/-- VEXP2 (R124). -/
def execVexp2 (c : CoreIx) (rd rs1 rs2 : RegNum) (s : State) : Ans := .next (s.vecArithIssue c 0x08 .exp2 true rd rs1 rs2)
/-- VLOG2 (R124). -/
def execVlog2 (c : CoreIx) (rd rs1 rs2 : RegNum) (s : State) : Ans := .next (s.vecArithIssue c 0x09 .log2 true rd rs1 rs2)
/-- VRCP (R124). -/
def execVrcp (c : CoreIx) (rd rs1 rs2 : RegNum) (s : State) : Ans := .next (s.vecArithIssue c 0x0A .rcp true rd rs1 rs2)
/-- VSQRT (R124). -/
def execVsqrt (c : CoreIx) (rd rs1 rs2 : RegNum) (s : State) : Ans := .next (s.vecArithIssue c 0x0B .sqrt true rd rs1 rs2)
/-- VRSQRT (R124). -/
def execVrsqrt (c : CoreIx) (rd rs1 rs2 : RegNum) (s : State) : Ans := .next (s.vecArithIssue c 0x0C .rsqrt true rd rs1 rs2)
/-- VRSUM (R125). -/
def execVrsum (c : CoreIx) (rd rs1 rs2 : RegNum) (s : State) : Ans := .next (s.vecArithIssue c 0x10 .rsum true rd rs1 rs2)
/-- VRMAX (R121, R124). -/
def execVrmax (c : CoreIx) (rd rs1 rs2 : RegNum) (s : State) : Ans := .next (s.vecArithIssue c 0x11 .rmax true rd rs1 rs2)

/-- VMVS (R121): every lane gets bits [31:0] of an f register. -/
def execVmvs (c : CoreIx) (rd rs1 rs2 : RegNum) (s : State) : Ans :=
  .next (s.issue c 4 fun s =>
    s.vecIssue c (rTypeWord 0x18 rd rs1 rs2 0x5B) (rs2.val != 0) none
      (.splat rd (((s.dev.core c).f.get 0 rs1.val).setWidth 32)))

/-- VEXT (R121, R129): lane 0 once every earlier instruction that writes the register has written; the error of an uncorrectable word
the value depends on is raised instead. -/
def execVext (c : CoreIx) (rd rs1 rs2 : RegNum) (s : State) : Ans :=
  .next (s.issue c 4 fun s =>
    if rs2.val ≠ 0 then s.illegal c (rTypeWord 0x19 rd rs1 rs2 0x5B)
    else s.onDev fun d =>
      let k := d.core c
      if k.vqueue.any fun op => op.act.dest == some rs1 then d.setCore c { k with stall := .vext rs1 }
      else match k.vunrep.find? (fun u => (k.vdep.get [] rs1.val).contains u) with
        | some u => (d.setCore c { k with vunrep := k.vunrep.erase u }).trap s.now c 27 (BitVec.ofNat 64 u)
        | none => d.setCore c (k.setX rd (((k.getV rs1).getD 0 0).setWidth 64)).retire)

/-- VWAIT (R121, R129). -/
def execVwait (c : CoreIx) (rd rs1 rs2 : RegNum) (s : State) : Ans :=
  .next (s.issue c 4 fun s =>
    if rd.val ≠ 0 ∨ rs2.val ≠ 0 then s.illegal c (rTypeWord 0x7D rd rs1 rs2 0x5B)
    else s.onDev fun d => d.vecWait s.now c
      (waitTicket (d.core c).vissued (((d.core c).getX rs1).toNat % 65536)))

/-- VPOLL (R121). -/
def execVpoll (c : CoreIx) (rd rs1 rs2 : RegNum) (s : State) : Ans :=
  .next (s.issue c 4 fun s =>
    if rs2.val ≠ 0 then s.illegal c (rTypeWord 0x7E rd rs1 rs2 0x5B)
    else s.onDev fun d => d.modCore c fun k =>
      (k.setX rd (if ticketDone k.vdone ((k.getX rs1).toNat % 65536) then 1 else 0)).retire)

/-- VFENCE (R121, R129). -/
def execVfence (c : CoreIx) (rd rs1 rs2 : RegNum) (s : State) : Ans :=
  .next (s.issue c 4 fun s =>
    if rd.val ≠ 0 ∨ rs1.val ≠ 0 ∨ rs2.val ≠ 0 then s.illegal c (rTypeWord 0x7F rd rs1 rs2 0x5B)
    else s.onDev fun d => d.vecWait s.now c none)

/-- The bits of a vector load or store (R122). -/
def vmemWord (fmt : Fin 32) (op : Nat) (vreg rs1 rs2 : RegNum) : Word32 :=
  BitVec.ofNat 32 (fmt.val * 2 ^ 27 + op * 2 ^ 25 + rs2.val * 2 ^ 20 + rs1.val * 2 ^ 15 + vreg.val * 2 ^ 7 + 0x7B)

/-- The operand fault of a vector load or store (R123): its reason. -/
def Core.vmemFault (k : Core) (code addr : Nat) (scale : Option Nat) : Option Nat :=
  if addr % 32 ≠ 0 ∨ 2 ^ 22 ≤ addr then some 0
  else if k.scratch < addr + vecBytes code then some 1
  else if scale.any fun a => decide (k.scratch < a + 4) then some 2
  else none

/-- VLD (R122, R123). -/
def execVld (c : CoreIx) (fmt : Fin 32) (vreg rs1 rs2 : RegNum) (s : State) : Ans :=
  .next (s.issue c 4 fun s =>
    let a := ((s.dev.core c).getX rs1).toNat
    s.vecIssue c (vmemWord fmt 0 vreg rs1 rs2) (!vecCode fmt.val || rs2.val != 0)
      ((s.dev.core c).vmemFault fmt.val a none) (.load fmt.val vreg a))

/-- VST (R122, R123, R126). -/
def execVst (c : CoreIx) (fmt : Fin 32) (vreg rs1 rs2 : RegNum) (s : State) : Ans :=
  .next (s.issue c 4 fun s =>
    let a := ((s.dev.core c).getX rs1).toNat
    s.vecIssue c (vmemWord fmt 1 vreg rs1 rs2) (!vecCode fmt.val || rs2.val != 0)
      ((s.dev.core c).vmemFault fmt.val a none) (.store fmt.val vreg a))

/-- VSTX (R122, R123, R127). -/
def execVstx (c : CoreIx) (fmt : Fin 32) (vreg rs1 rs2 : RegNum) (s : State) : Ans :=
  .next (s.issue c 4 fun s =>
    let a := ((s.dev.core c).getX rs1).toNat
    let x := ((s.dev.core c).getX rs2).toNat
    s.vecIssue c (vmemWord fmt 2 vreg rs1 rs2) (!isMx fmt.val)
      ((s.dev.core c).vmemFault fmt.val a (some x)) (.storeMx fmt.val vreg a x))

/-- VECTOR_TICKET_COMPLETE (R120): the oldest vector instruction of the core has run. -/
def execVectorTicketComplete (c : CoreIx) (s : State) : Ans :=
  .next (s.when (s.dev.partUp (corePart c)) (s.onDev fun d => d.vecComplete s.now c))

/-- VEC_SEED_WRITE (R119): a write of 0 stores 1. The generator's state runs on only with stochastic stores. -/
def execVecSeedWrite (c : CoreIx) (v : Word) (s : State) : Ans :=
  .next (s.issue c 4 fun s => s.onDev fun d => d.modCore c fun k =>
    { k.retire with vseed := if fld v 31 0 = 0 then 1 else fld v 31 0 })

end Sys2Proof.Machine
end

