-- ==== Sys2Proof/Machine/Cpu.lean ====
section
/-! DEFINITION. An instruction of a control processor by its bits (R59, R73, R92, R121, R122, R287, R394): tensor, vector and
mailbox forms are those of their own rows, everything else is a base instruction. -/

namespace Sys2Proof.Machine

/-- An instruction with a reserved field. -/
def State.reserved (s : State) (c : CoreIx) (w : Word32) : State := s.issue c 4 fun s => s.illegal c w

/-- Custom-0 and custom-1 (R71, R73). -/
def State.tensorOp (s : State) (c : CoreIx) (w : Word32) : Ans :=
  let n := w.toNat
  let rd := regAt n 7
  let a := regAt n 15
  let b := regAt n 20
  if nbits n 6 0 = 0x0B then
    execTmma c rd a b (regAt n 27) (n.testBit 13) (n.testBit 12) (Fin.ofNat 4 (nbits n 26 25)) (n.testBit 14) s
  else if nbits n 14 12 ≠ 0 then .next (s.reserved c w)
  else match nbits n 31 25 with
    | 0 => execTlw c rd a b s
    | 1 => execTwait c rd a b s
    | 2 => execTpoll c rd a b s
    | 3 => execTfence c rd a b s
    | _ => .next (s.reserved c w)

/-- Custom-2 (R121). -/
def State.vectorOp (s : State) (c : CoreIx) (w : Word32) : Ans :=
  let n := w.toNat
  let rd := regAt n 7
  let a := regAt n 15
  let b := regAt n 20
  if nbits n 14 12 ≠ 0 then .next (s.reserved c w)
  else match nbits n 31 25 with
    | 0x00 => execVadd c rd a b s
    | 0x01 => execVsub c rd a b s
    | 0x02 => execVmul c rd a b s
    | 0x03 => execVfma c rd a b s
    | 0x04 => execVmin c rd a b s
    | 0x05 => execVmax c rd a b s
    | 0x06 => execVabs c rd a b s
    | 0x08 => execVexp2 c rd a b s
    | 0x09 => execVlog2 c rd a b s
    | 0x0A => execVrcp c rd a b s
    | 0x0B => execVsqrt c rd a b s
    | 0x0C => execVrsqrt c rd a b s
    | 0x10 => execVrsum c rd a b s
    | 0x11 => execVrmax c rd a b s
    | 0x18 => execVmvs c rd a b s
    | 0x19 => execVext c rd a b s
    | 0x7D => execVwait c rd a b s
    | 0x7E => execVpoll c rd a b s
    | 0x7F => execVfence c rd a b s
    | _ => .next (s.reserved c w)

/-- Custom-3 (R122). -/
def State.vmemOp (s : State) (c : CoreIx) (w : Word32) : Ans :=
  let n := w.toNat
  let fmt : Fin 32 := Fin.ofNat 32 (nbits n 31 27)
  let v := regAt n 7
  let a := regAt n 15
  let b := regAt n 20
  if nbits n 14 12 ≠ 0 then .next (s.reserved c w)
  else match nbits n 26 25 with
    | 0 => execVld c fmt v a b s
    | 1 => execVst c fmt v a b s
    | 2 => execVstx c fmt v a b s
    | _ => .next (s.reserved c w)

/-- A CSR instruction: the mailbox and dictionary operations take one form only (R287, R394). -/
def State.csrInstr (s : State) (c : CoreIx) (f3 : Nat) (rd rs1 : RegNum) (addr : Nat) (w : Word32) : Ans :=
  let v := (s.dev.core c).getX rs1
  if addr = 0x840 ∨ addr = 0x841 ∨ addr = 0x842 ∨ addr = 0x850 then
    if f3 ≠ 1 ∨ rs1.val = 0 then .next (s.reserved c w)
    else if addr = 0x840 then execMbxSend c rd v s
    else if addr = 0x841 then execMbxRecv c rd v s
    else if addr = 0x842 then execMbxStat c rd v s
    else execDictRd c rd rs1 s
  else .next (s.runBase c w .none)

/-- INSTRUCTION (R92): one instruction of a core, by its bits. -/
def execInstruction (c : CoreIx) (w : Word32) (s : State) : Ans :=
  match decodeOf w with
  | .tensor => s.tensorOp c w
  | .vector => s.vectorOp c w
  | .vmem => s.vmemOp c w
  | .csr f3 rd rs1 addr => s.csrInstr c f3 rd rs1 addr w
  | _ => .next (s.runBase c w .none)

end Sys2Proof.Machine
end

