-- ==== Sys2Proof/Machine/Timing.lean ====
section
/-! DEFINITION. Device time (R50 … R57, R328): the reference and the fall-back oscillator, synchronisation in a pod,
TIMING_RATE. -/

namespace Sys2Proof.Machine

/-- REF_LOSS_SWITCH (R52): device time goes on from the fall-back oscillator, at most 10 ns further by a free value. -/
def execRefLossSwitch (s : State) : Ans :=
  .next (s.when (s.dev.powered && !bit (s.dev.reg .timingStatus) 3)
    (let s : State := { s with clk := { s.clk with ps := s.clk.ps + s.dev.free.toNat % 10001 } }
     let s := s.onDev fun d => d.spend.modReg .timingStatus fun w => setBit (setBit w 2 true) 3 true
     s.record .refLost 0 0 (idHub s.dev.devId)))

/-- REF_RETURN (R53): the hub returns to the reference; the difference that built up, in ns, is slewed away. -/
def execRefReturn (diff : Int) (s : State) : Ans :=
  .next (s.when (s.dev.powered && bit (s.dev.reg .timingStatus) 3)
    (let s : State := { s with clk := { s.clk with refSlew := s.clk.refSlew + 1000 * diff } }
     s.onDev fun d => d.modReg .timingStatus fun w => setBit w 3 false))

/-- A TIME flit through a port (R300); its times are put in as it crosses the SerDes (R328). -/
def State.sendTime (s : State) (n : PortIx) : State := s.onDev fun d => d.manage n 0x11 []

/-- This device is the time master (R54, R57): HOPS 0, SYNC set. -/
def Dev.timeMaster (d : Dev) : Dev :=
  { d with parent := none, master := none }.modReg .timingStatus fun w => setBit (setFld w 47 32 0) 4 true

/-- TIME_EXCHANGE (R54): a TIME flit to the parent; a device that has none is the master. -/
def execTimeExchange (s : State) : Ans :=
  .next (match s.dev.parent with
    | some n => s.sendTime n
    | none => s.when s.dev.hubUp (s.onDev Dev.timeMaster))

/-- OFFSET and HOPS of TIMING_STATUS after a measurement, with SYNC set and HOLDOVER clear. -/
def Dev.timeSynced (d : Dev) (offset : Int) (hops : Nat) : Dev :=
  d.modReg .timingStatus fun w =>
    setBit (setBit (setFld (setFld w 31 16 (unint 16 (clampI (-32767) 32767 offset))) 47 32 hops) 4 true) 5 false

/-- A measured offset to the parent, in ns (R54, R55): the first since a cold boot or a warm reset is stepped, once, and
journalled; later ones are slewed away. -/
def State.timeCorrect (s : State) (offset : Int) (hops : Nat) : State :=
  let old := s.now
  if s.dev.locked then
    ({ s with clk := { s.clk with slew := 1000 * offset } } : State).onDev fun d => d.timeSynced offset hops
  else
    let s : State := { s with clk := { s.clk with ps := ((s.clk.ps : Int) + 1000 * offset).toNat, slew := 0 } }
    let s := s.onDev fun d =>
      ({ d with locked := true, timeCopy := [] }.timeSynced offset hops).modReg .timingStatus fun w => setBit w 7 true
    s.journalSelf 0x2700 0xF0 old s.now

/-- The election (R54): a port that leads to a device with a lower serial number than the master of now, this device itself
where there is none, becomes the way to the parent. -/
def State.elect (s : State) (n : PortIx) (hops : Nat) (master : Word) : State :=
  let best := s.dev.master.getD s.nv.part.serial
  s.when (decide (hops < 0xFFFF) && decide (master.toNat < best.toNat))
    (s.onDev fun d => { d with parent := some n, master := some master })

/-- TIME_FLIT_RECEIVE (R54, R300, R328). `path` leads to the lowest serial number
reachable through this port, or to no master: from there the flit is answered. From the parent it is an
answer, and the offset is measured from the times at which its flits crossed the SerDes, fibre delay taken as symmetric. -/
def execTimeFlitReceive (n : PortIx) (path : TimePath) (s : State) : Ans :=
  let came := (s.dev.port n).oldestCame 3
  .next (s.withMsg n 3 (fun m => m.op == 0x11) fun m s =>
    let t1 := ofLe (m.data.take 8)
    let t2 := ofLe ((m.data.drop 8).take 8)
    let t3 := ofLe ((m.data.drop 16).take 8)
    let s := s.elect n path.hops path.master
    if s.dev.parent = some n then
      if t3 = 0 then s else s.timeCorrect ((((t2 : Int) - t3) + ((t1 : Int) - came)) / 2) (min path.hops 0xFFFF)
    else s.sendTime n)

/-- PARENT_LOST (R56): frequency is held, the next path and its master are those the election names; none makes this device the
master. -/
def execParentLost (path : Option (PortIx × Word)) (s : State) : Ans :=
  .next (s.when s.dev.parent.isSome
    (let s : State := { s with clk := { s.clk with slew := 0 } }
     let s := s.onDev fun d => ({ d with parent := path.map Prod.fst, master := path.map Prod.snd }).modReg .timingStatus fun w =>
       setBit (setBit (setFld w 47 32 (if path.isNone then 0 else 0xFFFF)) 4 path.isNone) 5 true
     s.record .timeHoldover 0 0 (idHub s.dev.devId)))

/-- TIMING_RATE_READ (R43): MAX_MHZ returns to 0 and MIN_MHZ to 0xFFFF. -/
def execTimingRateRead (o : Origin) (p : PartIx) (s : State) : Ans :=
  .next (s.readClear o (.timingRate p) (s.dev.reg (.timingRate p)))

end Sys2Proof.Machine
end

