-- ==== Sys2Proof/Machine/Dispatch.lean ====
section
/-! DEFINITION. The effect of a command: one arm per row of the opcode table. -/

namespace Sys2Proof.Machine

/-- The effect of a command on everything but the queue. -/
def exec (i : Instr) (s : State) : Host.Outcome State Fault Refusal :=
  match i with
  | .powerGood e => Sys2Proof.Machine.execPowerGood e s
  | .powerFail => Sys2Proof.Machine.execPowerFail s
  | .resetNAssert e => Sys2Proof.Machine.execResetNAssert e s
  | .coreReset r c => Sys2Proof.Machine.execCoreReset r c s
  | .clusterReset o k b => Sys2Proof.Machine.execClusterReset o k b s
  | .partitionReset o p b => Sys2Proof.Machine.execPartitionReset o p b s
  | .warmDeviceReset o e => Sys2Proof.Machine.execWarmDeviceReset o e s
  | .strtCmdBadcmd o v => Sys2Proof.Machine.execStrtCmdBadcmd o v s
  | .functionLevelReset fn => Sys2Proof.Machine.execFunctionLevelReset fn s
  | .pcieFundamentalReset => Sys2Proof.Machine.execPcieFundamentalReset s
  | .refLossSwitch => Sys2Proof.Machine.execRefLossSwitch s
  | .refReturn diff => Sys2Proof.Machine.execRefReturn diff s
  | .timeExchange => Sys2Proof.Machine.execTimeExchange s
  | .timeFlitReceive n hops => Sys2Proof.Machine.execTimeFlitReceive n hops s
  | .parentLost path => Sys2Proof.Machine.execParentLost path s
  | .timingRateRead o p => Sys2Proof.Machine.execTimingRateRead o p s
  | .registerWrite o off v => Sys2Proof.Machine.execRegisterWrite o off v s
  | .mapFarwinWrite o v => Sys2Proof.Machine.execMapFarwinWrite o v s
  | .hostB2mapWrite o z v => Sys2Proof.Machine.execHostB2mapWrite o z v s
  | .tmma c rd rs1 rs2 rs3 z w funct2 f3 => Sys2Proof.Machine.execTmma c rd rs1 rs2 rs3 z w funct2 f3 s
  | .tlw c rd rs1 rs2 => Sys2Proof.Machine.execTlw c rd rs1 rs2 s
  | .twait c rd rs1 rs2 => Sys2Proof.Machine.execTwait c rd rs1 rs2 s
  | .tpoll c rd rs1 rs2 => Sys2Proof.Machine.execTpoll c rd rs1 rs2 s
  | .tfence c rd rs1 rs2 => Sys2Proof.Machine.execTfence c rd rs1 rs2 s
  | .tensorTicketComplete c => Sys2Proof.Machine.execTensorTicketComplete c s
  | .vadd c rd rs1 rs2 => Sys2Proof.Machine.execVadd c rd rs1 rs2 s
  | .vsub c rd rs1 rs2 => Sys2Proof.Machine.execVsub c rd rs1 rs2 s
  | .vmul c rd rs1 rs2 => Sys2Proof.Machine.execVmul c rd rs1 rs2 s
  | .vfma c rd rs1 rs2 => Sys2Proof.Machine.execVfma c rd rs1 rs2 s
  | .vmin c rd rs1 rs2 => Sys2Proof.Machine.execVmin c rd rs1 rs2 s
  | .vmax c rd rs1 rs2 => Sys2Proof.Machine.execVmax c rd rs1 rs2 s
  | .vabs c rd rs1 rs2 => Sys2Proof.Machine.execVabs c rd rs1 rs2 s
  | .vexp2 c rd rs1 rs2 => Sys2Proof.Machine.execVexp2 c rd rs1 rs2 s
  | .vlog2 c rd rs1 rs2 => Sys2Proof.Machine.execVlog2 c rd rs1 rs2 s
  | .vrcp c rd rs1 rs2 => Sys2Proof.Machine.execVrcp c rd rs1 rs2 s
  | .vsqrt c rd rs1 rs2 => Sys2Proof.Machine.execVsqrt c rd rs1 rs2 s
  | .vrsqrt c rd rs1 rs2 => Sys2Proof.Machine.execVrsqrt c rd rs1 rs2 s
  | .vrsum c rd rs1 rs2 => Sys2Proof.Machine.execVrsum c rd rs1 rs2 s
  | .vrmax c rd rs1 rs2 => Sys2Proof.Machine.execVrmax c rd rs1 rs2 s
  | .vmvs c rd rs1 rs2 => Sys2Proof.Machine.execVmvs c rd rs1 rs2 s
  | .vext c rd rs1 rs2 => Sys2Proof.Machine.execVext c rd rs1 rs2 s
  | .vwait c rd rs1 rs2 => Sys2Proof.Machine.execVwait c rd rs1 rs2 s
  | .vpoll c rd rs1 rs2 => Sys2Proof.Machine.execVpoll c rd rs1 rs2 s
  | .vfence c rd rs1 rs2 => Sys2Proof.Machine.execVfence c rd rs1 rs2 s
  | .vld c fmt vreg rs1 rs2 => Sys2Proof.Machine.execVld c fmt vreg rs1 rs2 s
  | .vst c fmt vreg rs1 rs2 => Sys2Proof.Machine.execVst c fmt vreg rs1 rs2 s
  | .vstx c fmt vreg rs1 rs2 => Sys2Proof.Machine.execVstx c fmt vreg rs1 rs2 s
  | .vectorTicketComplete c => Sys2Proof.Machine.execVectorTicketComplete c s
  | .vecSeedWrite c v => Sys2Proof.Machine.execVecSeedWrite c v s
  | .instruction c w => Sys2Proof.Machine.execInstruction c w s
  | .load c w u => Sys2Proof.Machine.execLoad c w u s
  | .store c w => Sys2Proof.Machine.execStore c w s
  | .amo c w u => Sys2Proof.Machine.execAmo c w u s
  | .lr c w u => Sys2Proof.Machine.execLr c w u s
  | .sc c w => Sys2Proof.Machine.execSc c w s
  | .reservationTimeout c => Sys2Proof.Machine.execReservationTimeout c s
  | .fence c w => Sys2Proof.Machine.execFence c w s
  | .fenceI c w => Sys2Proof.Machine.execFenceI c w s
  | .environmentCall c => Sys2Proof.Machine.execEnvironmentCall c s
  | .memoryResponse id => Sys2Proof.Machine.execMemoryResponse id s
  | .interruptTake c => Sys2Proof.Machine.execInterruptTake c s
  | .timecmpMatch c => Sys2Proof.Machine.execTimecmpMatch c s
  | .taskAssign c => Sys2Proof.Machine.execTaskAssign c s
  | .taskSubmit z p q => Sys2Proof.Machine.execTaskSubmit z p q s
  | .bufferSlotResolve h => Sys2Proof.Machine.execBufferSlotResolve h s
  | .allocWaitTimeout h => Sys2Proof.Machine.execAllocWaitTimeout h s
  | .taskEndStore c v => Sys2Proof.Machine.execTaskEndStore c v s
  | .taskEndEffective c => Sys2Proof.Machine.execTaskEndEffective c s
  | .fwdEndSweep o p => Sys2Proof.Machine.execFwdEndSweep o p s
  | .stepEndSweep o p => Sys2Proof.Machine.execStepEndSweep o p s
  | .queueResume o p q => Sys2Proof.Machine.execQueueResume o p q s
  | .queueFlush o p q => Sys2Proof.Machine.execQueueFlush o p q s
  | .queueAbort o p q => Sys2Proof.Machine.execQueueAbort o p q s
  | .abortTimeout c => Sys2Proof.Machine.execAbortTimeout c s
  | .queueConfigWrite o p q v => Sys2Proof.Machine.execQueueConfigWrite o p q v s
  | .resRootWrite o a v => Sys2Proof.Machine.execResRootWrite o a v s
  | .allocatorEnable o p v => Sys2Proof.Machine.execAllocatorEnable o p v s
  | .allocatorConfigWrite o p j1 v => Sys2Proof.Machine.execAllocatorConfigWrite o p j1 v s
  | .pagerPoolWrite o p v => Sys2Proof.Machine.execPagerPoolWrite o p v s
  | .translationMiss r va acc => Sys2Proof.Machine.execTranslationMiss r va acc s
  | .tableWalkResponse k u => Sys2Proof.Machine.execTableWalkResponse k u s
  | .invalidate o v => Sys2Proof.Machine.execInvalidate o v s
  | .invalidateDone => Sys2Proof.Machine.execInvalidateDone s
  | .demandFault r va acc => Sys2Proof.Machine.execDemandFault r va acc s
  | .pageMoveStart p => Sys2Proof.Machine.execPageMoveStart p s
  | .pageCopyDone p j1 farErr => Sys2Proof.Machine.execPageCopyDone p j1 farErr s
  | .hintSubmit z p => Sys2Proof.Machine.execHintSubmit z p s
  | .hintPrefetch p => Sys2Proof.Machine.execHintPrefetch p s
  | .hintEvict p => Sys2Proof.Machine.execHintEvict p s
  | .hintPrefetchPin p => Sys2Proof.Machine.execHintPrefetchPin p s
  | .hintUnpin p => Sys2Proof.Machine.execHintUnpin p s
  | .dmaStart c n chain => Sys2Proof.Machine.execDmaStart c n chain s
  | .dmaResume c n => Sys2Proof.Machine.execDmaResume c n s
  | .dmaAbandon c n => Sys2Proof.Machine.execDmaAbandon c n s
  | .dmaDescriptorBegin c n => Sys2Proof.Machine.execDmaDescriptorBegin c n s
  | .dmaCopy c n => Sys2Proof.Machine.execDmaCopy c n s
  | .dmaTr8 c n => Sys2Proof.Machine.execDmaTr8 c n s
  | .dmaTr16 c n => Sys2Proof.Machine.execDmaTr16 c n s
  | .dmaTr32 c n => Sys2Proof.Machine.execDmaTr32 c n s
  | .dmaFill c n => Sys2Proof.Machine.execDmaFill c n s
  | .dmaAdd c n => Sys2Proof.Machine.execDmaAdd c n s
  | .dmaDescriptorComplete c n => Sys2Proof.Machine.execDmaDescriptorComplete c n s
  | .sliceRequest id u => Sys2Proof.Machine.execSliceRequest id u s
  | .dramResponse id u => Sys2Proof.Machine.execDramResponse id u s
  | .writebackAck p ch => Sys2Proof.Machine.execWritebackAck p ch s
  | .adderOperation id u => Sys2Proof.Machine.execAdderOperation id u s
  | .sliceCfgWrite o p v => Sys2Proof.Machine.execSliceCfgWrite o p v s
  | .liveWrite o p j1 v => Sys2Proof.Machine.execLiveWrite o p j1 v s
  | .refreshDue p ch layer bank busy => Sys2Proof.Machine.execRefreshDue p ch layer bank busy s
  | .scrubRead p ch u => Sys2Proof.Machine.execScrubRead p ch u s
  | .lapOverdue p => Sys2Proof.Machine.execLapOverdue p s
  | .remapCopyDone p ch => Sys2Proof.Machine.execRemapCopyDone p ch s
  | .couplingBeatReceive p unit lane payload check => Sys2Proof.Machine.execCouplingBeatReceive p unit lane payload check s
  | .periodicTestSlot p t => Sys2Proof.Machine.execPeriodicTestSlot p t s
  | .confirmTest p t => Sys2Proof.Machine.execConfirmTest p t s
  | .stackRetrain o p ch => Sys2Proof.Machine.execStackRetrain o p ch s
  | .pllLockLoss p ch layer => Sys2Proof.Machine.execPllLockLoss p ch layer s
  | .channelRetrainEnd p ch holdUs => Sys2Proof.Machine.execChannelRetrainEnd p ch holdUs s
  | .retrainHoldTimeout p ch => Sys2Proof.Machine.execRetrainHoldTimeout p ch s
  | .stackOfflineWrite o p ch v => Sys2Proof.Machine.execStackOfflineWrite o p ch v s
  | .marginSweepStart o p v => Sys2Proof.Machine.execMarginSweepStart o p v s
  | .marginSweepDone p points => Sys2Proof.Machine.execMarginSweepDone p points s
  | .stackChstatRead o p ch => Sys2Proof.Machine.execStackChstatRead o p ch s
  | .resPstatRead o p => Sys2Proof.Machine.execResPstatRead o p s
  | .resQstatRead o p q => Sys2Proof.Machine.execResQstatRead o p q s
  | .trainWrite o ls v => Sys2Proof.Machine.execTrainWrite o ls v s
  | .anchorStart z p => Sys2Proof.Machine.execAnchorStart z p s
  | .anchorAbandon o p => Sys2Proof.Machine.execAnchorAbandon o p s
  | .anchorResolveClean o p v => Sys2Proof.Machine.execAnchorResolveClean o p v s
  | .anchorResolveSkip o p v => Sys2Proof.Machine.execAnchorResolveSkip o p v s
  | .anchCmdBadcmd o p v => Sys2Proof.Machine.execAnchCmdBadcmd o p v s
  | .anchCtlWrite o p v => Sys2Proof.Machine.execAnchCtlWrite o p v s
  | .anchConfigWrite o p off v => Sys2Proof.Machine.execAnchConfigWrite o p off v s
  | .relayArmed p => Sys2Proof.Machine.execRelayArmed p s
  | .relayContribution p addr op fmt data => Sys2Proof.Machine.execRelayContribution p addr op fmt data s
  | .ruleFolded p rule => Sys2Proof.Machine.execRuleFolded p rule s
  | .foldTimeout p => Sys2Proof.Machine.execFoldTimeout p s
  | .voteClean => Sys2Proof.Machine.execVoteClean s
  | .voteSkip => Sys2Proof.Machine.execVoteSkip s
  | .voteLost => Sys2Proof.Machine.execVoteLost s
  | .voteTimeout p => Sys2Proof.Machine.execVoteTimeout p s
  | .applyDone p => Sys2Proof.Machine.execApplyDone p s
  | .anchStatRead o p => Sys2Proof.Machine.execAnchStatRead o p s
  | .anchClampRead o p => Sys2Proof.Machine.execAnchClampRead o p s
  | .arrive a h arg => Sys2Proof.Machine.execArrive a h arg s
  | .wait a h g => Sys2Proof.Machine.execWait a h g s
  | .peek a h => Sys2Proof.Machine.execPeek a h s
  | .join a h => Sys2Proof.Machine.execJoin a h s
  | .acquire a h n => Sys2Proof.Machine.execAcquire a h n s
  | .notify a h g => Sys2Proof.Machine.execNotify a h g s
  | .arm a h => Sys2Proof.Machine.execArm a h s
  | .config a h => Sys2Proof.Machine.execConfig a h s
  | .fail a h => Sys2Proof.Machine.execFail a h s
  | .hrdHopReserved o v => Sys2Proof.Machine.execHrdHopReserved o v s
  | .hrdEventRead c rd => Sys2Proof.Machine.execHrdEventRead c rd s
  | .hrdCfgWrite o h v => Sys2Proof.Machine.execHrdCfgWrite o h v s
  | .spanEntryWrite o z half v => Sys2Proof.Machine.execSpanEntryWrite o z half v s
  | .spanArrival n => Sys2Proof.Machine.execSpanArrival n s
  | .spanFailureReport n => Sys2Proof.Machine.execSpanFailureReport n s
  | .spanRelease n => Sys2Proof.Machine.execSpanRelease n s
  | .spanFailureDecision n => Sys2Proof.Machine.execSpanFailureDecision n s
  | .mbxSend c rd v => Sys2Proof.Machine.execMbxSend c rd v s
  | .mbxRecv c rd v => Sys2Proof.Machine.execMbxRecv c rd v s
  | .mbxStat c rd v => Sys2Proof.Machine.execMbxStat c rd v s
  | .mbxDbWrite c v => Sys2Proof.Machine.execMbxDbWrite c v s
  | .mbxMaskWrite c v => Sys2Proof.Machine.execMbxMaskWrite c v s
  | .hostMailboxPost fn k ch w7 => Sys2Proof.Machine.execHostMailboxPost fn k ch w7 s
  | .hostMailboxTake o k ch => Sys2Proof.Machine.execHostMailboxTake o k ch s
  | .mbxBindWrite o n ch v => Sys2Proof.Machine.execMbxBindWrite o n ch v s
  | .mbxChRead o n ch => Sys2Proof.Machine.execMbxChRead o n ch s
  | .flitReceive n f k => Sys2Proof.Machine.execFlitReceive n f k s
  | .flitTransmit n => Sys2Proof.Machine.execFlitTransmit n s
  | .nakRepeatTimeout n => Sys2Proof.Machine.execNakRepeatTimeout n s
  | .replayTimeout n => Sys2Proof.Machine.execReplayTimeout n s
  | .vcSaturation n vc => Sys2Proof.Machine.execVcSaturation n vc s
  | .remoteRead n u => Sys2Proof.Machine.execRemoteRead n u s
  | .remoteWrite n => Sys2Proof.Machine.execRemoteWrite n s
  | .remoteAdd n u => Sys2Proof.Machine.execRemoteAdd n u s
  | .remoteAmo n u => Sys2Proof.Machine.execRemoteAmo n u s
  | .remoteMbxPost n => Sys2Proof.Machine.execRemoteMbxPost n s
  | .remoteMbxStat n => Sys2Proof.Machine.execRemoteMbxStat n s
  | .remoteResponse n => Sys2Proof.Machine.execRemoteResponse n s
  | .remoteRequestTimeout tag => Sys2Proof.Machine.execRemoteRequestTimeout tag s
  | .noticeReceive n => Sys2Proof.Machine.execNoticeReceive n s
  | .dictFlitRead n => Sys2Proof.Machine.execDictFlitRead n s
  | .dictFlitAnswer n => Sys2Proof.Machine.execDictFlitAnswer n s
  | .swapReq n => Sys2Proof.Machine.execSwapReq n s
  | .swapAck n => Sys2Proof.Machine.execSwapAck n s
  | .retrainReq n => Sys2Proof.Machine.execRetrainReq n s
  | .keyUpdate n => Sys2Proof.Machine.execKeyUpdate n s
  | .trainingTurn n => Sys2Proof.Machine.execTrainingTurn n s
  | .turnTimeout n light => Sys2Proof.Machine.execTurnTimeout n light s
  | .absentRetry n => Sys2Proof.Machine.execAbsentRetry n s
  | .authHello n h => Sys2Proof.Machine.execAuthHello n h s
  | .authCert n k => Sys2Proof.Machine.execAuthCert n k s
  | .authVerify n sigOk => Sys2Proof.Machine.execAuthVerify n sigOk s
  | .authFinished n tagOk req rsp red => Sys2Proof.Machine.execAuthFinished n tagOk req rsp red s
  | .trainingComplete n => Sys2Proof.Machine.execTrainingComplete n s
  | .trainingFailure n => Sys2Proof.Machine.execTrainingFailure n s
  | .loopbackTestDone n pass => Sys2Proof.Machine.execLoopbackTestDone n pass s
  | .downRetry n => Sys2Proof.Machine.execDownRetry n s
  | .codewordLockLoss n => Sys2Proof.Machine.execCodewordLockLoss n s
  | .linkRetrainCmd o n => Sys2Proof.Machine.execLinkRetrainCmd o n s
  | .linkSwapCmd o n => Sys2Proof.Machine.execLinkSwapCmd o n s
  | .linkReleaseCmd o n => Sys2Proof.Machine.execLinkReleaseCmd o n s
  | .linkLooptestCmd o n => Sys2Proof.Machine.execLinkLooptestCmd o n s
  | .linkPcmdBadcmd o n v => Sys2Proof.Machine.execLinkPcmdBadcmd o n v s
  | .portConfigWrite o n v => Sys2Proof.Machine.execPortConfigWrite o n v s
  | .devidWrite o v => Sys2Proof.Machine.execDevidWrite o v s
  | .vcbufWrite o n v => Sys2Proof.Machine.execVcbufWrite o n v s
  | .windowWrite o w half v => Sys2Proof.Machine.execWindowWrite o w half v s
  | .slotWrite o z v => Sys2Proof.Machine.execSlotWrite o z v s
  | .linkPerrRead o n => Sys2Proof.Machine.execLinkPerrRead o n s
  | .linkPfecRead o n => Sys2Proof.Machine.execLinkPfecRead o n s
  | .errStatWrite o z v => Sys2Proof.Machine.execErrStatWrite o z v s
  | .errClrcnt o z => Sys2Proof.Machine.execErrClrcnt o z s
  | .emcyTransmit => Sys2Proof.Machine.execEmcyTransmit s
  | .replacementEvent => Sys2Proof.Machine.execReplacementEvent s
  | .pacerInterval a => Sys2Proof.Machine.execPacerInterval a s
  | .allowanceReached p => Sys2Proof.Machine.execAllowanceReached p s
  | .vidFrame p => Sys2Proof.Machine.execVidFrame p s
  | .droopDetect k mv => Sys2Proof.Machine.execDroopDetect k mv s
  | .droopRecover k mv => Sys2Proof.Machine.execDroopRecover k mv s
  | .guardUpdate p v0 => Sys2Proof.Machine.execGuardUpdate p v0 s
  | .diodeSample l => Sys2Proof.Machine.execDiodeSample l s
  | .thermistorSample l => Sys2Proof.Machine.execThermistorSample l s
  | .dramSensorSample l hub => Sys2Proof.Machine.execDramSensorSample l hub s
  | .thermalControl => Sys2Proof.Machine.execThermalControl s
  | .oscillatorCompensation => Sys2Proof.Machine.execOscillatorCompensation s
  | .paceGstatRead o => Sys2Proof.Machine.execPaceGstatRead o s
  | .pacePstatRead o p => Sys2Proof.Machine.execPacePstatRead o p s
  | .usdoUpload client index sub => Sys2Proof.Machine.execUsdoUpload client index sub s
  | .usdoDownload client index sub data size => Sys2Proof.Machine.execUsdoDownload client index sub data size s
  | .usdoSegment client data => Sys2Proof.Machine.execUsdoSegment client data s
  | .usdoTimeout client => Sys2Proof.Machine.execUsdoTimeout client s
  | .nmtStart => Sys2Proof.Machine.execNmtStart s
  | .nmtStop => Sys2Proof.Machine.execNmtStop s
  | .nmtEnterPreoperational => Sys2Proof.Machine.execNmtEnterPreoperational s
  | .nmtResetNode e => Sys2Proof.Machine.execNmtResetNode e s
  | .nmtResetCommunication => Sys2Proof.Machine.execNmtResetCommunication s
  | .heartbeat => Sys2Proof.Machine.execHeartbeat s
  | .tpdoTransmit j => Sys2Proof.Machine.execTpdoTransmit j s
  | .rpdoReceive j1 data => Sys2Proof.Machine.execRpdoReceive j1 data s
  | .dictRead ch => Sys2Proof.Machine.execDictRead ch s
  | .dictWrite ch => Sys2Proof.Machine.execDictWrite ch s
  | .dictReadSegment ch => Sys2Proof.Machine.execDictReadSegment ch s
  | .dictRd c rd rs1 => Sys2Proof.Machine.execDictRd c rd rs1 s
  | .storeParameters d => Sys2Proof.Machine.execStoreParameters d s
  | .restoreDefaults d => Sys2Proof.Machine.execRestoreDefaults d s
  | .journalFlush => Sys2Proof.Machine.execJournalFlush s
  | .autoPersist => Sys2Proof.Machine.execAutoPersist s
  | .journalRead d => Sys2Proof.Machine.execJournalRead d s
  | .journalSignedHead d => Sys2Proof.Machine.execJournalSignedHead d s
  | .bar2Read x len => Sys2Proof.Machine.execBar2Read x len s
  | .bar2Write x data poisoned => Sys2Proof.Machine.execBar2Write x data poisoned s
  | .bar0DeniedWrite o off v => Sys2Proof.Machine.execBar0DeniedWrite o off v s
  | .hostStatRead o => Sys2Proof.Machine.execHostStatRead o s
  | .farEnable o v => Sys2Proof.Machine.execFarEnable o v s
  | .farDecWrite o d v => Sys2Proof.Machine.execFarDecWrite o d v s
  | .cxlPortEvent q down => Sys2Proof.Machine.execCxlPortEvent q down s
  | .vaultCommit o => Sys2Proof.Machine.execVaultCommit o s
  | .vaultClear o => Sys2Proof.Machine.execVaultClear o s
  | .vaultBadcmd o v => Sys2Proof.Machine.execVaultBadcmd o v s
  | .vaultCommitDone flashOk => Sys2Proof.Machine.execVaultCommitDone flashOk s
  | .relayEntryConsumed p j1 => Sys2Proof.Machine.execRelayEntryConsumed p j1 s
  | .meshOrChannelSaturated z => Sys2Proof.Machine.execMeshOrChannelSaturated z s
  | .cxlPortRetrained q => Sys2Proof.Machine.execCxlPortRetrained q s
  | .pcieAerUncorrectable fn bit => Sys2Proof.Machine.execPcieAerUncorrectable fn bit s
  | .wavelengthCalibration n start => Sys2Proof.Machine.execWavelengthCalibration n start s

end Sys2Proof.Machine
end

