-- ==== Sys2Proof/Machine/Tick.lean ====
section
/-! DEFINITION. What happens on an empty queue: device time advances (R50), resets make their next step, host accesses that
waited are made (log entry 5). -/

namespace Sys2Proof.Machine

/-- A reference edge: device time has advanced by 10 ns, less or more by what slewing removes, at most 500 ppm for both
corrections together (R50, R54, R55). -/
def Clock.edge (c : Clock) : Clock :=
  let r := clampI (-5) 5 c.refSlew
  let k := clampI (-5) 5 (r + c.slew)
  { ps := (10000 + k + (c.ps : Int)).toNat, sub := 0, slew := c.slew - (k - r), refSlew := c.refSlew - r }

/-- One nanosecond passes: the hub clock interpolates nine times between two reference edges (R50). -/
def Clock.tick (c : Clock) : Clock := if c.sub < 9 then { c with sub := c.sub + 1 } else c.edge

/-- Time passes: a descriptor update under way is finished, every sequence of the Starter takes its next step, host accesses that
waited are tried. -/
def tick (s : State) : State :=
  if s.dev.powered then
    let s := ({ s with clk := s.clk.tick } : State).updateFinish.sequences
    State.hostDrain s.dev.hostWait.length s
  else s

end Sys2Proof.Machine
end

