-- ==== Sys2Proof/Safety.lean ====
section
/-! DEFINITION. The terms in which claims are stated: how a command ends, what it leaves as it was, the invariants. -/

namespace Sys2Proof.Machine

/-- The command is answered with a next state, of which `P` holds. -/
def Completes (c : Instr) (s : State) (P : State → Prop) : Prop := ∃ t, exec c s = .next t ∧ P t

/-- Nothing differs but the volatile part of the device: the queue, device time, memory and what survives power loss are as
before. -/
def VolatileOnly (s t : State) : Prop := t.pending = s.pending ∧ t.clk = s.clk ∧ t.mem = s.mem ∧ t.nv = s.nv

/-- Device time, the queue and every byte of memory are as before. -/
def MemoryKept (s t : State) : Prop := t.pending = s.pending ∧ t.clk = s.clk ∧ t.mem = s.mem

/-- Every register at an offset other than those of the list is as before. -/
def RegsKept (s t : State) (l : List Reg) : Prop := ∀ r : Reg, (∀ x ∈ l, r.offset ≠ x.offset) → t.dev.reg r = s.dev.reg r

/-- Every core but one is as before. -/
def OtherCoresKept (s t : State) (c : CoreIx) : Prop := ∀ x, x ≠ c → t.dev.core x = s.dev.core x

/-- A core carries out its next instruction, of `len` bytes: it runs code, is not stalled, its issue stages are open, no deferred
trap waits, and the fetch succeeds and leaves `u`. -/
def Issues (s : State) (c : CoreIx) (len : Nat) (u : State) : Prop :=
  s.coreUp c = true ∧ (s.dev.core c).stall = .none ∧ s.dev.coreClosed c = false ∧ (s.dev.core c).deferred = [] ∧
    s.fetch c len = (.ok, u)

/-- Nothing of `u` differs in `t` but one core, which is now `k`. -/
def OnlyCore (u t : State) (c : CoreIx) (k : Core) : Prop := t = u.onDev fun d => d.setCore c k

/-- An origin's write of a register is carried out: its block answers, is not that of a fused partition, and takes writes from
the origin (R357, R418). -/
def State.mayWrite (s : State) (o : Origin) (r : Reg) : Prop :=
  s.nv.fusedReg r = false ∧ s.dev.answers o r = true ∧ originMayWrite o r = true

/-- An origin's read of a register is answered with its word. -/
def State.mayRead (s : State) (o : Origin) (r : Reg) : Prop := s.nv.fusedReg r = false ∧ s.dev.answers o r = true

/-- `t` is `u` with what is noted beside a register write: journal entries (R396), the stored entries it changed (R405). -/
def Noted (u t : State) : Prop :=
  MemoryKept u t ∧ (∃ l, t.dev = { u.dev with dirty := l }) ∧ ∃ j, t.nv = { u.nv with journal := j }

/-- An event of a source has been recorded (R333): V is set and COUNT one higher, saturating. -/
def Recorded (s t : State) (src : Src) : Prop :=
  bit (t.dev.reg (.errStat src.code)) 63 = true ∧
    fld (t.dev.reg (.errStat src.code)) 31 0 = min (fld (s.dev.reg (.errStat src.code)) 31 0 + 1) 0xFFFFFFFF

/-- The four registers of a source's error record (R331). -/
def errRegs (src : Src) : List Reg := [.errStat src.code, .errAddr src.code, .errId src.code, .errTime src.code]

/-- Device memory and the local SRAM of every core keep the canonical form. -/
def State.memOk (s : State) : Prop := s.mem.wf = true ∧ ∀ e ∈ s.dev.cores, e.2.sram.wf = true

/-- GEN of the floor-plan descriptor is even: no update is in progress between commands (R29). -/
def State.genEven (s : State) : Prop := s.nv.gen % 2 = 0

end Sys2Proof.Machine
end

