-- ==== Sys2Proof/Certificates/Slice0/Obligations.lean ====
section
/-! DEFINITION. The statements for the provers: what every command does and leaves alone, and the invariants of the block. -/

open Sys2Proof Sys2Proof.Machine

/-- Every command is the front of the queue's turn: a step with it in front is its effect on the state with the queue's
rest. What a step on the empty queue does is the model's choice (log entry 5). -/
def Obligations.StepTakesFrontCommand : Prop :=
  ∀ (c : Instr) (r : List Instr) (s : State), s.pending = c :: r → step s = exec c { s with pending := r }

/-- POWER_GOOD, POWER_FAIL and RESET_N_ASSERT: a rising edge of PWRGD starts cold boot from nothing but what survives
power loss; power lost leaves nothing volatile; RESET_N starts a warm device reset at its first step, with the strapped
node ID it had. What survives power loss is the shipped part of log entry 3; RESET_N at any time is log entry 66. -/
def Obligations.PowerCommandsComplete : Prop :=
  ∀ (s : State) (e : BootEnv),
    Completes (.powerGood e) s (fun t => t.dev.powered = true ∧ t.mem = {} ∧ t.clk = {} ∧ t.pending = s.pending ∧
      t.dev.seqs = [{ kind := .cold, step := 1, env := e, bring := {}, t0 := 0 }] ∧ t.nv.part = s.nv.part ∧ t.nv.desc = s.nv.desc ∧
      t.nv.health = s.nv.health ∧ t.nv.regs = s.nv.regs ∧ ∀ c, t.dev.core c = {}) ∧
    (s.dev.powered = true →
      Completes .powerFail s (fun t => t.dev.powered = false ∧ t.dev.optEn = false ∧ t.dev.seqs = [] ∧ t.dev.regs = [] ∧
        t.nv.part = s.nv.part ∧ t.nv.desc = s.nv.desc ∧ t.nv.health = s.nv.health ∧ t.nv.regs = s.nv.regs ∧
        t.nv.journal.ram = []) ∧
      Completes (.resetNAssert e) s (fun t => t.clk = s.clk ∧ t.dev.nmt = .silent ∧ t.dev.hostWait = [] ∧ t.mem = s.mem ∧
        t.dev.seqs = [{ kind := .warm, step := 1, env := { e with nodeId := s.dev.bootEnv.nodeId }, bring := {}, t0 := s.now }]))

/-- A reset command that no rule turns away is accepted and begins with the first step of its table: the device is
READY, the origin may order the level, the unit exists and no reset under way covers it. A command that orders no
level sets the RESULT of its origin to BADCMD. A task that has not obeyed an
abort request within ABORT_US has its core reset by the dispatcher, recorded under ABORT_TIMEOUT: the reset begins with step 1 of
its table. Which origin keeps which RESULT is the model's reading (log entry 92). -/
def Obligations.ResetCommandsComplete : Prop :=
  (∀ (s : State) (o : Origin) (c : CoreIx) (k : ClusterIx) (p : PartIx) (e : BootEnv) (b : BringUp),
     let accepted : State := (s.strtResult (strtKey o) 1).onDev fun d => d.modReg .strtCstat fun w => wrapAdd w 31 0 1
     o ≠ .fn0 → s.dev.answers o .strtCmd = true → s.dev.ready = true →
     (s.noUnit (.core c) = false → (s.dev.seqs.any fun q => q.kind.covers (.core c)) = false →
       exec (.coreReset (.cmd o) c) s = .next (accepted.begin (.core c) {} {} false)) ∧
     (o = .fn1 → s.noUnit (.cluster k) = false → (s.dev.seqs.any fun q => q.kind.covers (.cluster k)) = false →
       exec (.clusterReset o k b) s = .next (accepted.begin (.cluster k) {} b false)) ∧
     (o = .fn1 → s.noUnit (.partition p) = false → (s.dev.seqs.any fun q => q.kind.covers (.partition p)) = false →
       Completes (.partitionReset o p b) s fun t => t = accepted.begin (.partition p) {} b false ∧
         { kind := .partition p, step := 1, env := {}, bring := b, t0 := s.now } ∈ t.dev.seqs ∧
         t.mem = s.mem ∧ t.nv = s.nv ∧ t.clk = s.clk) ∧
     (o = .fn1 → (s.dev.seqs.any fun q => q.kind.covers .warm) = false →
       Completes (.warmDeviceReset o e) s fun t =>
         t = accepted.begin .warm { e with nodeId := s.dev.bootEnv.nodeId } {} false ∧ t.dev.nmt = .silent ∧ t.mem = s.mem ∧ t.clk = s.clk ∧
         t.dev.seqs = [{ kind := .warm, step := 1, env := { e with nodeId := s.dev.bootEnv.nodeId }, bring := {}, t0 := s.now }])) ∧
  (∀ (s : State) (c : CoreIx) (t : Task), s.coreUp c = true → (s.dev.core c).task = some t → t.abort.isSome = true →
     t.abortAt + 1000 * fld (s.dev.reg (.resCtl t.part)) 63 48 ≤ s.now →
     let u := (s.record .abortTimeout (descFld t.words 31 0) t.queue.val (idCore s.dev.devId c)).begin (.core c) {} {} true
     exec (.abortTimeout c) s = .next u ∧ exec (.coreReset .dispatcher c) s = .next u) ∧
  (∀ (s : State) (o : Origin) (v : Word), o ≠ .fn0 → s.dev.answers o .strtCmd = true → strtKind v = none →
     exec (.strtCmdBadcmd o v) s = .next (s.strtResult (strtKey o) 4))

/-- A STRT_CMD write with a reserved LEVEL sets RESULT of its origin to BADCMD and changes nothing else. A reset ordered
before READY, one that names a unit that is fused or retired, and one that Firmware may not order are refused: RESULT is
REFUSED and no reset begins. -/
def Obligations.ResetCommandsRefused : Prop :=
  (∀ (s : State) (o : Origin) (v : Word), o ≠ .fn0 → s.dev.answers o .strtCmd = true →
     (fld v 63 60 = 0 ∨ 5 ≤ fld v 63 60) →
     Completes (.strtCmdBadcmd o v) s fun t =>
       t.dev.strtRes.get 0 (strtKey o) = 4 ∧ (∀ k, k ≠ strtKey o → t.dev.strtRes.get 0 k = s.dev.strtRes.get 0 k) ∧
       VolatileOnly s t ∧ RegsKept s t [] ∧ t.dev.seqs = s.dev.seqs ∧ t.dev.out = s.dev.out) ∧
  (∀ (s : State) (o : Origin) (p : PartIx) (b : BringUp), o ≠ .fn0 → s.dev.answers o .strtCmd = true →
     (s.dev.ready = false ∨ o = .firmware ∨ s.nv.part.enabled p = false) →
     Completes (.partitionReset o p b) s fun t =>
       t.dev.strtRes.get 0 (strtKey o) = 3 ∧ t.dev.seqs = s.dev.seqs ∧ VolatileOnly s t ∧ RegsKept s t [])

/-- The Host's PCIe resets: a function-level reset advances the function's epoch and leaves the other function's MSI-X
table, every register outside the BAR2 map and all of memory; a fundamental reset clears the PCIe state of both
functions. That the fundamental reset clears both functions and advances no epoch is log entry 89. -/
def Obligations.PcieResetsComplete : Prop :=
  ∀ (s : State) (fn : Fin 2), s.dev.powered = true →
    Completes (.functionLevelReset fn) s (fun t =>
      t.dev.epochOf (idHost t.dev.devId fn.val) = (s.dev.epochOf (idHost s.dev.devId fn.val) + 1) % 65536 ∧
      (∀ i < 16, t.dev.msixWord fn.val i = (if i % 2 = 1 then 0x0000000100000000 else 0)) ∧
      (∀ i < 16, t.dev.msixWord (1 - fn.val) i = s.dev.msixWord (1 - fn.val) i) ∧
      (fn = 0 → ∀ i, t.dev.reg (.b2map i) = 0) ∧ (fn = 1 → ∀ i, t.dev.reg (.b2map i) = s.dev.reg (.b2map i)) ∧
      VolatileOnly s t ∧ RegsKept s t ((List.finRange 16).map .b2map)) ∧
    Completes .pcieFundamentalReset s (fun t =>
      (∀ f < 2, ∀ i < 16, t.dev.msixWord f i = (if i % 2 = 1 then 0x0000000100000000 else 0)) ∧
      (∀ i, t.dev.reg (.b2map i) = 0) ∧ t.dev.epochs = s.dev.epochs ∧
      VolatileOnly s t ∧ RegsKept s t ((List.finRange 16).map .b2map))

/-- R53. When the reference returns, FB_ACTIVE is cleared and device time does not move; the difference joins what is
slewed away, at most 5 ps of it (and of both corrections together) in every 10 ns; between two edges of the reference only the
count of nanoseconds goes on. -/
def Obligations.ReferenceReturnSlews : Prop :=
  (∀ (s : State) (diff : Int), s.dev.powered = true → bit (s.dev.reg .timingStatus) 3 = true →
    Completes (.refReturn diff) s fun t => bit (t.dev.reg .timingStatus) 3 = false ∧
      (∀ i, i ≠ 3 → bit (t.dev.reg .timingStatus) i = bit (s.dev.reg .timingStatus) i) ∧
      t.clk.ps = s.clk.ps ∧ t.clk.slew = s.clk.slew ∧ t.clk.refSlew = s.clk.refSlew + 1000 * diff ∧ t.pending = s.pending ∧
      t.mem = s.mem ∧ t.nv = s.nv ∧ RegsKept s t [.timingStatus]) ∧
  (∀ (c : Clock), (c.sub < 9 → c.tick = { c with sub := c.sub + 1 }) ∧
    (9 ≤ c.sub → c.tick.sub = 0 ∧ c.ps + 9995 ≤ c.tick.ps ∧ c.tick.ps ≤ c.ps + 10005 ∧
    (c.tick.ps : Int) + c.tick.slew + c.tick.refSlew = c.ps + 10000 + c.slew + c.refSlew ∧
    c.tick.refSlew.natAbs = c.refSlew.natAbs - 5))

/-- Time: loss of the reference switches to the fall-back oscillator at most 10 ns further; a TIME flit goes to the
parent, and a device without one is the master, with HOPS 0 and SYNC set; a parent lost with another path takes that path and holds
frequency; TIMING_RATE's extremes return on a read. A TIME flit from the parent that answers ours is measured, offset half the sum
of both ways, our time being that at which the flit came; the first offset after a boot is stepped, a later one slewed. A port that
leads to a lower serial number becomes the way to the parent. The sign of OFFSET and the master's HOPS are the model's reading (log
entries 84 and 85). -/
def Obligations.TimeCommandsComplete : Prop :=
  (∀ (s : State) (n : PortIx) (path : Option (PortIx × Word)) (o : Origin) (p : PartIx),
     (s.dev.powered = true → bit (s.dev.reg .timingStatus) 3 = false → Completes .refLossSwitch s fun t =>
       s.clk.ps ≤ t.clk.ps ∧ t.clk.ps ≤ s.clk.ps + 10000 ∧ bit (t.dev.reg .timingStatus) 2 = true ∧
       bit (t.dev.reg .timingStatus) 3 = true ∧ Recorded s t .refLost ∧ t.mem = s.mem ∧ t.nv = s.nv ∧
       RegsKept s t (.timingStatus :: errRegs .refLost)) ∧
     (s.dev.parent = some n → exec .timeExchange s = .next (s.onDev fun d => d.manage n 0x11 [])) ∧
     (s.dev.parent = none → s.dev.hubUp = true → Completes .timeExchange s fun t => t.dev.parent = none ∧
       fld (t.dev.reg .timingStatus) 47 32 = 0 ∧ bit (t.dev.reg .timingStatus) 4 = true ∧ VolatileOnly s t ∧
       RegsKept s t [.timingStatus]) ∧
     (s.dev.parent.isSome = true → Completes (.parentLost path) s fun t => t.dev.parent = path.map Prod.fst ∧ t.clk = { s.clk with slew := 0 } ∧
       bit (t.dev.reg .timingStatus) 5 = true ∧ bit (t.dev.reg .timingStatus) 4 = path.isNone ∧ Recorded s t .timeHoldover ∧
       t.mem = s.mem ∧ t.nv = s.nv ∧ RegsKept s t (.timingStatus :: errRegs .timeHoldover)) ∧
     (s.mayRead o (.timingRate p) → Completes (.timingRateRead o p) s fun t =>
       t.dev.out = s.dev.out ++ [.read (originFn o) (Reg.timingRate p).offset (s.dev.reg (.timingRate p))] ∧
       t.dev.reg (.timingRate p) = ((s.dev.reg (.timingRate p) &&& ~~~(Reg.timingRate p).rc) |||
         ((Reg.timingRate p).reset &&& (Reg.timingRate p).rc)) ∧ VolatileOnly s t ∧ RegsKept s t [.timingRate p])) ∧
  (∀ (s : State) (n : PortIx) (m : RxMsg) (path : TimePath),
     let t1 := ofLe (m.msg.data.take 8)
     let t2 := ofLe ((m.msg.data.drop 8).take 8)
     let t3 := ofLe ((m.msg.data.drop 16).take 8)
     let off : Int := (((t2 : Int) - t3) + ((t1 : Int) - m.came)) / 2
     (s.dev.port n).oldest 3 = some m → m.msg.op = 0x11 → s.dev.parent = some n → t3 ≠ 0 →
     (s.dev.locked = true → Completes (.timeFlitReceive n path) s fun t => t.clk = { s.clk with slew := 1000 * off } ∧
       t.mem = s.mem ∧ t.nv = s.nv ∧ bit (t.dev.reg .timingStatus) 4 = true ∧ bit (t.dev.reg .timingStatus) 5 = false) ∧
     (s.dev.locked = false → Completes (.timeFlitReceive n path) s fun t =>
       t.clk = { s.clk with ps := ((s.clk.ps : Int) + 1000 * off).toNat, slew := 0 } ∧ t.mem = s.mem ∧ t.dev.locked = true ∧
       bit (t.dev.reg .timingStatus) 4 = true ∧ bit (t.dev.reg .timingStatus) 7 = true)) ∧
  (∀ (s : State) (n : PortIx) (m : RxMsg) (path : TimePath), (s.dev.port n).oldest 3 = some m → m.msg.op = 0x11 →
     path.hops < 0xFFFF → path.master.toNat < (s.dev.master.getD s.nv.part.serial).toNat →
     Completes (.timeFlitReceive n path) s fun t => t.dev.parent = some n ∧ t.dev.master = some path.master ∧ t.mem = s.mem)

/-- R156, R157. The key of each partition, and the map of DRAM offsets: each layer, channel, bank, row, column and byte
of a line is that of exactly one offset; an aligned 4 KiB touches every channel once and the next one moves one column
along the same pages. -/
def Obligations.DramMapIsBijective : Prop :=
  ∀ (pt : Part) (p : PartIx),
    hkey p.val = [3, 10, 17, 24, 31, 6, 13, 20].getD p.val 0 ∧
    (∀ o < pt.dramSize,
      dramLayer o = o / 2 ^ 33 ∧ dramLayer o < (if pt.layers = 4 then 4 else 6) ∧ dramRow o = o / 2 ^ 20 % 2 ^ 13 ∧
      dramCol o = o / 2 ^ 12 % 16 ∧ dramBank o = (o / 2 ^ 16 % 16) ^^^ (o / 2 ^ 20 % 16) ^^^ (o / 2 ^ 24 % 16) ∧
      dramChan p.val o = (o / 2 ^ 7 % 32) ^^^ (o / 2 ^ 12 % 32) ^^^ (o / 2 ^ 17 % 32) ^^^ (o / 2 ^ 22 % 32) ^^^ (o / 2 ^ 27 % 32) ^^^
        (o / 2 ^ 32 % 16) ^^^ ((7 * p.val + 3) % 32)) ∧
    (∀ layer < (if pt.layers = 4 then 4 else 6), ∀ chan < 32, ∀ bank < 16, ∀ row < 8192, ∀ col < 16, ∀ byte < 128, ∃ o,
      (o < pt.dramSize ∧ dramLayer o = layer ∧ dramChan p.val o = chan ∧ dramBank o = bank ∧ dramRow o = row ∧ dramCol o = col ∧
        o % 128 = byte) ∧
      ∀ x, x < pt.dramSize → dramLayer x = layer → dramChan p.val x = chan → dramBank x = bank → dramRow x = row →
        dramCol x = col → x % 128 = byte → x = o) ∧
    (∀ b, 4096 * (b + 1) ≤ pt.dramSize →
      (∀ chan < 32, ∃ i < 32, dramChan p.val (4096 * b + 128 * i) = chan ∧
        ∀ j < 32, dramChan p.val (4096 * b + 128 * j) = chan → j = i) ∧
      (∀ j < 4096, dramLayer (4096 * b + j) = dramLayer (4096 * b) ∧ dramBank (4096 * b + j) = dramBank (4096 * b) ∧
        dramRow (4096 * b + j) = dramRow (4096 * b) ∧ dramCol (4096 * b + j) = dramCol (4096 * b)) ∧
      (dramCol (4096 * b) < 15 → dramLayer (4096 * (b + 1)) = dramLayer (4096 * b) ∧
        dramBank (4096 * (b + 1)) = dramBank (4096 * b) ∧ dramRow (4096 * (b + 1)) = dramRow (4096 * b) ∧
        dramCol (4096 * (b + 1)) = dramCol (4096 * b) + 1))

/-- The first event of a source since its last clear captures ADDR, SUBJ with WHO and the time; a later one sets OVER
and leaves them. COUNT advances in either case, and nothing but the source's four registers changes. -/
def Obligations.ErrorEventsAreRecorded : Prop :=
  ∀ (s : State) (src : Src) (addr subj who : Nat),
    let t := s.record src addr subj who
    let st (x : State) : Word := x.dev.reg (.errStat src.code)
    Recorded s t src ∧ VolatileOnly s t ∧ RegsKept s t (errRegs src) ∧
    (bit (st s) 63 = false → bit (st t) 62 = bit (st s) 62 ∧ t.dev.reg (.errAddr src.code) = BitVec.ofNat 64 addr ∧
      t.dev.reg (.errId src.code) = (fput 55 32 subj ||| fput 31 0 who) ∧ t.dev.reg (.errTime src.code) = BitVec.ofNat 64 s.now) ∧
    (bit (st s) 63 = true → bit (st t) 62 = true ∧ t.dev.emcy = s.dev.emcy ∧ t.dev.out = s.dev.out ∧
      RegsKept s t [.errStat src.code])

/-- The error record: a write of ERR_STAT of a listed source clears what it says and CLRCNT the count; a saturated mesh
edge or channel is recorded. A replacement event that changes the descriptor opens the update, GEN reading odd; it is finished with
every change of the event, the later ones waiting, and sets HEALTH. That changes found at one moment are one event is the model's
reading (log entry 52). -/
def Obligations.ErrorRecordCommandsComplete : Prop :=
  ∀ (s : State) (o : Origin) (i : Fin 64) (v : Word) (e : Fin 10) (dir : Bool) (p : PartIx) (ch : ChanIx),
    (s.mayWrite o (.errStat i) →
      (sourceListed i = true → Completes (.errStatWrite o i v) s fun t => MemoryKept s t ∧ RegsKept s t [.errStat i] ∧
        t.dev.reg (.errStat i) = (let w := storeTyped (.errStat i) (s.dev.reg (.errStat i)) v
          if bit v 61 then setFld w 31 0 0 else w)) ∧
      (sourceListed i = false → Completes (.errStatWrite o i v) s fun t => MemoryKept s t ∧ RegsKept s t []) ∧
      (sourceListed i = true → Completes (.errClrcnt o i) s fun t => fld (t.dev.reg (.errStat i)) 31 0 = 0 ∧
        fld (t.dev.reg (.errStat i)) 63 62 = fld (s.dev.reg (.errStat i)) 63 62 ∧ MemoryKept s t ∧ RegsKept s t [.errStat i])) ∧
    (s.dev.hubUp = true → Completes (.meshOrChannelSaturated (.edge e dir)) s fun t => Recorded s t .saturated ∧ VolatileOnly s t ∧
      RegsKept s t (errRegs .saturated)) ∧
    (s.dev.partUp p = true → Completes (.meshOrChannelSaturated (.channel p ch)) s fun t => Recorded s t .saturated ∧
      VolatileOnly s t ∧ RegsKept s t (errRegs .saturated)) ∧
    (s.dev.dictUp = true → s.dev.updates ≠ [] →
      (s.dev.genOpen = false → s.dev.updatesHeld = false → s.eventOpens = true → Completes .replacementEvent s fun t =>
        t.genNow % 2 = (s.nv.gen + 1) % 2 ∧ t.dev.updates = s.dev.updates ∧ VolatileOnly s t ∧ RegsKept s t []) ∧
      (s.dev.genOpen = true ∨ s.dev.updatesHeld = false ∧ s.eventOpens = false → Completes .replacementEvent s fun t =>
        t.dev.genOpen = false ∧ t.dev.updates = s.dev.event.2 ∧ MemoryKept s t ∧ (s.genEven → t.genEven) ∧ t.nv.part = s.nv.part ∧
        t.nv.regs = s.nv.regs)) ∧
    (∀ (u : Fin 224) (at' : Nat), s.dev.dictUp = true → s.dev.genOpen = true → s.dev.updates = [(at', .vias p u.val)] →
      bit (s.nv.entry p.val (145 + u.val)) 40 = false →
      Completes .replacementEvent s fun t => t.nv.gen = (s.nv.gen + 2) % 2 ^ 32 ∧
        bit (t.nv.entry p.val (145 + u.val)) 40 = true ∧ fld (t.nv.entry p.val (145 + u.val)) 19 0 = t.nv.gen % 2 ^ 20 ∧
        bit t.nv.health 3 = true ∧ bit t.nv.health 0 = true ∧ fld t.nv.health 31 16 = min (fld s.nv.health 31 16 + 1) 0xFFFF ∧
        t.dev.replaceN = true)

/-- BAR2_READ and BAR2_WRITE with nothing waiting, no posted write under way and nothing at the slices to hold an access back: through a mapped segment the memory at
the segment's address is read or written; through an unmapped one a read is aborted and a write is discarded and
counted. The order of waiting accesses is log entry 88. -/
def Obligations.HostAccessesComplete : Prop :=
  ∀ (s : State) (x len : Nat) (data : List Byte) (a : Nat), s.dev.hostWait = [] → s.dev.postedOut = false →
    s.dev.calm = true →
    (s.dev.aperture x = some a → (∀ d e, s.place a ≠ .remote d e) →
      (∀ l bad u, s.readSpan a len = (some (l, bad), u) →
        Completes (.bar2Read x len) s fun t => t.dev.out = u.dev.out ++ [.pcie 0 l bad] ∧ t.mem = u.mem ∧ t.nv = u.nv) ∧
      (∀ u, s.writeSpan a data = (true, u) → exec (.bar2Write x data false) s = .next (u.onDev fun d => { d with hostWait := [] }))) ∧
    (s.dev.aperture x = none →
      Completes (.bar2Read x len) s (fun t => t.dev.out = s.dev.out ++ [.abort 0 x] ∧ VolatileOnly s t ∧ RegsKept s t []) ∧
      Completes (.bar2Write x data false) s (fun t =>
        fld (t.dev.reg .hostStat) 47 32 = min (fld (s.dev.reg .hostStat) 47 32 + 1) 0xFFFF ∧
        t.dev.out = s.dev.out ++ [.advisory 0 x] ∧ VolatileOnly s t ∧ RegsKept s t [.hostStat]))

/-- The Host's own registers: MAP_FARWIN with no access to wait for and nothing held back at the slices, and the BAR2 map take the writable bits, a read of
HOST_STAT answers its word and clears it. A write from a function that may not make it writes nothing: DENIED advances
and keeps the offset. -/
def Obligations.HostRegistersComplete : Prop :=
  (∀ (s : State) (o : Origin) (v : Word) (i : Fin 16),
     (s.mayWrite o .mapFarwin → s.dev.hostWait = [] → s.dev.postedOut = false → s.dev.windowOut = [] → s.dev.calm = true →
       Completes (.mapFarwinWrite o v) s fun t => t.dev.reg .mapFarwin = storeTyped .mapFarwin (s.dev.reg .mapFarwin) v ∧
         VolatileOnly s t ∧ RegsKept s t [.mapFarwin]) ∧
     (s.mayWrite o (.b2map i) → Completes (.hostB2mapWrite o i v) s fun t =>
       t.dev.reg (.b2map i) = storeTyped (.b2map i) (s.dev.reg (.b2map i)) v ∧ VolatileOnly s t ∧ RegsKept s t [.b2map i]) ∧
     (s.mayRead o .hostStat → Completes (.hostStatRead o) s fun t =>
       t.dev.out = s.dev.out ++ [.read (originFn o) Reg.hostStat.offset (s.dev.reg .hostStat)] ∧
       fld (t.dev.reg .hostStat) 63 48 = 0 ∧ fld (t.dev.reg .hostStat) 47 32 = 0 ∧ VolatileOnly s t ∧ RegsKept s t [.hostStat])) ∧
  (∀ (s : State) (o : Origin) (off : Nat) (r : Reg) (v : Word), Reg.ofOffset off = some r → s.nv.fusedReg r = false →
     s.dev.answers o r = true → originMayWrite o r = false → r.offset ≠ Reg.hostStat.offset →
     Completes (.bar0DeniedWrite o off v) s fun t => t.dev.reg r = s.dev.reg r ∧
       fld (t.dev.reg .hostStat) 63 48 = min (fld (s.dev.reg .hostStat) 63 48 + 1) 0xFFFF ∧
       fld (t.dev.reg .hostStat) 25 0 = r.offset ∧ t.dev.out = s.dev.out ++ [.advisory (originFn o) r.offset] ∧
       MemoryKept s t ∧ RegsKept s t [.hostStat])

/-- The far tier's control: EN is set when the decoders fit, and a decoder is stored while EN is 0; a port that loses
its link is recorded and retrains; a port that has retrained reads up. EN cannot be set over decoders that do not fit,
and a decoder cannot be changed while EN is 1: REFUSED is set and nothing else of the far tier changes. Which decoders
fit follows log entry 90 at the corners. -/
def Obligations.FarTierCommandsComplete : Prop :=
  (∀ (s : State) (o : Origin) (v : Word) (i : Fin 4) (q : Fin 2) (down : Bool),
     (s.mayWrite o .farCtl → (bit v 63 = false ∨ s.dev.farBad = false) → Completes (.farEnable o v) s fun t =>
       t.dev.reg .farCtl = storeTyped .farCtl (s.dev.reg .farCtl) v ∧ VolatileOnly s t ∧ RegsKept s t [.farCtl]) ∧
     (s.mayWrite o (.farDec i) → bit (s.dev.reg .farCtl) 63 = false → Completes (.farDecWrite o i v) s fun t =>
       t.dev.reg (.farDec i) = storeTyped (.farDec i) (s.dev.reg (.farDec i)) v ∧ VolatileOnly s t ∧ RegsKept s t [.farDec i]) ∧
     (s.dev.powered = true → fld (s.dev.reg (.farPort q)) 63 62 ≠ 0 → Completes (.cxlPortEvent q down) s fun t =>
       Recorded s t .cxlErr ∧ (down = true → fld (t.dev.reg (.farPort q)) 63 62 = 1) ∧
       (down = false → t.dev.reg (.farPort q) = s.dev.reg (.farPort q)) ∧ VolatileOnly s t ∧
       RegsKept s t (.farPort q :: errRegs .cxlErr)) ∧
     (fld (s.dev.reg (.farPort q)) 63 62 = 1 → Completes (.cxlPortRetrained q) s fun t =>
       fld (t.dev.reg (.farPort q)) 63 62 = 2 ∧ VolatileOnly s t ∧ RegsKept s t [.farPort q])) ∧
  (∀ (s : State) (o : Origin) (v : Word) (i : Fin 4),
     (s.mayWrite o .farCtl → bit v 63 = true → s.dev.farBad = true → Completes (.farEnable o v) s fun t =>
       t.dev.reg .farCtl = setBit (s.dev.reg .farCtl) 62 true ∧ VolatileOnly s t ∧ RegsKept s t [.farCtl] ∧ t.dev.out = s.dev.out) ∧
     (s.mayWrite o (.farDec i) → bit (s.dev.reg .farCtl) 63 = true → Completes (.farDecWrite o i v) s fun t =>
       t.dev.reg .farCtl = setBit (s.dev.reg .farCtl) 62 true ∧ VolatileOnly s t ∧ RegsKept s t [.farCtl]))

/-- The Vault: COMMIT sets BUSY, CLEAR empties staging with RESULT OK, another CMD sets BADCMD; a staged header that is
not well formed ends COMMIT with RESULT 1; an uncorrectable PCIe error is recorded. A package whose digest is its
body's, signed by a signer its kind allows and not rolled back, is applied: the Vault becomes what its kind says, an
unsigned kind 4 package sets an owner where there is none. One whose signature fails ends with RESULT 2, one that rolls
back with RESULT 3, and the Vault unchanged. What a package's body holds is a constant without a value (log entry 61).
-/
def Obligations.VaultCommandsComplete : Prop :=
  (∀ (s : State) (o : Origin) (v : Word) (fn : Fin 2) (b : Nat) (ok : Bool),
     (s.mayWrite o .vaultCmd → bit (s.dev.reg .vaultStat) 63 = false →
       Completes (.vaultCommit o) s (fun t => t.dev.reg .vaultStat = setBit (s.dev.reg .vaultStat) 63 true ∧
         t.dev.vaultFn = some (originFn o) ∧ VolatileOnly s t ∧ RegsKept s t [.vaultStat]) ∧
       Completes (.vaultClear o) s (fun t => (∀ k : Fin 2097152, t.dev.reg (.staging k) = 0) ∧
         fld (t.dev.reg .vaultStat) 59 56 = 0 ∧ bit (t.dev.reg .vaultStat) 62 = true ∧ VolatileOnly s t) ∧
       (fld v 63 60 ≠ 1 → fld v 63 60 ≠ 2 → Completes (.vaultBadcmd o v) s fun t =>
         t.dev.reg .vaultStat = setBit (s.dev.reg .vaultStat) 60 true ∧ VolatileOnly s t ∧ RegsKept s t [.vaultStat])) ∧
     (∀ f, s.dev.vaultFn = some f → s.dev.package? = none → Completes (.vaultCommitDone ok) s fun t =>
       fld (t.dev.reg .vaultStat) 59 56 = 1 ∧ bit (t.dev.reg .vaultStat) 62 = true ∧ bit (t.dev.reg .vaultStat) 63 = false ∧
       t.dev.vaultFn = none ∧ VolatileOnly s t ∧ RegsKept s t [.vaultStat]) ∧
     (s.dev.powered = true → Completes (.pcieAerUncorrectable fn b) s fun t => Recorded s t .pcieErr ∧
       VolatileOnly s t ∧ RegsKept s t (errRegs .pcieErr))) ∧
  (∀ (v : Vault) (p : Staged) (ok : Bool) (fr : Nat),
     (v.signedOk p = false → v.apply p ok fr = (2, v)) ∧
     (sha384 p.body = p.digest → p.kind = 1 → p.version < v.minver → v.apply p ok fr = (if v.signedOk p then 3 else 2, v)) ∧
     (sha384 p.body = p.digest → p.kind = 3 → p.version ≤ v.revVer → v.apply p ok fr = (if v.signedOk p then 3 else 2, v)) ∧
     (sha384 p.body = p.digest → p.kind = 1 → v.minver ≤ p.version → ∃ w, v.apply p true fr = (if v.signedOk p then (0, w) else (2, v)) ∧
       w.slotA = some p ∧ w.slotB = some p ∧ v.minver ≤ w.minver ∧ w.owner = v.owner ∧ w.revoked = v.revoked ∧
       w.anchors = v.anchors) ∧
     (sha384 p.body = p.digest → p.kind = 4 → p.signer = 2 → v.owner = none → (∀ b ∈ p.sig, b = 0) → ∃ k,
       v.apply p true fr = (0, { v with owner := some k })) ∧
     (v.minver ≤ (v.apply p ok fr).2.minver ∧ v.revVer ≤ (v.apply p ok fr).2.revVer))

/-- Every register has an offset of its own, at which reads and writes find it. -/
def Obligations.RegisterOffsetsRoundTrip : Prop :=
  ∀ r : Reg, Reg.ofOffset r.offset = some r

/-- Whether a write of a register has no effect beyond the type of its bits. -/
def plainReg : Reg → Bool
  | .stackMctl _ | .stackChctl _ _ | .sliceCfg _ | .sliceRmctl _ | .sliceLive _ _ | .resRoot _ | .resInval | .resQcfg _ _
  | .resQstat _ _ | .resCtl _ | .resBuft _ | .resApool _ _ | .resPpool _ | .resSubmit _ _ _ | .resHint _ _ | .trainStep | .trainLs
  | .anchCtl _ | .anchCmd _ | .anchRules _ | .anchRelay _ | .anchSeed _ | .anchHp _ _ _ | .hrdCfg _ | .mbxCh _ _ | .span _ _
  | .hrdHop | .linkPcfg _ | .linkPcmd _ | .linkVcbuf _ | .linkGcfg | .linkSlot _ | .errStat _ | .strtCmd | .pacePcfg _
  | .mapFarwin | .farCtl | .farDec _ | .vaultCmd | .msixTable _ => false
  | _ => true

/-- REGISTER_WRITE of a register without an effect of its own writes the bits that writes may write, clears those that a
1 clears, and leaves every other register and all of memory. An offset outside the blocks ignores the write. -/
def Obligations.RegisterWriteCompletes : Prop :=
  ∀ (s : State) (o : Origin) (off : Nat) (v : Word),
    (∀ r, Reg.ofOffset off = some r → plainReg r = true → s.mayWrite o r → Completes (.registerWrite o off v) s fun t =>
      t.dev.reg r = storeTyped r (s.dev.reg r) v ∧ MemoryKept s t ∧ RegsKept s t [r]) ∧
    (Reg.ofOffset off = none → exec (.registerWrite o off v) s = .next s)

/-- TMMA and TLW that meet no fault and find room take the next ticket, put it in rd, and enter the queue with their
operands and the CSRs as they stand; nothing else of the device changes. -/
def Obligations.TensorIssueCompletes : Prop :=
  ∀ (s u : State) (c : CoreIx) (rd a b e : RegNum) (z w f3 : Bool) (f2 : Fin 4), Issues s c 4 u →
    let k := u.dev.core c
    let t := (k.tissued + 1) % 65536
    let queued (op : TensOp) (v : State) : Prop := ∃ k', OnlyCore u v c k' ∧ k'.tissued = t ∧ k'.pc = k.pc + 4 ∧
      k'.tqueue = k.tqueue ++ [{ op with ticket := t, ctl := k.tctl, astride := k.tastride.toNat, wstride := k.twstride.toNat,
                                         cstride := k.tcstride.toNat, snap := k.sram }] ∧
      (∀ r : RegNum, k'.getX r = if r.val = 0 then 0 else if r = rd then BitVec.ofNat 64 t else k.getX r) ∧
      k'.sram = k.sram ∧ k'.active = k.active ∧ k'.shadow = k.shadow ∧ k'.tdone = k.tdone
    k.tqueue.length < 8 →
    (let shape := k.getX e
     let op : TensOp := { tlw := false, ticket := 0, a := (k.getX a).toNat, scale := fld shape 31 10, acc := (k.getX b).toNat,
                          m := fld shape 8 0 + 1, z := z, swap := w }
     k.tmmaFault (tmmaWord rd a b e z w f2 f3) (f2.val != 0 || f3) op (decide (2 ^ 22 ≤ op.a ∨ 2 ^ 22 ≤ op.acc)) = none →
     Completes (.tmma c rd a b e z w f2 f3) s (queued op)) ∧
    (let op : TensOp := { tlw := true, ticket := 0, a := (k.getX a).toNat, scale := (k.getX b).toNat }
     k.tlwFault (rTypeWord 0 rd a b 0x2B) op
       (decide (2 ^ 22 ≤ op.a) || (isMx (fld k.tctl 7 4) && decide (2 ^ 22 ≤ op.scale))) = none →
     Completes (.tlw c rd a b) s (queued op))

/-- The command of a vector arithmetic function. -/
def vecArithCmd (fn : VecFn) (c : CoreIx) (vd a b : RegNum) : Instr :=
  match fn with
  | .add => .vadd c vd a b | .sub => .vsub c vd a b | .mul => .vmul c vd a b | .fma => .vfma c vd a b
  | .min => .vmin c vd a b | .max => .vmax c vd a b | .abs => .vabs c vd a b | .exp2 => .vexp2 c vd a b
  | .log2 => .vlog2 c vd a b | .rcp => .vrcp c vd a b | .sqrt => .vsqrt c vd a b | .rsqrt => .vrsqrt c vd a b
  | .rsum => .vrsum c vd a b | .rmax => .vrmax c vd a b

/-- The functions with one operand: their vs2 field must be 0. -/
def vecUnary : VecFn → Bool
  | .add | .sub | .mul | .fma | .min | .max => false
  | _ => true

/-- A vector instruction with a legal rounding mode and legal fields that meets no operand fault and finds room takes
the next ticket and enters the queue with VEC_CTL and VEC_SEED as they stand; a store that rounds stochastically leaves VEC_SEED
advanced by its 128 draws; nothing else of the device changes. -/
def Obligations.VectorIssueCompletes : Prop :=
  ∀ (s u : State) (c : CoreIx) (fn : VecFn) (fmt : Fin 32) (vd a b : RegNum), Issues s c 4 u →
    let k := u.dev.core c
    let t := (k.vissued + 1) % 65536
    let queued (act : VecAct) (v : State) : Prop := OnlyCore u v c
      { k.retire with
        vissued := t, vqueue := k.vqueue ++ [{ ticket := t, act := act, ctl := k.vctl, seed := k.vseed, snap := k.sram }]
        vseed := if act.draws k.vctl then (drawAll true 128 k.vseed).2 else k.vseed }
    let x := (k.getX a).toNat
    k.vqueue.length < 16 → fld k.vctl 1 0 ≠ 3 →
    ((vecUnary fn = true → b.val = 0) → Completes (vecArithCmd fn c vd a b) s (queued (.arith fn vd a b))) ∧
    (b.val = 0 → Completes (.vmvs c vd a b) s (queued (.splat vd ((k.f.get 0 a.val).setWidth 32)))) ∧
    (b.val = 0 → vecCode fmt.val = true → x % 32 = 0 → x < 2 ^ 22 → x + vecBytes fmt.val ≤ k.scratch →
      Completes (.vld c fmt vd a b) s (queued (.load fmt.val vd x)) ∧
      Completes (.vst c fmt vd a b) s (queued (.store fmt.val vd x))) ∧
    (isMx fmt.val = true → x % 32 = 0 → x < 2 ^ 22 → x + vecBytes fmt.val ≤ k.scratch → (k.getX b).toNat < 2 ^ 22 →
      (k.getX b).toNat + 4 ≤ k.scratch →
      Completes (.vstx c fmt vd a b) s (queued (.storeMx fmt.val vd x (k.getX b).toNat)))

/-- TWAIT and TFENCE over work that is complete, and TPOLL always, retire at once; a wait on work that is not complete
stalls. The oldest tensor instruction completes in order. VEXT of a register that no queued instruction writes, VWAIT and VFENCE
over a unit that has done its work, VPOLL and a write of VEC_SEED always, retire at once. The oldest tensor or vector instruction of a core completes: it
leaves its queue, DONE takes its ticket, no other core and no byte of device memory changes. -/
def Obligations.UnitWaitsComplete : Prop :=
  (∀ (s u : State) (c : CoreIx) (rd a b : RegNum), Issues s c 4 u →
     let k := u.dev.core c
     let tk := waitTicket k.tissued ((k.getX a).toNat % 65536)
     (rd.val = 0 → b.val = 0 →
       (waitOver k.tdone k.tissued tk = true → k.tunrep.find? (coversTicket tk) = none →
         Completes (.twait c rd a b) s fun t => OnlyCore u t c { k.retire with stall := .none }) ∧
       (waitOver k.tdone k.tissued tk = false →
         Completes (.twait c rd a b) s fun t => OnlyCore u t c { k with stall := .twait tk })) ∧
     (b.val = 0 → Completes (.tpoll c rd a b) s fun t =>
       OnlyCore u t c (k.setX rd (if ticketDone k.tdone ((k.getX a).toNat % 65536) then 1 else 0)).retire) ∧
     (rd.val = 0 → a.val = 0 → b.val = 0 → k.tdone = k.tissued → k.tunrep = [] →
       Completes (.tfence c rd a b) s fun t => OnlyCore u t c { k.retire with stall := .none })) ∧
  (∀ (s u : State) (c : CoreIx) (rd a b : RegNum) (v : Word), Issues s c 4 u →
     let k := u.dev.core c
     let tk := waitTicket k.vissued ((k.getX a).toNat % 65536)
     (b.val = 0 → (k.vqueue.any fun op => op.act.dest == some a) = false →
       k.vunrep.find? (fun u => (k.vdep.get [] a.val).contains u) = none → Completes (.vext c rd a b) s fun t =>
       OnlyCore u t c (k.setX rd (((k.getV a).getD 0 0).setWidth 64)).retire) ∧
     (rd.val = 0 → b.val = 0 → waitOver k.vdone k.vissued tk = true → k.vunrep.find? (coversTicket tk) = none →
       Completes (.vwait c rd a b) s fun t => OnlyCore u t c { k.retire with stall := .none }) ∧
     (b.val = 0 → Completes (.vpoll c rd a b) s fun t =>
       OnlyCore u t c (k.setX rd (if ticketDone k.vdone ((k.getX a).toNat % 65536) then 1 else 0)).retire) ∧
     (rd.val = 0 → a.val = 0 → b.val = 0 → k.vdone = k.vissued → k.vunrep = [] →
       Completes (.vfence c rd a b) s fun t => OnlyCore u t c { k.retire with stall := .none }) ∧
     Completes (.vecSeedWrite c v) s (fun t => OnlyCore u t c
       { k.retire with vseed := if fld v 31 0 = 0 then 1 else fld v 31 0 })) ∧
  (∀ (s : State) (c : CoreIx), s.dev.partUp (corePart c) = true →
     (∀ op r, (s.dev.core c).tqueue = op :: r → Completes (.tensorTicketComplete c) s fun t =>
       (t.dev.core c).tdone = op.ticket ∧ (t.dev.core c).tqueue.length = r.length ∧ OtherCoresKept s t c ∧ VolatileOnly s t) ∧
     (∀ op r, (s.dev.core c).vqueue = op :: r → Completes (.vectorTicketComplete c) s fun t =>
       (t.dev.core c).vdone = op.ticket ∧ (t.dev.core c).vqueue.length = r.length ∧ OtherCoresKept s t c ∧ VolatileOnly s t))

/-- R125. VRSUM adds in a fixed tree of seven levels, each addition rounded, and nothing but its source and the rounding
mode enters the result. -/
def Obligations.VectorSumIsFixedTree : Prop :=
  ∀ (ctl : Word) (ctr : Nat) (d a b : List Word32), a.length = 128 →
    (∃ lane : Nat → Nat → Nat, (∀ i < 128, lane 7 i = (a.getD i 0).toNat) ∧
      (∀ s < 7, ∀ i < 2 ^ s, lane s i =
        (vecSum (vecRnd ctl) (Fmt.fp32.decode (lane (s + 1) i)) (Fmt.fp32.decode (lane (s + 1) (i + 2 ^ s)))).1) ∧
      (vecArith .rsum ctl ctr d a b).1.head? = some (BitVec.ofNat 32 (lane 0 0))) ∧
    ∀ ctr' d' b', vecArith .rsum ctl ctr' d' a b' = vecArith .rsum ctl ctr d a b

/-- Base instructions that stay in the core: a computed value goes to rd and the pc moves past the instruction; a jump
links and goes to its target; an undefined word takes trap 2. The word comes with the command (log entry 7); its
arithmetic is RISC-V's (log entry 9). -/
def Obligations.BaseInstructionsComplete : Prop :=
  ∀ (s u : State) (c : CoreIx) (w : Word32), Issues s c (wordLen w) u →
    let k := u.dev.core c
    let n : Word := BitVec.ofNat 64 (wordLen w)
    (∀ rd imm, decodeOf w = .lui rd imm → Completes (.instruction c w) s fun t =>
      OnlyCore u t c ((k.setX rd imm).retire (wordLen w))) ∧
    (∀ f3 alt rd a imm, decodeOf w = .opImm f3 alt rd a imm → Completes (.instruction c w) s fun t =>
      OnlyCore u t c ((k.setX rd (aluOp f3 alt (k.getX a) imm)).retire (wordLen w))) ∧
    (∀ f3 alt rd a b, decodeOf w = .op f3 alt rd a b → Completes (.instruction c w) s fun t =>
      OnlyCore u t c ((k.setX rd (aluOp f3 alt (k.getX a) (k.getX b))).retire (wordLen w))) ∧
    (∀ f3 rd a b, decodeOf w = .mul f3 rd a b → Completes (.instruction c w) s fun t =>
      OnlyCore u t c ((k.setX rd (mulOp f3 (k.getX a) (k.getX b))).retire (wordLen w))) ∧
    (∀ rd off, decodeOf w = .jal rd off → Completes (.instruction c w) s fun t => ∃ k', OnlyCore u t c k' ∧
      k'.pc = (k.pc + off) &&& 0xFFFFFFFFFFFFFFFE ∧ (rd.val ≠ 0 → k'.getX rd = k.pc + n)) ∧
    (∀ f3 a b off, decodeOf w = .branch f3 a b off → Completes (.instruction c w) s fun t => ∃ k', OnlyCore u t c k' ∧
      k'.pc = (if branchTaken f3 (k.getX a) (k.getX b) then (k.pc + off) &&& 0xFFFFFFFFFFFFFFFE else k.pc + n) ∧ k'.x = k.x) ∧
    (decodeOf w = .illegal → exec (.instruction c w) s = .next (u.trap c 2 (wordBits w)))

/-- Loads and stores of the scratchpad share act at once; the word read goes to rd, the bytes of the value are written.
A store of device memory is posted; a load of a line that a cache near the core holds gets its bytes at once, an uncached one
takes a read slot and waits for its response. The word comes with the command (log entry 7), the caches' form is log entry 122. -/
def Obligations.LoadsAndStoresComplete : Prop :=
  ∀ (s u : State) (c : CoreIx) (w : Word32) (up : Upset), Issues s c (wordLen w) u →
    let k := u.dev.core c
    (∀ f3 rd a imm, decodeOf w = .load f3 false rd a imm →
      let va := (k.getX a + imm).toNat
      let r := u.dev.sramView u.now c (va - windowBase) (accSize f3) up
      (inWindow va = true → k.windowBad false (va - windowBase) (accSize f3) = none → va - windowBase ≠ submitPort → r.1.bad = [] →
        Completes (.load c w up) s fun t => t = (u.onDev fun _ => r.2).onDev fun d => d.modCore c fun k =>
          (k.loaded rd f3 false (ofLe r.1.bytes)).retire (wordLen w)) ∧
      (va < windowBase → va % accSize f3 = 0 → ∀ asid pa v, k.asid = some asid →
        u.xlate (coreCluster c) asid va .load = (.ok pa, v) →
        let crit := (k.regionAt va).any Region.crit
        ((k.regionAt va).bind k.shareOf = none → v.dev.slotFree c crit = true → Completes (.load c w up) s fun t =>
          t.dev.reqs.get none v.dev.nextReq =
            some { core := c, op := .read, va := va, addr := pa, size := accSize f3, crit := crit, aim := v.aim pa } ∧
          ∃ form, (t.dev.core c).stall = .load v.dev.nextReq rd form false) ∧
        (∀ sh b x, (k.regionAt va).bind k.shareOf = some sh → v.nearRead c sh asid va up = (some b, x) →
          Completes (.load c w up) s fun t => t = x.onDev fun d => d.modCore c fun k =>
            (k.loaded rd f3 false (ofLe ((b.drop (va % 128)).take (accSize f3)))).retire (wordLen w)))) ∧
    (∀ f3 a b imm, decodeOf w = .store f3 false a b imm →
      let va := (k.getX a + imm).toNat
      let val := (k.getX b).toNat % 2 ^ (8 * accSize f3)
      (inWindow va = true → k.windowBad true (va - windowBase) (accSize f3) = none → k.area (va - windowBase) = .scratch →
        va - windowBase ≠ endPort → Completes (.store c w) s fun t =>
          OnlyCore u t c ((k.sramWrite (va - windowBase) (leBytes (accSize f3) val)).retire (wordLen w))) ∧
      (va < windowBase → va % accSize f3 = 0 → ∀ asid pa v, k.asid = some asid →
        u.xlate (coreCluster c) asid va .store = (.ok pa, v) → Completes (.store c w) s fun t =>
          t.dev.reqs.get none v.dev.nextReq =
            some { core := c, op := .write, va := va, addr := pa, size := accSize f3, data := val, aim := v.aim pa } ∧
          (t.dev.core c).pc = (v.dev.core c).pc + BitVec.ofNat 64 (wordLen w)))

/-- Atomic instructions: on local SRAM AMO reads, combines and writes in the core, LR takes a reservation on the line,
SC writes only while it is held and always ends it. On device memory each sends one request and waits. The order of
their checks is log entry 76. -/
def Obligations.AtomicsComplete : Prop :=
  ∀ (s u : State) (c : CoreIx) (w : Word32) (up : Upset) (dbl : Bool) (rd a b : RegNum), Issues s c (wordLen w) u →
    let k := u.dev.core c
    let n := if dbl then 8 else 4
    let va := (k.getX a).toNat
    let off := va - windowBase
    let x := (k.getX b).toNat % 2 ^ (8 * n)
    let r := u.dev.sramRead u.now c off n up
    va % n = 0 →
    (inWindow va = true →
      (∀ f5, decodeOf w = .amo f5 dbl rd a b → k.windowBad true off n = none → r.1.bad = [] →
        Completes (.amo c w up) s fun t => t = (u.onDev fun _ => r.2).onDev fun d => d.modCore c fun k =>
          ((k.sramWrite off (leBytes n (adderInt (amoAdder f5) (8 * n) (ofLe r.1.bytes) x))).setX rd
            (atomicVal dbl (ofLe r.1.bytes))).retire) ∧
      (decodeOf w = .lr dbl rd a → k.windowBad false off n = none → r.1.bad = [] → Completes (.lr c w up) s fun t =>
        (t.dev.core c).resv = some (va / 128, u.now) ∧ (rd.val ≠ 0 → (t.dev.core c).getX rd = atomicVal dbl (ofLe r.1.bytes))) ∧
      (decodeOf w = .sc dbl rd a b → k.windowBad true off n = none → Completes (.sc c w) s fun t => ∃ k', OnlyCore u t c k' ∧
        k'.resv = none ∧ (rd.val ≠ 0 → k'.getX rd = if k.holdsLine u.now (va / 128) then 0 else 1) ∧
        k'.sram = if k.holdsLine u.now (va / 128) then (k.sramWrite off (leBytes n x)).sram else k.sram)) ∧
    (va < windowBase → ∀ asid pa v, k.asid = some asid →
      (∀ f5, decodeOf w = .amo f5 dbl rd a b → u.xlate (coreCluster c) asid va .store = (.ok pa, v) → Completes (.amo c w up) s fun t =>
        t.dev.reqs.get none v.dev.nextReq =
          some { core := c, op := .amo (amoAdder f5), va := va, addr := pa, size := n, data := x, aim := v.aim pa } ∧
        (t.dev.core c).stall = .atomic v.dev.nextReq rd dbl) ∧
      (decodeOf w = .lr dbl rd a → u.xlate (coreCluster c) asid va .load = (.ok pa, v) → v.dev.slotFree c false = true →
        Completes (.lr c w up) s fun t => (t.dev.core c).stall = .atomic v.dev.nextReq rd dbl) ∧
      (decodeOf w = .sc dbl rd a b → u.xlate (coreCluster c) asid va .store = (.ok pa, v) → Completes (.sc c w) s fun t =>
        if k.resv.isSome then t.dev.reqs.get none v.dev.nextReq =
            some { core := c, op := .sc, va := va, addr := pa, size := n, data := x, aim := v.aim pa } ∧
          (t.dev.core c).stall = .atomic v.dev.nextReq rd dbl
        else t.dev.reqs = v.dev.reqs ∧ (rd.val ≠ 0 → (t.dev.core c).getX rd = 1)))

/-- FENCE with no store under way and FENCE.I retire and do nothing else; a FENCE with one waits. A response carries a
load's data to its register; an elapsed µs, and no shorter time, ends a reservation; `time` at CORE_TIMECMP sets the timer interrupt pending.
-/
def Obligations.OrderingAndTimersComplete : Prop :=
  ∀ (s u : State) (c : CoreIx) (w : Word32),
    (Issues s c (wordLen w) u → decodeOf w = .fence → u.dev.storesOut c = false → Completes (.fence c w) s fun t =>
      OnlyCore u t c (u.dev.core c).retire) ∧
    (Issues s c (wordLen w) u → decodeOf w = .fence → u.dev.storesOut c = true → Completes (.fence c w) s fun t =>
      OnlyCore u t c { u.dev.core c with stall := .fence }) ∧
    (Issues s c (wordLen w) u → decodeOf w = .fenceI → Completes (.fenceI c w) s fun t => OnlyCore u t c (u.dev.core c).retire) ∧
    (∀ id q v rd form, s.dev.reqs.get none id = some q → q.st = .done (.ok v) → q.op = .read → q.fill = none → q.core = c →
      (s.dev.core c).stall = .load id rd form false → rd.val ≠ 0 → form < 8 → Completes (.memoryResponse id) s fun t =>
        (t.dev.core c).stall = .none ∧ (t.dev.core c).pc = (s.dev.core c).pc + 4 ∧ t.dev.reqs.get none id = none ∧
        (form = 3 → (t.dev.core c).getX rd = BitVec.ofNat 64 v) ∧ OtherCoresKept s t c ∧ VolatileOnly s t) ∧
    (∀ r, (s.dev.core c).resv = some r →
      (r.2 + 1000 < s.now → Completes (.reservationTimeout c) s fun t => OnlyCore s t c { s.dev.core c with resv := none }) ∧
      (s.now ≤ r.2 + 1000 → Completes (.reservationTimeout c) s fun t => OnlyCore s t c (s.dev.core c))) ∧
    ((s.dev.core c).timecmp.toNat ≤ s.now → Completes (.timecmpMatch c) s fun t =>
      OnlyCore s t c { s.dev.core c with mtip := true })

/-- Taking a trap: mepc, mcause and mtval, MPIE and MPP, machine mode at mtvec, the reservation lost, and the frame in
the next of sixteen places of the control area. ECALL traps with cause 8 from user mode and 11 from machine mode; the
enabled pending interrupt of highest priority is taken as a trap with its code and the interrupt bit. -/
def Obligations.TrapsAreTaken : Prop :=
  (∀ (k : Core) (now : Nat) (cause tval : Word) (def_ : Bool) (fr : Word),
     let t := k.trap now cause tval def_ fr
     t.mepc = k.pc ∧ t.mcause = cause ∧ t.mtval = tval ∧ t.mach = true ∧ bit t.mstatus 3 = false ∧
     bit t.mstatus 7 = bit k.mstatus 3 ∧ fld t.mstatus 12 11 = (if k.mach then 3 else 0) ∧ t.resv = none ∧ t.stall = .none ∧
     (bit cause 63 = false → t.pc = k.mtvec &&& 0xFFFFFFFFFFFFFFFC) ∧ t.trapSeq = (k.trapSeq + 1) % 2 ^ 32 ∧
     t.x = k.x ∧ t.f = k.f ∧ t.fcsr = k.fcsr ∧ t.task = k.task ∧
     (∀ a, a < controlBase + 64 * (t.trapSeq % 16) ∨ controlBase + 64 * (t.trapSeq % 16) + 64 ≤ a → t.sram.cell a = k.sram.cell a) ∧
     (∀ i < 64, t.sram.cell (controlBase + 64 * (t.trapSeq % 16) + i) =
       some (BitVec.ofNat 8 (k.frame now cause tval t.trapSeq fr / 256 ^ i)))) ∧
  (∀ (s u : State) (c : CoreIx),
     (Issues s c 4 u → exec (.environmentCall c) s = .next (u.trap c (if (u.dev.core c).mach then 11 else 8) 0)) ∧
     (∀ i, s.interrupt c = some i → s.coreUp c = true → (s.dev.core c).stall = .none → Completes (.interruptTake c) s fun t =>
       t = s.trap c (BitVec.ofNat 64 (2 ^ 63 + i)) 0 ∧ (t.dev.core c).mcause = BitVec.ofNat 64 (2 ^ 63 + i) ∧
       (t.dev.core c).mepc = (s.dev.core c).pc ∧ (i = 7 ∨ i = 11 ∨ i = 16 ∨ i = 17)))

/-- TASK_SUBMIT through the window of an enabled queue with room is answered 0 and, the queue being stopped, adds one
waiting task; with the ring full it is answered 1, counted in DROPS and recorded as a False start; from a core's control
area the result is kept for the core. The same from a core's control area: the store retires and SUBMIT_RESULT holds the
answer. What the head of a stopped queue does meanwhile is log entry 72. -/
def Obligations.TaskSubmissionCompletes : Prop :=
  (∀ (s : State) (o : Origin) (p : PartIx) (q : QueueIx) (last : Word), s.mayWrite o (.resSubmit p q 7) →
     s.nv.part.enabled p = true → s.dev.partUp p = true → s.dev.queueOn p q = true →
     (s.dev.waiting p q < s.dev.ringSize p q → s.dev.waiting p q < 8191 → Completes (.taskSubmit (.window o last) p q) s fun t =>
       t.dev.submRes.get 0 (submKey p q o 0) = 0 ∧ t.clk = s.clk ∧ t.nv = s.nv ∧
       (s.dev.stopped p q = true → t.dev.waiting p q = s.dev.waiting p q + 1 ∧ t.dev.stopped p q = true ∧
         RegsKept s t (.resQstat p q :: errRegs .multiMatch))) ∧
     (s.dev.ringSize p q ≤ s.dev.waiting p q → Completes (.taskSubmit (.window o last) p q) s fun t =>
       t.dev.submRes.get 0 (submKey p q o 0) = 1 ∧ t.dev.waiting p q = s.dev.waiting p q ∧ Recorded s t .falseStart ∧
       fld (t.dev.reg (.resQstat p q)) 47 32 = min (fld (s.dev.reg (.resQstat p q)) 47 32 + 1) 0xFFFF ∧ VolatileOnly s t ∧
       RegsKept s t (.resQstat p q :: errRegs .falseStart))) ∧
  (∀ (s u v : State) (c : CoreIx) (p : PartIx) (q : QueueIx) (n k : Nat) (w : State), Issues s c 4 u → (u.dev.core c).mach = true →
     u.controlRead c 0x3FF800 64 = (n, v) → v.submit p q (natWords 8 n) (idCore v.dev.devId c) = (k, w) →
     Completes (.taskSubmit (.core c) p q) s fun t => (t.dev.core c).submitRes = BitVec.ofNat 64 k ∧
       (t.dev.core c).pc = (w.dev.core c).pc + 4 ∧ OtherCoresKept w t c ∧ VolatileOnly w t ∧ RegsKept w t [])

/-- A slot of a queue's head that names a live buffer is held and the head goes on to its next slot; a head or a
recompute task that has waited for space until the allocation timeout fails with NOSPACE. -/
def Obligations.HeadSlotsComplete : Prop :=
  ∀ (s : State) (p : PartIx) (q : QueueIx) (n h : Nat) (out last : Bool) (b : Buf), s.dev.partUp p = true →
    ((s.dev.queue p q).stage = .slots n → descSlot (s.dev.queue p q).desc n = some (h, out, last) → s.bufPeek h = some b → b.state = 1 →
      Completes (.bufferSlotResolve (.queue p q)) s fun t =>
        (t.dev.queue p q).held = (s.dev.queue p q).held ++ [h] ∧
        (t.dev.queue p q).stage = slotStage (s.dev.queue p q).desc (n + 1) ∧ (t.dev.queue p q).waitFor = none ∧
        RegsKept s t (errRegs .multiMatch) ∧ t.nv = s.nv ∧ t.clk = s.clk) ∧
    ((s.dev.queue p q).space = true → Completes (.allocWaitTimeout (.queue p q)) s fun t =>
      t.dev.stopped p q = true ∧ t.dev.waiting p q = s.dev.waiting p q - 1 ∧
      (fld (s.dev.reg (.resQfail p q)) 47 40 = 0 → fld (t.dev.reg (.resQfail p q)) 47 40 = 3 ∧
        fld (t.dev.reg (.resQfail p q)) 63 52 = 0xFFF) ∧
      RegsKept s t (.resQstat p q :: .resQfail p q :: errRegs .multiMatch) ∧ t.nv = s.nv ∧ t.clk = s.clk) ∧
    (∀ i r, (s.dev.dispOf p).recomp[i]? = some r → r.space = true →
      exec (.allocWaitTimeout (.recomp p i)) s = .next (State.failRecomp none 256 r.handle s))

/-- A free core is given the head its dispatcher picks: it enters the task at ENTRY in user mode with only interrupt 17
enabled. Which free core is taken is a free choice (log entry 73). -/
def Obligations.TaskAssignCompletes : Prop :=
  ∀ (s : State) (c : CoreIx) (p : PartIx) (q : QueueIx) (g : Fin 16), s.coreFree c = true → s.pick c = some (.head p q, g) →
    Completes (.taskAssign c) s fun t =>
      let x := s.dev.queue p q
      let k := t.dev.core c
      k.task = some { part := p, queue := q, asid := fld (s.dev.reg (.resQcfg p q)) 61 58, group := g.val, words := x.desc,
                      held := x.held } ∧
      k.pc = BitVec.ofNat 64 (descFld x.desc 115 64) ∧ k.mach = false ∧ k.mie = setBit 0 17 true ∧ k.lcfg = lcfgWord x.desc ∧
      k.regions = x.regions ∧ t.nv = s.nv ∧ t.clk = s.clk

/-- The runtime's store to TASK_END keeps the status it derived. A task whose units are idle then ends: in success
nothing of it is left on the core; in failure its queue stops with the reason and the status. A success status after an
abort request counts as success (log entry 70). -/
def Obligations.TaskEndCompletes : Prop :=
  ∀ (s u : State) (c : CoreIx) (v : Word) (tk : Task),
    (Issues s c 4 u → (u.dev.core c).mach = true → (u.dev.core c).rtStatus = none ∨ u.dev.storesOut c = false →
      Completes (.taskEndStore c v) s fun t => ∃ k', OnlyCore u t c k' ∧ k'.pc = (u.dev.core c).pc + 4 ∧
        ((u.dev.core c).task.isSome = true → (u.dev.core c).endReq = none →
          k'.endReq = some ((u.dev.core c).rtStatus.getD v))) ∧
    ((s.dev.core c).endReq = some v → (s.dev.core c).task = some tk → s.coreUp c = true → (s.dev.core c).tqueue = [] →
      (s.dev.core c).vqueue = [] → (∀ n < 4, ((s.dev.core c).chan n).phase = .idle) →
      (v = 0 → Completes (.taskEndEffective c) s fun t => (t.dev.core c).task = none ∧ (t.dev.core c).mach = true ∧
        (t.dev.core c).endReq = none ∧ t.clk = s.clk) ∧
      (v ≠ 0 → tk.abort = none → tk.recompute = none → Completes (.taskEndEffective c) s fun t =>
        (t.dev.core c).task = none ∧ t.dev.stopped tk.part tk.queue = true ∧
        (fld (s.dev.reg (.resQfail tk.part tk.queue)) 47 40 = 0 →
          fld (t.dev.reg (.resQfail tk.part tk.queue)) 47 40 = 11 ∧
          fld (t.dev.reg (.resQfail tk.part tk.queue)) 39 32 = min v.toNat 255) ∧ t.clk = s.clk ∧ t.nv = s.nv))

/-- Queue commands: RESUME clears STOPPED and RES_QFAIL, FLUSH leaves no waiting task, ABORT raises interrupt 17 on
every running task of the queue, a write of RES_QCFG that leaves EN 0 is stored, a read of RES_QSTAT clears its counts.
-/
def Obligations.QueueCommandsComplete : Prop :=
  ∀ (s : State) (o : Origin) (p : PartIx) (q : QueueIx) (v : Word),
    (s.mayWrite o (.resQstat p q) →
      (s.dev.waiting p q = 0 → Completes (.queueResume o p q) s fun t => t.dev.stopped p q = false ∧ t.dev.reg (.resQfail p q) = 0 ∧
        VolatileOnly s t ∧ RegsKept s t [.resQstat p q, .resQfail p q]) ∧
      exec (.queueResume o p q) s = .next ((s.onDev fun d =>
        (d.modReg (.resQstat p q) fun w => setBit w 60 false).clearReg (.resQfail p q)).startHead p q) ∧
      Completes (.queueFlush o p q) s (fun t => t.dev.waiting p q = 0 ∧
        fld (t.dev.reg (.resQstat p q)) 31 16 = min (fld (s.dev.reg (.resQstat p q)) 31 16 + s.dev.waiting p q) 0xFFFF ∧
        (t.dev.queue p q).stage = .fresh ∧ RegsKept s t (.resQstat p q :: errRegs .multiMatch) ∧ t.nv = s.nv ∧ t.clk = s.clk) ∧
      Completes (.queueAbort o p q) s (fun t => VolatileOnly s t ∧ RegsKept s t [] ∧ ∀ c,
        (∀ tk, (s.dev.core c).task = some tk → tk.part = p → tk.queue = q → tk.recompute = none →
          (t.dev.core c).int17 = true ∧ (t.dev.core c).task = some { tk with
            abort := some (tk.abort.getD 9), abortAt := if tk.abort.isSome then tk.abortAt else s.now }) ∧
        ((s.dev.core c).task = none → t.dev.core c = s.dev.core c))) ∧
    (s.mayWrite o (.resQcfg p q) → bit (s.dev.reg (.resQcfg p q)) 63 = false → bit v 63 = false →
      Completes (.queueConfigWrite o p q v) s fun t =>
        t.dev.reg (.resQcfg p q) = storeTyped (.resQcfg p q) (s.dev.reg (.resQcfg p q)) v ∧ VolatileOnly s t ∧
        RegsKept s t [.resQcfg p q]) ∧
    (s.mayWrite o (.resQcfg p q) → bit (s.dev.reg (.resQcfg p q)) 63 = true → Completes (.queueConfigWrite o p q v) s fun t =>
      t.dev.reg (.resQcfg p q) = setBit (s.dev.reg (.resQcfg p q)) 63 (bit v 63) ∧ VolatileOnly s t ∧ RegsKept s t [.resQcfg p q]) ∧
    (s.mayRead o (.resQstat p q) → Completes (.resQstatRead o p q) s fun t =>
      t.dev.out = s.dev.out ++ [.read (originFn o) (Reg.resQstat p q).offset (s.dev.qstatWord p q)] ∧
      fld (t.dev.reg (.resQstat p q)) 58 48 = 0 ∧ fld (t.dev.reg (.resQstat p q)) 47 32 = 0 ∧
      fld (t.dev.reg (.resQstat p q)) 31 16 = 0 ∧ VolatileOnly s t ∧ RegsKept s t [.resQstat p q])

/-- Configuration of translation, the allocator and the pager: a root is stored while no queue uses it, pools and the
buffer table while the allocator is off, AEN when the pools fit; the sweeps change no register but the record of a remap
conflict, and nothing that survives power loss. -/
def Obligations.ResourceConfigurationCompletes : Prop :=
  ∀ (s : State) (o : Origin) (a : Fin 16) (p : PartIx) (i : Fin 4) (v : Word),
    (s.mayWrite o (.resRoot a) →
      (∀ p q, bit (s.dev.reg (.resQcfg p q)) 63 = true → fld (s.dev.reg (.resQcfg p q)) 61 58 ≠ a.val) →
      Completes (.resRootWrite o a v) s fun t => t.dev.reg (.resRoot a) = storeTyped (.resRoot a) (s.dev.reg (.resRoot a)) v ∧
        VolatileOnly s t ∧ RegsKept s t [.resRoot a]) ∧
    (s.dev.allocOn p = false →
      (s.mayWrite o (.resApool p i) → Completes (.allocatorConfigWrite o p (some i) v) s fun t =>
        t.dev.reg (.resApool p i) = storeTyped (.resApool p i) (s.dev.reg (.resApool p i)) v ∧ VolatileOnly s t ∧
        RegsKept s t [.resApool p i]) ∧
      (s.mayWrite o (.resBuft p) → Completes (.allocatorConfigWrite o p none v) s fun t =>
        t.dev.reg (.resBuft p) = storeTyped (.resBuft p) (s.dev.reg (.resBuft p)) v ∧ VolatileOnly s t ∧ RegsKept s t [.resBuft p])) ∧
    (s.mayWrite o (.resCtl p) →
      (bit v 0 = false ∨ s.dev.poolsBad s.nv.part p = false → bit v 7 = false → bit v 8 = false →
        Completes (.allocatorEnable o p v) s fun t => t.dev.reg (.resCtl p) = storeTyped (.resCtl p) (s.dev.reg (.resCtl p)) v ∧
          VolatileOnly s t ∧ RegsKept s t [.resCtl p]) ∧
      Completes (.fwdEndSweep o p) s (fun t => t = s.fwdSweep p ∧ RegsKept s t (errRegs .multiMatch) ∧ t.nv = s.nv ∧ t.clk = s.clk) ∧
      Completes (.stepEndSweep o p) s (fun t => t = s.stepSweep p ∧ RegsKept s t (errRegs .multiMatch) ∧ t.nv = s.nv ∧ t.clk = s.clk)) ∧
    (s.mayWrite o (.resPpool p) →
      let w := storeTyped (.resPpool p) (s.dev.reg (.resPpool p)) v
      (bit w 31 = false ∨ s.dev.poolBad s.nv.part p w = false → Completes (.pagerPoolWrite o p v) s fun t =>
        t.dev.reg (.resPpool p) = w ∧ VolatileOnly s t ∧ RegsKept s t [.resPpool p]))

/-- Translation: a requester's miss starts a walk at its root; the walk's read of a table descends a level; a page in
the far tier asks the pager; RES_INVAL removes every matching translation and clears BUSY once what used them has ended.
-/
def Obligations.TranslationCompletes : Prop :=
  ∀ (s : State) (r : Requester) (va : Nat) (look : Lookup) (acc : Access) (o : Origin) (v : Word) (k : ClusterIx),
    (s.needs r va look.acc = true → s.dev.walking r = false → ∀ asid, (s.dev.core (reqCore r)).asid = some asid →
      bit (s.dev.reg (.resRoot (Fin.ofNat 16 asid))) 63 = true → Completes (.translationMiss r va look) s fun t =>
        t.dev.walks = s.dev.walks ++ [{ who := r, asid := asid, va := va, acc := look.acc, level := 2,
                                        table := fld (s.dev.reg (.resRoot (Fin.ofNat 16 asid))) 51 16 * 65536 }] ∧
        VolatileOnly s t ∧ RegsKept s t []) ∧
    (∀ w u tb, s.dev.calm = true → (s.dev.walks.find? fun w => coreCluster (reqCore w.who) == k && decide (w.level ≤ 2)) = some w →
      (if s.tablePlace (w.table + 8 * vaIndex w.level w.va) then s.applyUpset (w.table + 8 * vaIndex w.level w.va) .none else s).walkStep
        w.va w.level w.table = (.next tb, u) →
      exec (.tableWalkResponse k .none) s = .next (u.onDev fun d => { d with walks := d.walks.map fun x =>
        if x.who == w.who then { x with level := w.level - 1, table := tb } else x })) ∧
    (∀ w, (s.dev.walks.find? fun w => w.who == r && w.va == va && w.acc == acc && w.level == 3) = some w →
      Completes (.demandFault r va acc) s fun t =>
        (t.dev.pager (corePart (reqCore r))).demands = (s.dev.pager (corePart (reqCore r))).demands ++
          [{ who := r, asid := w.asid, va := va, pteAt := w.table, acc := acc }] ∧
        (∀ x ∈ t.dev.walks, x.who ≠ r) ∧ VolatileOnly s t ∧ RegsKept s t []) ∧
    (s.mayWrite o .resInval → bit v 63 = true → s.dev.inval = none → Completes (.invalidate o v) s fun t =>
      bit (t.dev.reg .resInval) 62 = true ∧ t.dev.inval.isSome = true ∧
      (∀ x ∈ t.dev.walks, invalMatches v x.asid (x.va / 2 ^ 21) = false) ∧ VolatileOnly s t ∧ RegsKept s t [.resInval]) ∧
    (∀ i, s.dev.inval = some i → i.merged = false → i.waits.any s.dev.reqOpen = false →
      (i.chans.any fun e => s.dev.chanRemotes e.1 e.2) = false → Completes .invalidateDone s fun t =>
        t.dev.inval = none ∧ bit (t.dev.reg .resInval) 62 = false ∧ VolatileOnly s t ∧ RegsKept s t [.resInval])

/-- The pager: the oldest demand fault starts a move into the lowest free frame; a move whose copy is over leaves the
list of moves; a hint joins its pager's list; a page already in the stack is prefetched, pinned or unpinned in its
entry; a read of RES_PSTAT answers and clears its counts. The lines a move touches are log entry 83. -/
def Obligations.PagerCompletes : Prop :=
  ∀ (s : State) (p : PartIx) (o : Origin) (last : Word) (x : Demand) (l : List Demand) (j : Nat),
    ((s.dev.pager p).demands = x :: l → s.dev.partUp p = true → s.dev.mayMove p = true → pteRes (s.pte x.pteAt) = .far →
      s.dev.freeFrame p = some j → exec (.pageMoveStart p) s = .next (s.moveIn p .demand x.asid x.va x.pteAt j)) ∧
    (∀ (i : Fin 2) (m : Move), (s.dev.pager p).moves[i.val]? = some m → s.dev.partUp p = true →
      s.dev.calm = true → s.dev.frameBusy m.frame = false → m.inward = true → s.dev.farBroken (fld m.old 52 32 * 2 ^ 21) = none →
      let u := s.onDev fun d => d.modPager p fun g => { g with moves := g.moves.eraseIdx i.val }
      exec (.pageCopyDone p i false) s = .next ((u.endMoveIn m).releaseDemands m.pteAt)) ∧
    (let h := (s.dev.hintStage.get 0 (hintKey p o)).toNat + last.toNat * 2 ^ 64
     let p' : PartIx := Fin.ofNat 8 (nbits h 50 48)
     s.mayWrite o (.resHint p 1) → s.nv.part.enabled p' = true → s.dev.partUp p' = true → (s.dev.pager p').hints.length < 256 →
      1 ≤ hintOp h → hintOp h ≤ 4 → (∀ e ∈ (s.dev.pager p').hints, 1 ≤ hintOp e.1 ∧ hintOp e.1 ≤ 4) →
      Completes (.hintSubmit (.window o last) p) s fun t => (t.dev.pager p').hints = (s.dev.pager p').hints ++ [(h, 0)] ∧
        VolatileOnly s t ∧ RegsKept s t []) ∧
    (∀ c u v n, Issues s c 4 u → (u.dev.core c).mach = true → u.controlRead c 0x3FF850 16 = (n, v) →
      exec (.hintSubmit (.core c) p) s = .next ((v.submitHint n).retire c)) ∧
    (∀ h u, s.hintPage p 1 = (true, some h, u) → fld h.pte 61 60 = 0 → exec (.hintPrefetch p) s = .next (u.onDev fun d => d.hintStep p)) ∧
    (∀ h u, s.hintPage p 3 = (true, some h, u) → fld h.pte 61 60 = 0 →
      exec (.hintPrefetchPin p) s = .next ((u.pteOr h.at' 58).onDev fun d => d.hintStep p)) ∧
    (∀ h u, s.hintPage p 2 = (true, some h, u) → fld h.pte 61 60 = 0 → u.unmovable h.at' = false → u.dev.mayMove p = true →
      exec (.hintEvict p) s = .next ((u.moveOut p .evict h.at' (fld h.pte 31 1)).onDev fun d => d.hintStep p)) ∧
    (∀ h u, s.hintPage p 4 = (true, some h, u) → fld h.pte 61 60 ≠ 2 →
      exec (.hintUnpin p) s = .next ((u.ptePut h.at' (setBit (u.pte h.at') 58 false)).onDev fun d => d.hintStep p)) ∧
    (s.mayRead o (.resPstat p) → Completes (.resPstatRead o p) s fun t =>
      t.dev.out = s.dev.out ++ [.read (originFn o) (Reg.resPstat p).offset (s.dev.pstatWord p)] ∧
      fld (t.dev.reg (.resPstat p)) 63 48 = 0 ∧ fld (t.dev.reg (.resPstat p)) 47 32 = 0 ∧ VolatileOnly s t ∧
      RegsKept s t [.resPstat p])

/-- DMA triggers: START on an idle channel begins its chain and on a running one stays pending, a second pending one is
a False start; RESUME reruns CUR and ABANDON ends the chain of a halted channel. A transfer that is over advances DONE
and goes on to the next descriptor or ends at LAST. A descriptor that can be read, passes the checks and finds a hold
entry starts; one that fails a check halts its channel with the check's status. -/
def Obligations.DmaControlCompletes : Prop :=
  (∀ (s u : State) (c : CoreIx) (n : Fin 4) (ch : Nat), let x := (u.dev.core c).chan n.val
     (Issues s c 4 u →
       (x.phase = .idle → Completes (.dmaStart c n ch) s fun t => ∃ k', OnlyCore u t c k' ∧ k'.pc = (u.dev.core c).pc + 4 ∧
         (k'.chan n.val).phase = .begin ∧ (k'.chan n.val).cur = ch % 65536 ∧ (k'.chan n.val).status = 0 ∧
         ∀ m, m ≠ n.val → k'.chan m = (u.dev.core c).chan m) ∧
       (x.phase ≠ .idle → x.pend = none → Completes (.dmaStart c n ch) s fun t => ∃ k', OnlyCore u t c k' ∧
         k'.chan n.val = { x with pend := some (ch % 65536) }) ∧
       (x.phase ≠ .idle → x.pend.isSome = true → Completes (.dmaStart c n ch) s fun t => Recorded u t .falseStart ∧
         (t.dev.core c).chan n.val = x ∧ VolatileOnly u t) ∧
       (x.phase = .halted → Completes (.dmaResume c n) s fun t => ∃ k', OnlyCore u t c k' ∧
         (k'.chan n.val).phase = .begin ∧ (k'.chan n.val).cur = x.cur % 65536 ∧ (k'.chan n.val).done = x.done) ∧
       (x.phase = .halted → x.pend = none → Completes (.dmaAbandon c n) s fun t =>
         ((t.dev.core c).chan n.val).phase = .idle ∧ ((t.dev.core c).chan n.val).status = x.status ∧ t.clk = u.clk) ∧
       (∀ e, x.phase = .halted → x.pend = some e → Completes (.dmaAbandon c n) s fun t =>
         ((t.dev.core c).chan n.val).phase = .begin ∧ ((t.dev.core c).chan n.val).cur = e % 65536 ∧ t.clk = u.clk)) ∧
     (let y := (s.dev.core c).chan n.val
      s.coreUp c = true → y.phase = .running → y.moved = true → s.dev.chanRemotes c n.val = false → dmaSig y.desc = none →
       Completes (.dmaDescriptorComplete c n) s fun t => ∃ k', OnlyCore s t c k' ∧ (k'.chan n.val).done = (y.done + 1) % 65536 ∧
         (dmaLast y.desc = false → (k'.chan n.val).phase = .begin ∧ (k'.chan n.val).cur = (y.cur + 1) % 65536) ∧
         (dmaLast y.desc = true → y.pend = none → (k'.chan n.val).phase = .idle))) ∧
  (∀ (s : State) (c : CoreIx) (n : Fin 4), let x := (s.dev.core c).chan n.val
     let r := s.dev.sramRead s.now c (64 * x.cur) 64 .none
     let l := natWords 8 (ofLe r.1.bytes)
     s.coreUp c = true → x.phase = .begin → s.dev.chanRemotes c n.val = false → 64 * x.cur + 64 ≤ (s.dev.core c).scratch →
     r.1.bad = [] →
     (s.dev.dmaCheck c l = none → dmaSig l = none → Completes (.dmaDescriptorBegin c n) s fun t =>
       ((t.dev.core c).chan n.val).phase = .running ∧ ((t.dev.core c).chan n.val).desc = l ∧
       ((t.dev.core c).chan n.val).moved = (!dmaIsTr l && dmaLen l == 0) ∧ VolatileOnly s t) ∧
     (∀ st, s.dev.dmaCheck c l = some st → Completes (.dmaDescriptorBegin c n) s fun t =>
       ((t.dev.core c).chan n.val).phase = .halted ∧ ((t.dev.core c).chan n.val).status = st ∧ VolatileOnly s t))

/-- The command of a DMA mode: COPY, TR8, TR16, TR32, FILL, ADD. -/
def dmaCmd (mode : Fin 6) (c : CoreIx) (n : Fin 4) : Instr :=
  match mode with
  | 0 => .dmaCopy c n | 1 => .dmaTr8 c n | 2 => .dmaTr16 c n | 3 => .dmaTr32 c n | 4 => .dmaFill c n | 5 => .dmaAdd c n

/-- A transfer of a running channel whose pages translate, whose source can be read (what lies on another device has
arrived) and whose destination can be written, while no access waits at a slice and no channel is stopped, is made: the
destination gets its data and the descriptor is done. That a transfer may reach all of local SRAM is log entry 33. -/
def Obligations.DmaTransfersComplete : Prop :=
  ∀ (s : State) (c : CoreIx) (n : Fin 4) (mode : Fin 6), let x := (s.dev.core c).chan n.val
    let l := x.desc
    let srcs := (dmaSrcs l).flatMap linePieces
    s.coreUp c = true → s.dev.coreClosed c = false → x.phase = .running → x.moved = false → dmaMode l = mode.val →
    ∀ pages b s₁ src s₂ s₃, s.dmaResolve c n.val l = (some pages, b, s₁) →
      (∀ e ∈ srcs, s₁.isRemote (locOf pages (dmaSfar l) e.1) = true → ((s₁.dev.core c).chan n.val).asked.contains e.1 = true) →
      s₁.dev.calm = true → s₁.dev.chanRemotes c n.val = false →
      State.dmaReads c n.val pages (dmaSfar l) srcs s₁ = (src, [], [], s₂) → s₂.dmaContribution l pages src = none →
      State.dmaWrites c n.val l pages (fun _ => true) 0 ((dmaData l src).flatMap fun e => (s₂.dmaOut l pages e).map (·.2)) s₂ = ([], s₃) →
      Completes (dmaCmd mode c n) s fun t => ((t.dev.core c).chan n.val).moved = true ∧ t.mem = s₃.mem ∧ t.nv = s₃.nv ∧
        OtherCoresKept s₃ t c

/-- What a transfer delivers: COPY and ADD the source's bytes in order; the TR modes the transposed matrix, element (r,
c) of the source at element (c, r) of the destination; FILL the 32-bit pattern over and over. -/
def Obligations.DmaDataArranged : Prop :=
  ∀ (l : List Word) (src : List Byte),
    (dmaMode l = 0 ∨ dmaMode l = 5 → dmaData l src = [(dmaDst l, src)]) ∧
    (dmaIsTr l = true → src.length = dmaRows l * dmaCols l * dmaElem l → ∀ c < dmaCols l, ∃ row,
      (dmaData l src)[c]? = some (dmaDst l + c * dmaDstride l, row) ∧ row.length = dmaRows l * dmaElem l ∧
      ∀ r < dmaRows l, ∀ j < dmaElem l, row[r * dmaElem l + j]? = src[(r * dmaCols l + c) * dmaElem l + j]?) ∧
    (dmaMode l = 4 → dmaLen l % 4 = 0 → ∃ row, dmaData l src = [(dmaDst l, row)] ∧ row.length = dmaLen l ∧
      ∀ i < dmaLen l, row[i]? = some (BitVec.ofNat 8 (dmaParam l / 256 ^ (i % 4))))

/-- Requests at a slice: a read that reaches it, nothing being in its way, takes the next place in the order of arrival
and, its line not being in the slice, waits for DRAM; a slice that serves another request at that moment keeps it waiting;
the line's arrival answers it with the bytes, a write is carried out, the adders answer an AMO with the old value. DRAM
acknowledges the oldest line of the write-back buffer, no byte changes. -/
def Obligations.SliceRequestsComplete : Prop :=
  ∀ (s : State) (id : Nat) (q : Req) (p : PartIx) (ch : ChanIx) (up : Upset), s.dev.reqs.get none id = some q →
    s.dev.chanServes p ch = true → (s.dev.slice p ch).attempt = 0 →
    (q.st = .mesh → q.aim = .none → s.behind id q = false → q.seq = 0 → q.op = .read → s.place q.addr = .mem p ch true →
      s.dev.calm = true →
      (s.dev.inSlice (q.addr / 128) = false → Completes (.sliceRequest id { busy := false, upset := up }) s fun t =>
        t.dev.reqs.get none id = some { q with seq := s.dev.arrivals + 1, st := .dram } ∧
        t.dev.arrivals = s.dev.arrivals + 1 ∧ VolatileOnly s t ∧ RegsKept s t (errRegs .multiMatch)) ∧
      Completes (.sliceRequest id { busy := true, upset := up }) s fun t =>
        t.dev.reqs.get none id = some { q with seq := s.dev.arrivals + 1, st := .held } ∧
        (t.dev.waits.map (·.tok)) = [.req id] ∧ VolatileOnly s t ∧ RegsKept s t []) ∧
    (q.st = .dram → s.dev.lineWaits q = false → s.place q.addr = .mem p ch true → s.dev.reissues p ch = [] →
      (∀ r u, q.op = .read → s.memRead q.addr q.size = (some r, u) → r.bad = [] →
        exec (.dramResponse id .none) s = .next (u.answer id (.ok (ofLe r.bytes)))) ∧
      (∀ u, q.op = .write → s.memWrite q.addr (leBytes q.size q.data) = (true, u) →
        exec (.dramResponse id .none) s = .next (u.answer id (.ok 0)))) ∧
    (q.st = .adder → s.dev.lineWaits q = false → ∀ k old nf u, q.op = .amo k → s.roConflict q.addr q.size = false →
      s.adder q.addr k (if q.size = 8 then 14 else 13) false false (leBytes q.size q.data) = (.done old nf false, u) →
      exec (.adderOperation id .none) s = .next (u.answer id (.ok (ofLe old)))) ∧
    (∀ l r, (s.dev.slice p ch).wb = l :: r → Completes (.writebackAck p ch) s fun t => (t.dev.slice p ch).wb = r ∧
      (∀ a, t.mem.cell a = s.mem.cell a) ∧ t.nv = s.nv ∧ t.clk = s.clk ∧ RegsKept s t [])

/-- SLICE_CFG: a new split while a launch runs is refused with REFUSED set; in a quiesced partition it is adopted, the
cache share becomes invalid and the direct share unwritten. SLICE_LIVE: bits written 1 become live. The scrubber moves
on by one line of an idle slice and changes no byte; a slice that ends the last part of a Lap ends it; a Lap that has run longer
than LIMIT_S is recorded once; a
finished remap copy puts the line in its spare, which changes no byte. One remap copy at a time is log entry 82. -/
def Obligations.SliceConfigurationCompletes : Prop :=
  (∀ (s : State) (o : Origin) (p : PartIx) (v : Word) (i : Fin 390),
     (s.mayWrite o (.sliceCfg p) →
       (fld v 3 0 ≠ fld (s.dev.reg (.sliceCfg p)) 3 0 → s.dev.quiesced p = false → Completes (.sliceCfgWrite o p v) s fun t =>
         fld (t.dev.reg (.sliceCfg p)) 3 0 = fld (s.dev.reg (.sliceCfg p)) 3 0 ∧ bit (t.dev.reg (.sliceCfg p)) 4 = true ∧
         bit (t.dev.reg (.sliceCfg p)) 8 = bit v 8 ∧
         fld (t.dev.reg (.sliceCfg p)) 63 32 = (if fld v 63 32 = 0 then 1 else fld v 63 32) ∧ MemoryKept s t ∧
         RegsKept s t [.sliceCfg p]) ∧
       (fld v 3 0 ≠ fld (s.dev.reg (.sliceCfg p)) 3 0 → s.dev.quiesced p = true → fld v 3 0 ≤ 8 →
         Completes (.sliceCfgWrite o p v) s fun t => fld (t.dev.reg (.sliceCfg p)) 3 0 = fld v 3 0 ∧
           (∀ l, l / 2 ^ 29 % 8 = p.val → t.dev.cached l = none) ∧ (∀ j : Fin 390, 384 ≤ j.val → t.dev.reg (.sliceLive p j) = 0) ∧
           (∀ a, p.val * 2 ^ 36 + nearBase ≤ a → a < p.val * 2 ^ 36 + nearBase + 0x30000000 → t.mem.cell a = none) ∧
           ((∀ e ∈ s.dev.cache, linePart e.1 = p → ∀ y, e.2 = some y → y.dirty = true) →
             ∀ a, a < p.val * 2 ^ 36 + nearBase ∨ p.val * 2 ^ 36 + nearBase + 0x30000000 ≤ a → t.mem.cell a = s.mem.cell a) ∧
           (∀ l, l / 2 ^ 29 % 8 ≠ p.val → t.dev.cached l = s.dev.cached l) ∧ t.clk = s.clk)) ∧
     (s.mayWrite o (.sliceLive p i) → Completes (.liveWrite o p i v) s fun t =>
       t.dev.reg (.sliceLive p i) = s.dev.reg (.sliceLive p i) ||| v ∧ VolatileOnly s t ∧ RegsKept s t [.sliceLive p i])) ∧
  (∀ (s : State) (p : PartIx) (ch : ChanIx),
     (s.dev.partUp p = true → bit (s.dev.reg (.sliceScrub p)) 0 = true → ch.val ∉ (s.dev.lap p).slicesDone →
       s.sliceIdle p ch = true →
       (∀ pos line, s.dev.scrubNext p ch (s.dev.slice p ch).scrubAt = some (pos, line) → Completes (.scrubRead p ch .none) s fun t =>
         (t.dev.slice p ch).scrubAt = pos + 1 ∧ bit (t.dev.reg (.sliceScrub p)) 1 = (bit (s.dev.reg (.sliceScrub p)) 1 ||
           (s.dev.lap p).start.isNone) ∧ (t.dev.lap p).start = some ((s.dev.lap p).start.getD s.now) ∧ VolatileOnly s t) ∧
       (s.dev.scrubNext p ch (s.dev.slice p ch).scrubAt = none → (s.dev.lap p).slicesDone.length = 31 →
         Completes (.scrubRead p ch .none) s fun t => bit (t.dev.reg (.sliceScrub p)) 1 = false ∧
           fld (t.dev.reg (.sliceLap p)) 43 32 = (fld (s.dev.reg (.sliceLap p)) 43 32 + 1) % 4096 ∧
           (∀ c, (t.dev.slice p c).scrubAt = 0) ∧ t.dev.lap p = {} ∧ VolatileOnly s t ∧
           RegsKept s t [.sliceScrub p, .sliceLap p])) ∧
     (∀ t0, (s.dev.lap p).start = some t0 → (s.dev.lap p).overdue = false → fld (s.dev.reg (.sliceScrub p)) 31 16 ≠ 0 →
       t0 + 1000000000 * fld (s.dev.reg (.sliceScrub p)) 31 16 < s.now → Completes (.lapOverdue p) s fun t => bit (t.dev.reg (.sliceScrub p)) 2 = true ∧ (t.dev.lap p).overdue = true ∧
         Recorded s t .scrubOverdue ∧ VolatileOnly s t ∧ RegsKept s t (.sliceScrub p :: errRegs .scrubOverdue)) ∧
     (∀ i line (h : 8 * ch.val + i < 256), i < 8 → (s.dev.slice p ch).copying = some (i, line) →
       (s.dev.slice p ch).cands = [] → s.dev.waits = [] → Completes (.remapCopyDone p ch) s fun t =>
         t.dev.reg (.sliceRemap p ⟨8 * ch.val + i, h⟩) =
           setBit (setBit (remapFields (line % 2 ^ 36)) 61 ((List.range 4).any fun j => (s.dramBad (line + 32 * j)).isSome)) 63 true ∧
         (t.dev.slice p ch).copying = none ∧ Recorded s t .remap ∧ (∀ a, t.mem.cell a = s.mem.cell a) ∧ t.clk = s.clk ∧
         RegsKept s t (.sliceRemap p ⟨8 * ch.val + i, h⟩ :: errRegs .remap)))

/-- A channel: RETRAIN or a lost lock starts a retrain, counted, nothing being held yet; its end within the limit of a
hold keeps the time since the first request was held; a hold that has lasted too long answers the control processors'
held requests with errors and tries again, three times; a channel that has not trained stays as it is; OFFLINE follows the
register; CRCERR clears on a read; a refresh that is due is deferred at most 8 times. -/
def Obligations.StackChannelsComplete : Prop :=
  ∀ (s : State) (o : Origin) (p : PartIx) (ch : ChanIx) (layer : Fin 7) (dl : Fin 6) (bank : Fin 16) (busy : Bool) (v : Word),
    let x := s.dev.slice p ch
    let started (t : State) : Prop := (t.dev.slice p ch).attempt = 1 ∧ (t.dev.slice p ch).heldAt = 0 ∧
      bit (t.dev.reg (.stackChstat p ch)) 5 = true ∧
      fld (t.dev.reg (.stackChstat p ch)) 63 48 = min (fld (s.dev.reg (.stackChstat p ch)) 63 48 + 1) 0xFFFF ∧
      VolatileOnly s t ∧ RegsKept s t [.stackChstat p ch]
    (x.attempt = 0 →
      (s.mayWrite o (.stackChctl p ch) → Completes (.stackRetrain o p ch) s started) ∧
      (s.dev.partUp p = true → layer.val ≤ s.nv.part.layers → bit (s.dev.reg (.stackChstat p ch)) 7 = false →
        Completes (.pllLockLoss p ch layer) s started)) ∧
    (let hold := if x.heldAt = 0 then 0 else s.now + 1 - x.heldAt
     x.attempt ≠ 0 → hold ≤ holdLimit → ¬(0 ∈ x.refBad ∧ 1 ∈ x.refBad) → (∀ u, (s.dev.link p u).moves = false) →
     s.dev.waits = [] ∨ s.chanReqs p ch (· == .dram) ≠ [] → Completes (.channelRetrainEnd p ch true) s fun t =>
      (t.dev.slice p ch).attempt = 0 ∧ bit (t.dev.reg (.stackChstat p ch)) 5 = false ∧
      (t.dev.slice p ch).reissue = s.chanReqs p ch (· == .dram) ∧ t.dev.waits = s.dev.waits ∧
      fld (t.dev.reg (.stackChstat p ch)) 47 40 = min (hold / 1000) 255 ∧ VolatileOnly s t ∧ RegsKept s t [.stackChstat p ch]) ∧
    exec (.channelRetrainEnd p ch false) s = .next s ∧
    (x.attempt ≠ 0 → x.heldAt ≠ 0 → x.heldAt + holdLimit ≤ s.now + 1 →
      (x.attempt < 3 → Completes (.retrainHoldTimeout p ch) s fun t => (t.dev.slice p ch).attempt = x.attempt + 1 ∧
        (t.dev.slice p ch).heldAt = 0 ∧
        (∀ w ∈ s.dev.waits, w.hold = .retrain → sliceNo p ch ∈ w.slices → ∀ id, w.tok = .req id → ∀ q, s.dev.reqs.get none id = some q →
          t.dev.reqs.get none id = some { q with st := .done .error }) ∧ Recorded s t .chanHold ∧ VolatileOnly s t ∧
        RegsKept s t (errRegs .chanHold)) ∧
      (3 ≤ x.attempt → Completes (.retrainHoldTimeout p ch) s fun t => (t.dev.slice p ch).attempt = 0 ∧
        bit (t.dev.reg (.stackChstat p ch)) 7 = true ∧ bit (t.dev.reg (.stackChstat p ch)) 5 = false ∧ Recorded s t .chanHold ∧
        Recorded s t .chanDown ∧ VolatileOnly s t ∧ RegsKept s t (.stackChstat p ch :: errRegs .chanHold ++ errRegs .chanDown))) ∧
    (s.mayWrite o (.stackChctl p ch) → bit v 0 = false → Completes (.stackOfflineWrite o p ch v) s fun t =>
      t.dev.reg (.stackChctl p ch) = v &&& 4 ∧ bit (t.dev.reg (.stackChstat p ch)) 6 = bit v 2 ∧ VolatileOnly s t ∧
      RegsKept s t [.stackChctl p ch, .stackChstat p ch]) ∧
    (s.mayRead o (.stackChstat p ch) → Completes (.stackChstatRead o p ch) s fun t =>
      t.dev.out = s.dev.out ++ [.read (originFn o) (Reg.stackChstat p ch).offset (s.dev.reg (.stackChstat p ch))] ∧
      fld (t.dev.reg (.stackChstat p ch)) 31 16 = 0 ∧ VolatileOnly s t ∧ RegsKept s t [.stackChstat p ch]) ∧
    (let k := 16 * dl.val + bank.val
     s.dev.partUp p = true → dl.val < s.nv.part.layers → x.attempt = 0 →
     8 ≤ x.deferral.get 0 k ∨ x.dueAt.get 0 k + s.dev.refreshInterval p dl.val ≤ s.now → Completes (.refreshDue p ch dl bank busy) s fun t =>
      (t.dev.slice p ch).dueAt.get 0 k = s.now ∧
      (t.dev.slice p ch).deferral.get 0 k = (if busy && decide (x.deferral.get 0 k < 8) then x.deferral.get 0 k + 1 else 0) ∧
      (∀ j, j ≠ k → (t.dev.slice p ch).deferral.get 0 j = x.deferral.get 0 j) ∧ VolatileOnly s t ∧ RegsKept s t [])

/-- Coupling links: a beat that passes its CRC joins the last 8 of its lane, one that fails it counts and is requested again;
the next link in order that tests clean advances TESTS and writes no entry;
a periodic failure makes the link suspect with a report; a clean confirmation clears the suspicion, a failed one starts
a retrain. Margining: START within the limits sets BUSY, outside them REFUSED; a finished sweep clears BUSY, sets DONE,
gives the grid and fills STACK_EYE with its points in order. The bounds of START are read in log entry 56, the CRC's bit
order in log entry 30. -/
def Obligations.CouplingTestsComplete : Prop :=
  (∀ (s : State) (p : PartIx) (u : Fin 224) (lane : Fin 64) (pay chk : Nat) (tt : LinkTest),
     let x := s.dev.link p u.val
     let y := s.dev.link p tt.unit
     let w := s.dev.reg (.stackStptr p)
     let st := Reg.stackChstat p (linkChan tt.unit)
     (s.dev.partUp p = true → s.nv.part.hasLink u.val = true → lane.val < linkLanes x u.val → crc12 500 pay 0 = chk % 4096 →
       Completes (.couplingBeatReceive p u lane pay chk) s fun t =>
         (t.dev.link p u.val).sent.get [] lane.val =
           (let l := x.sent.get [] lane.val ++ [pay % 2 ^ 500]
            l.drop (l.length - 8)) ∧
         lane.val ∉ (t.dev.link p u.val).again ∧ (t.dev.link p u.val).suspect = x.suspect ∧ VolatileOnly s t ∧ RegsKept s t []) ∧
     (s.dev.partUp p = true → s.nv.part.hasLink u.val = true → lane.val < linkLanes x u.val → crc12 500 pay 0 ≠ chk % 4096 →
       Completes (.couplingBeatReceive p u lane pay chk) s fun t =>
         fld (t.dev.reg (.stackChstat p (linkChan u.val))) 31 16 =
           min (fld (s.dev.reg (.stackChstat p (linkChan u.val))) 31 16 + 1) 0xFFFF ∧
         ((t.dev.link p u.val).suspect = true ↔ x.suspect = true ∨
           16 < ((x.failTimes.filter fun f => decide (s.now ≤ f + 1000000)).length + 1)) ∧
         lane.val ∈ (t.dev.link p u.val).again ∧ (t.dev.link p u.val).sent = x.sent ∧
         VolatileOnly s t ∧ RegsKept s t [.stackChstat p (linkChan u.val)]) ∧
     (s.mayTest p tt.unit = true → s.dev.refreshWaits p (linkChan tt.unit) = false → tt.vias = [] → tt.guard = 0 →
       (tt.coils = [] →
         (tt.unit = s.nextSlot p → Completes (.periodicTestSlot p tt) s (fun t => fld (t.dev.reg (.stackStptr p)) 63 32 = (fld w 63 32 + 1) % 2 ^ 32 ∧
           (t.dev.link p tt.unit).suspect = y.suspect ∧ (t.dev.link p tt.unit).spares = y.spares ∧ VolatileOnly s t ∧
           RegsKept s t [.stackStptr p])) ∧
         (y.suspect = true → y.onVias = false → Completes (.confirmTest p tt) s fun t => (t.dev.link p tt.unit).suspect = false ∧
           (t.dev.link p tt.unit).failTimes = [] ∧ VolatileOnly s t)) ∧
       (tt.coils ≠ [] → y.onVias = false →
         (tt.unit = s.nextSlot p → Completes (.periodicTestSlot p tt) s (fun t => (t.dev.link p tt.unit).suspect = true ∧
           fld (t.dev.reg (.stackStptr p)) 63 32 = (fld w 63 32 + 1) % 2 ^ 32 ∧
           fld (t.dev.reg (.stackStptr p)) 5 0 = (fld w 5 0 + 1) % 64 ∧ VolatileOnly s t)) ∧
         (y.suspect = true → (s.dev.slice p (linkChan tt.unit)).attempt = 0 → Completes (.confirmTest p tt) s fun t =>
           (t.dev.link p tt.unit).moves = true ∧ (t.dev.slice p (linkChan tt.unit)).attempt = 1 ∧ bit (t.dev.reg st) 5 = true ∧
           VolatileOnly s t)))) ∧
  (∀ (s : State) (o : Origin) (p : PartIx) (v : Word) (points : List Word32),
     let w := storeTyped (.stackMctl p) (s.dev.reg (.stackMctl p)) (setBit v 63 true)
     (s.mayWrite o (.stackMctl p) →
       (s.dev.sweepRefused p w = true → Completes (.marginSweepStart o p v) s fun t =>
         t.dev.reg (.stackMctl p) = setBit w 60 true ∧ VolatileOnly s t ∧ RegsKept s t [.stackMctl p]) ∧
       (s.dev.sweepRefused p w = false → Completes (.marginSweepStart o p v) s fun t =>
         t.dev.reg (.stackMctl p) = setBit w 62 true ∧ t.dev.sweeps.get 0 p.val = s.dev.reg (.stackMrange p) ∧ VolatileOnly s t ∧
         RegsKept s t [.stackMctl p])) ∧
     (∀ nt nv, bit (s.dev.reg (.stackMctl p)) 62 = true → sweepGrid (s.dev.sweeps.get 0 p.val) = some (nt, nv) →
       points.length = nt * nv → Completes (.marginSweepDone p points) s fun t =>
         bit (t.dev.reg (.stackMctl p)) 62 = false ∧ bit (t.dev.reg (.stackMctl p)) 61 = true ∧
         fld (t.dev.reg (.stackMstat p)) 39 32 = nt ∧ fld (t.dev.reg (.stackMstat p)) 47 40 = nv ∧
         (∀ i (h : i < points.length), fld (t.dev.reg (.stackEye p (Fin.ofNat 2048 (i / 2)))) (32 * (i % 2) + 31) (32 * (i % 2)) =
           eyeEntry points[i]) ∧
         VolatileOnly s t ∧
         RegsKept s t (.stackMctl p :: .stackMstat p :: (List.finRange 2048).map (Reg.stackEye p))))

/-- The registers of an Anchor: ANCH_CTL is stored in IDLE, elsewhere only HOLD is; the tables' registers, ANCH_HP and
TRAIN are stored while idle and refused otherwise; reads of ANCH_STAT and ANCH_CLAMP clear their counts; an unknown code
sets BADCMD; ABANDON of a lost step returns to IDLE. -/
def Obligations.AnchorRegistersComplete : Prop :=
  ∀ (s : State) (o : Origin) (p : PartIx) (v : Word) (off : Nat) (ls : Bool),
    let st := s.dev.anchState p
    let w := s.dev.reg (.anchStat p)
    let refused (t : State) : Prop := t.dev.reg (.anchStat p) = setBit w 55 true ∧ VolatileOnly s t ∧ RegsKept s t [.anchStat p]
    (s.mayWrite o (.anchCtl p) →
      (st = 0 → bit w 59 = false → Completes (.anchCtlWrite o p v) s fun t => t.dev.reg (.anchCtl p) = v ∧ VolatileOnly s t ∧
        RegsKept s t [.anchCtl p]) ∧
      (st ≠ 0 → Completes (.anchCtlWrite o p v) s fun t =>
        t.dev.reg (.anchCtl p) = setBit (s.dev.reg (.anchCtl p)) 13 (bit v 13) ∧
        (bit (t.dev.reg (.anchStat p)) 55 = true ↔
          bit w 55 = true ∨ setBit v 13 false ≠ setBit (s.dev.reg (.anchCtl p)) 13 false) ∧
        VolatileOnly s t ∧ RegsKept s t [.anchCtl p, .anchStat p])) ∧
    (∀ r, Reg.ofAnch p off = some r → s.mayWrite o r →
      ((r = .anchRules p ∨ r = .anchRelay p ∨ ∃ x j, r = .anchHp p x j) →
        (st = 0 → Completes (.anchConfigWrite o p off v) s fun t => t.dev.reg r = storeTyped r (s.dev.reg r) v ∧
          VolatileOnly s t ∧ RegsKept s t [r]) ∧
        (st ≠ 0 → Completes (.anchConfigWrite o p off v) s refused)) ∧
      (r = .anchSeed p → st = 0 → Completes (.anchConfigWrite o p off v) s fun t =>
        t.dev.reg r = fput 31 0 (if fld v 31 0 = 0 then 1 else fld v 31 0) ∧ VolatileOnly s t ∧ RegsKept s t [r])) ∧
    (let r := if ls then Reg.trainLs else .trainStep
     s.mayWrite o r →
      ((∀ q, s.dev.anchState q = 0) → Completes (.trainWrite o ls v) s fun t =>
        t.dev.reg r = storeTyped r (s.dev.reg r) v ∧ MemoryKept s t ∧ RegsKept s t [r]) ∧
      (st ≠ 0 → Completes (.trainWrite o ls v) s fun t => t.dev.reg .trainLs = setBit (s.dev.reg .trainLs) 8 true ∧
        MemoryKept s t ∧ RegsKept s t [.trainLs])) ∧
    (s.mayRead o (.anchStat p) → Completes (.anchStatRead o p) s fun t =>
      t.dev.out = s.dev.out ++ [.read (originFn o) (Reg.anchStat p).offset w] ∧ fld (t.dev.reg (.anchStat p)) 47 16 = 0 ∧
      fld (t.dev.reg (.anchStat p)) 63 48 = fld w 63 48 ∧ VolatileOnly s t ∧ RegsKept s t [.anchStat p]) ∧
    (s.mayRead o (.anchClamp p) → Completes (.anchClampRead o p) s fun t =>
      t.dev.out = s.dev.out ++ [.read (originFn o) (Reg.anchClamp p).offset (s.dev.reg (.anchClamp p))] ∧
      fld (t.dev.reg (.anchClamp p)) 63 32 = 0 ∧ VolatileOnly s t ∧ RegsKept s t [.anchClamp p]) ∧
    (s.mayWrite o (.anchCmd p) →
      (fld v 63 60 = 0 ∨ 4 < fld v 63 60 → Completes (.anchCmdBadcmd o p v) s fun t =>
        t.dev.reg (.anchStat p) = setBit w 54 true ∧ VolatileOnly s t ∧ RegsKept s t [.anchStat p]) ∧
      (st = 4 ∨ st = 6 → bit w 59 = false → Completes (.anchorAbandon o p) s fun t => t.dev.anchState p = 0 ∧
        t.dev.reg (.anchStat p) = setFld w 63 61 0 ∧ VolatileOnly s t ∧ RegsKept s t [.anchStat p]) ∧
      (st ≠ 4 → st ≠ 6 → Completes (.anchorAbandon o p) s refused))

/-- A step of an Anchor up to its vote. START with consistent tables samples the step and enters FOLD; not enabled it is
a False start, in a step it stays pending. A contribution an entry does not take is counted and changes no byte; one
that it takes is added and counted. A rule whose entries are consumed is folded; the last one, or the time limit, leads
to the vote. Nothing waits at a slice meanwhile. An entry that R227 does not allow makes the tables inconsistent (log
entry 42). -/
def Obligations.AnchorFoldCompletes : Prop :=
  ∀ (s : State) (p : PartIx) (b : StartBy),
    let a := s.dev.anchor p
    let w := s.dev.reg (.anchStat p)
    let c := s.dev.reg (.anchCtl p)
    ((∃ o, b = .cmd o ∧ s.mayWrite o (.anchCmd p)) ∨ (b = .release ∧ a.trigs ≠ 0 ∧ s.dev.partUp p = true) →
      (bit c 12 = true → s.dev.anchState p = 0 → bit c 13 = false → s.tablesOk p = true → bit (s.dev.reg (.anchRules p)) 0 = false →
        Completes (.anchorStart b p) s fun t => t.dev.anchState p = 1 ∧ bit (t.dev.reg (.anchStat p)) 59 = false ∧
          fld (t.dev.reg (.anchStat p)) 58 57 = 0 ∧ fld (t.dev.reg (.anchStat p)) 15 0 = 0 ∧
          (t.dev.anchor p).step = fld (s.dev.reg .trainStep) 31 0 ∧ (t.dev.anchor p).t = fld (s.dev.reg .trainStep) 63 32 ∧
          (t.dev.anchor p).lsExp = sint 8 (fld (s.dev.reg .trainLs) 7 0) ∧ (t.dev.anchor p).armed = true ∧
          (t.dev.anchor p).ready = false ∧ (t.dev.anchor p).folded = [] ∧ VolatileOnly s t ∧ RegsKept s t [.anchStat p]) ∧
      (bit c 12 = true → s.dev.anchState p ≠ 0 ∨ bit c 13 = true → bit w 59 = false → Completes (.anchorStart b p) s fun t =>
        t.dev.reg (.anchStat p) = setBit w 59 true ∧ VolatileOnly s t ∧ RegsKept s t [.anchStat p]) ∧
      (bit c 12 = false → Completes (.anchorStart b p) s fun t =>
        fld (t.dev.reg (.anchStat p)) 47 32 = min (fld w 47 32 + 1) 0xFFFF ∧ Recorded s t .falseStart ∧ VolatileOnly s t ∧
        RegsKept s t (.anchStat p :: errRegs .falseStart))) ∧
    (s.dev.anchState p = 1 → a.armed = true → a.ready = false → s.dev.calm = true →
      let wiped := (s.relays p).foldl (fun s e => (s.anchFill p e.base (4 * e.nelem)).putRelay p e.idx 0 1) s
      exec (.relayArmed p) s = .next ((s.relays p).foldl (fun s e => match e.ready with
        | some h => s.arrive (some p) (hurdleIx h) 0
        | none => s) (wiped.onDev fun d => d.modAnchor p fun a => { a with ready := true }))) ∧
    (∀ addr op fmt data e, s.relayOf addr = some (p, e) →
      (e.state ≠ 1 ∨ op ≠ 0 ∨ fmt ≠ e.fmt → Completes (.relayContribution p addr op fmt data) s fun t =>
        fld (t.dev.reg (.anchStat p)) 31 16 = min (fld w 31 16 + 1) 0xFFFF ∧ Recorded s t .relayStray ∧ VolatileOnly s t ∧
        RegsKept s t (.anchStat p :: errRegs .relayStray)) ∧
      (e.state = 1 → op = 0 → fmt = e.fmt → e.got + data.length / 2 ≤ e.expect * e.nelem →
        addr + 2 * data.length ≤ e.base + 4 * e.nelem → e.base ≤ addr → ∀ old u,
        s.adder addr 0 12 false false (widen fmt data) = (.done old false false, u) →
        exec (.relayContribution p addr op fmt data) s = .next (u.putRelay p e.idx (e.got + data.length / 2)
          (if e.got + data.length / 2 = e.expect * e.nelem then 2 else 1)))) ∧
    (∀ i r, s.rule p (s.relayEntry p i).rule = some r → s.dev.anchState p = 1 → s.dev.partClosed p = false → a.ready = true → s.dev.calm = true →
      i < s.dev.relayCount p → (s.relayEntry p i).state = 2 →
      exec (.relayEntryConsumed p i) s = .next (
        ((((List.range ((s.relayEntry p i).nelem / 32)).foldl (State.foldBlock p r (s.relayEntry p i)) s).anchWrite p
          (s.relayEntry p i).base (List.replicate (4 * (s.relayEntry p i).nelem) 0)).putRelay p i (s.relayEntry p i).got 3))) ∧
    (∀ n r, s.rule p n = some r → r.matrix = false → s.dev.anchState p = 1 → s.dev.partClosed p = false → a.ready = true → s.dev.calm = true →
      n < s.dev.ruleCount p → n ∉ a.folded → s.ruleReady p n = true → Completes (.ruleFolded p n) s fun t =>
        (t.dev.anchor p).folded = a.folded ++ [n] ∧ fld (t.dev.reg (.anchStat p)) 15 0 = (fld w 15 0 + 1) % 65536 ∧
        VolatileOnly s t ∧ (a.folded.length + 1 ≠ s.dev.ruleCount p → t.dev.anchState p = 1 ∧ RegsKept s t [.anchStat p]) ∧
        (a.folded.length + 1 = s.dev.ruleCount p → t.dev.anchState p = 2 ∧ (t.dev.anchor p).voted = true)) ∧
    (s.dev.anchState p = 1 → fld c 5 0 ≠ 0 → Completes (.foldTimeout p) s fun t => t.dev.anchState p = 2 ∧
      bit (t.dev.reg (.anchStat p)) 57 = true ∧ (t.dev.anchor p).voted = true ∧ t.clk = s.clk ∧ t.nv = s.nv)

/-- The vote and what follows. A clean outcome flips BANK and starts APPLY, a skip returns to IDLE, in either case STEP
advances, T only on a clean one (a full count and a CLEAN beyond GROW_N as log entry 46 says); a lost vote and one
without an outcome in time ask for attention; RESOLVE in UNDECIDED acts as the outcome; after APPLY the Anchor is in
IDLE. -/
def Obligations.AnchorVoteCompletes : Prop :=
  ∀ (s : State) (p : PartIx) (o : Origin) (v : Word),
    let bank (x : State) (q : PartIx) : Bool := bit (x.dev.reg (.anchStat q)) 60
    let step := (s.dev.anchor p).step
    let st := s.dev.reg .trainStep
    let ls := s.dev.reg .trainLs
    (∀ r, s.dev.decidedAnchors (some false) [2, 5] = p :: r → Completes .voteClean s fun t =>
      (∀ q ∈ p :: r, t.dev.anchState q = 3 ∧ bank t q = !bank s q) ∧
      (∀ q, s.nv.part.enabled q = true → t.dev.reg (.anchVote q) = (fput 63 63 1 ||| fput 31 0 step)) ∧
      (fld st 31 0 = step → step + 1 < 2 ^ 32 → fld st 63 32 + 1 < 2 ^ 32 →
        fld (t.dev.reg .trainStep) 31 0 = step + 1 ∧ fld (t.dev.reg .trainStep) 63 32 = fld st 63 32 + 1) ∧
      (fld st 31 0 = step → fld ls 62 48 ≠ 0 → fld ls 62 48 ≤ fld ls 47 32 → fld (t.dev.reg .trainLs) 47 32 = 0) ∧ VolatileOnly s t) ∧
    (∀ r, s.dev.decidedAnchors (some true) [2, 5] = p :: r → (∀ q, bit (s.dev.reg (.anchStat q)) 59 = false) →
      Completes .voteSkip s fun t => (∀ q ∈ p :: r, t.dev.anchState q = 0 ∧ bank t q = bank s q) ∧
        (fld st 31 0 = step → step + 1 < 2 ^ 32 → fld (t.dev.reg .trainStep) 31 0 = step + 1 ∧
          fld (t.dev.reg .trainStep) 63 32 = fld st 63 32) ∧ VolatileOnly s t) ∧
    (s.dev.decidedAnchors none [1, 2] = [p] → Completes .voteLost s fun t => t.dev.anchState p = 4 ∧
      bit (t.dev.reg (.anchStat p)) 56 = true ∧ Recorded s t .voteAttn ∧ t.clk = s.clk ∧ t.nv = s.nv) ∧
    (s.dev.anchState p = 2 → (s.dev.anchor p).outcome = none → Completes (.voteTimeout p) s fun t => t.dev.anchState p = 5 ∧
      bit (t.dev.reg (.anchStat p)) 56 = true ∧ Recorded s t .voteAttn ∧ VolatileOnly s t ∧
      RegsKept s t (.anchStat p :: errRegs .voteAttn)) ∧
    (s.mayWrite o (.anchCmd p) →
      (s.dev.anchState p = 5 → fld v 31 0 = step →
        Completes (.anchorResolveClean o p v) s (fun t => t.dev.anchState p = 3 ∧ bank t p = !bank s p ∧
          t.dev.reg (.anchVote p) = (fput 63 63 1 ||| fput 61 61 1 ||| fput 31 0 step) ∧ VolatileOnly s t ∧
          RegsKept s t [.anchStat p, .anchVote p, .trainStep, .trainLs]) ∧
        (bit (s.dev.reg (.anchStat p)) 59 = false → Completes (.anchorResolveSkip o p v) s fun t => t.dev.anchState p = 0 ∧
          bank t p = bank s p ∧ t.dev.reg (.anchVote p) = (fput 63 63 1 ||| fput 62 62 1 ||| fput 61 61 1 ||| fput 31 0 step) ∧
          VolatileOnly s t)) ∧
      (s.dev.anchState p ≠ 5 ∨ fld v 31 0 ≠ step →
        let refused (t : State) : Prop := t.dev.reg (.anchStat p) = setBit (s.dev.reg (.anchStat p)) 55 true ∧ VolatileOnly s t ∧
          RegsKept s t [.anchStat p]
        Completes (.anchorResolveClean o p v) s refused ∧ Completes (.anchorResolveSkip o p v) s refused)) ∧
    (s.dev.anchState p = 3 → s.dev.partClosed p = false → s.dev.calm = true →
      exec (.applyDone p) s = .next ((((s.rules p).foldl (State.applyRule p) s).anchDone p).anchIdle p) ∧
      (bit (s.dev.reg (.anchStat p)) 59 = false → Completes (.applyDone p) s fun t => t.dev.anchState p = 0 ∧ bank t p = bank s p ∧
        t.clk = s.clk ∧ t.nv = s.nv))

/-- R226. TRAIN at the end of a decided vote whose step stands in TRAIN_STEP, row by row of the rule's table, where the
counts have room for one more (log entry 46 says what a full count does); two hubs with the same TRAIN and the same
decision keep the same TRAIN; a vote that is lost or undecided, and one abandoned, changes nothing in it. -/
def Obligations.TrainFollowsDecision : Prop :=
  ∀ (s : State) (p : PartIx),
    let st (x : State) : Word := x.dev.reg .trainStep
    let ls (x : State) : Word := x.dev.reg .trainLs
    let clean := fld (ls s) 47 32
    let grows : Prop := fld (ls s) 62 48 ≠ 0 ∧ clean + 1 = fld (ls s) 62 48
    let still : Prop := fld (ls s) 62 48 = 0 ∨ clean + 1 < fld (ls s) 62 48
    let roomS : Prop := fld (st s) 31 0 + 1 < 2 ^ 32
    let roomT : Prop := fld (st s) 63 32 + 1 < 2 ^ 32
    let room : Prop := roomS ∧ roomT ∧ clean + 1 < 2 ^ 16
    let exp (x : State) : Int := sint 8 (fld (ls x) 7 0)
    let rest (t : State) : Prop := VolatileOnly s t ∧ fld (ls t) 63 48 = fld (ls s) 63 48 ∧ fld (ls t) 31 8 = fld (ls s) 31 8
    let decided (x : State) (skip : Bool) : Prop := ∃ q l, x.dev.decidedAnchors (some skip) [2, 5] = q :: l ∧
      fld (st x) 31 0 = (x.dev.anchor q).step
    (decided s false → Completes .voteClean s fun t => (roomS → fld (st t) 31 0 = fld (st s) 31 0 + 1) ∧
      (roomT → fld (st t) 63 32 = fld (st s) 63 32 + 1) ∧ (grows → fld (ls t) 47 32 = 0) ∧
      (still → (clean + 1 < 2 ^ 16 → fld (ls t) 47 32 = clean + 1) ∧ exp t = exp s) ∧
      (grows → exp t = if exp s < sint 8 (fld (ls s) 31 24) then exp s + 1 else exp s) ∧ rest t) ∧
    (decided s true → Completes .voteSkip s fun t => (roomS → fld (st t) 31 0 = fld (st s) 31 0 + 1) ∧
      fld (st t) 63 32 = fld (st s) 63 32 ∧ fld (ls t) 47 32 = 0 ∧
      exp t = (if bit (ls s) 63 = true ∧ sint 8 (fld (ls s) 23 16) < exp s then exp s - 1 else exp s) ∧ rest t) ∧
    (∀ s' c t t', room → c = .voteClean ∧ decided s false ∧ decided s' false ∨ c = .voteSkip ∧ decided s true ∧ decided s' true →
      st s' = st s → ls s' = ls s → exec c s = .next t → exec c s' = .next t' → st t' = st t ∧ ls t' = ls t) ∧
    (∀ o c t, c = .voteLost ∨ c = .voteTimeout p ∨ c = .anchorAbandon o p → exec c s = .next t → st t = st s ∧ ls t = ls s)

/-- Operations of a core on a Hurdle whose bank answers: an ARRIVE below TARGET counts, at TARGET it releases and ends
the waits; a WAIT that has ended returns, another stalls; JOIN holds, ACQUIRE takes units or queues, NOTIFY registers,
ARM arms, CONFIG configures, FAIL fails; the result word reaches rd. A holder that joins again is log entry 15, NOTIFY
of an ended wait log entry 16. -/
def Obligations.CoreHurdleOperationsComplete : Prop :=
  ∀ (s u : State) (c : CoreIx) (rd : RegNum) (h : HurdleIx) (arg : Nat) (g : Option Nat), Issues s c 4 u → u.hurdleHome h = .bank →
    let k := u.dev.core c
    let x := u.dev.hurdle h.val
    let amt := if arg % 65536 = 0 then 1 else arg % 65536
    let y (t : State) : Hurdle := t.dev.hurdle h.val
    let a := HAgent.core c rd
    let done (code : Nat) (t : State) : Prop := (t.dev.core c).hrdRes = (y t).resultWord h.val code ∧ (t.dev.core c).pc = k.pc + 4 ∧
      (rd.val ≠ 0 → (t.dev.core c).getX rd = (y t).resultWord h.val code) ∧ VolatileOnly u t
    let waits (t : State) : Prop := (t.dev.core c).stall = .hurdle h rd ∧ (t.dev.core c).pc = k.pc ∧ VolatileOnly u t ∧ RegsKept u t []
    (x.mode = 1 → x.state = 1 → x.span = false → u.dev.storesOut c = false →
      (x.count + amt < x.target → Completes (.arrive a h arg) s fun t => done 0 t ∧ y t = { x with count := x.count + amt } ∧
        RegsKept u t []) ∧
      (x.target ≤ x.count + amt → x.rearm = false → Completes (.arrive a h arg) s fun t => done 0 t ∧
        (y t).gen = (x.gen + 1) % 65536 ∧ (y t).state = 2 ∧ (y t).holders = [] ∧
        ∀ c' rd', c' ≠ c → { who := .core c', gen := none } ∈ x.waits → (u.dev.core c').stall = .hurdle h rd' →
          (t.dev.core c').stall = .none)) ∧
    (u.dev.storesOut c = true → Completes (.arrive a h arg) s fun t => OnlyCore u t c { k with stall := .arrive h (arg % 65536) rd }) ∧
    (x.mode ≠ 3 →
      (∀ code, x.waitNow (g.map (· % 65536)) = some code → Completes (.wait a h g) s fun t =>
        OnlyCore u t c (k.hrdDone rd (x.resultWord h.val code))) ∧
      (x.waitNow (g.map (· % 65536)) = none →
        Completes (.wait a h g) s (fun t => waits t ∧ (y t).waits = x.waits ++ [{ who := .core c, gen := g.map (· % 65536) }]) ∧
        (u.dev.notes c < 4 → Completes (.notify a h g) s fun t => done 0 t ∧
          (y t).waits = x.waits ++ [{ who := .note c, gen := g.map (· % 65536) }]))) ∧
    Completes (.peek a h) s (fun t => OnlyCore u t c (k.hrdDone rd (x.resultWord h.val 0))) ∧
    (x.state = 1 → u.dev.coreHolds c < 11 → Completes (.join a h) s fun t => done 0 t ∧ Holder.soft c ∈ (y t).holders ∧
      RegsKept u t []) ∧
    (x.mode = 3 → x.state = 1 → x.acqs = [] →
      (amt ≤ x.count → Completes (.acquire a h arg) s fun t => done 0 t ∧ y t = { x with count := x.count - amt } ∧ RegsKept u t []) ∧
      (x.count < amt → Completes (.acquire a h arg) s fun t => waits t ∧ y t = { x with acqs := [(c, amt)] })) ∧
    (k.mach = true →
      (x.state ≠ 1 → x.mode ≠ 0 → x.span = false → Completes (.arm a h) s fun t => done 0 t ∧ (y t).state = 1 ∧ (y t).gen = x.gen ∧
        (y t).count = (if x.mode = 3 then x.target else 0) ∧ RegsKept u t []) ∧
      (∀ d, u.dev.writeCfg u.now h.val k.hrdCfgw = some d → Completes (.config a h) s fun t => done 0 t ∧ y t = d.hurdle h.val) ∧
      (x.state = 1 → x.span = false → Completes (.fail a h) s fun t => done 0 t ∧ (y t).state = 3 ∧ (y t).code = 2 ∧
        (y t).holders = [] ∧ (y t).waits = [])) ∧
    (k.mach = false → Completes (.arm a h) s (fun t => (t.dev.core c).mcause = 2 ∧ y t = x) ∧
      Completes (.config a h) s (fun t => (t.dev.core c).mcause = 2 ∧ y t = x) ∧
      Completes (.fail a h) s (fun t => (t.dev.core c).mcause = 2 ∧ y t = x))

/-- The command of an operation on a Hurdle. -/
def hurdleCmd (op : HOp) (a : HAgent) (h : HurdleIx) (arg : Nat) (g : Option Nat) : Instr :=
  match op with
  | .arrive => .arrive a h arg | .wait => .wait a h g | .peek => .peek a h | .join => .join a h | .acquire => .acquire a h arg
  | .notify => .notify a h g | .arm => .arm a h | .config => .config a h | .fail => .fail a h

/-- The same through HRD_HOP, whose result word is kept for its origin; function 0 may not ARM, CONFIG or FAIL. A
reserved operation carries out nothing. HRD_CFG and the span table are written or refused with the reason in HRD_HSTAT;
the oldest event is read. That function 0 is refused is log entry 17. -/
def Obligations.HurdleRegistersComplete : Prop :=
  ∀ (s : State) (o : Origin) (h : HurdleIx) (op : HOp) (arg : Nat) (g : Option Nat) (v : Word) (sl : Fin 256) (half : Fin 2),
    (s.mayWrite o .hrdHop →
      (op.privileged = false ∨ o ≠ .fn0 → s.hurdleHome h = .bank →
        let r := s.dev.bankHop s.now op h.val (arg % 65536) (g.map (· % 65536))
        exec (hurdleCmd op (.hop o) h arg g) s = .next (s.onDev fun _ => r.2.setHop o ((r.2.hurdle h.val).resultWord h.val r.1))) ∧
      (op.privileged = true → o = .fn0 → exec (hurdleCmd op (.hop o) h arg g) s =
        .next (s.onDev fun d => d.setHop o ((d.hurdle h.val).resultWord h.val 5))) ∧
      (HOp.ofCode (fld v 63 60) = none → Completes (.hrdHopReserved o v) s fun t => t = s.onDev fun d =>
        d.setHop o ((d.hurdle (fld v 15 0)).resultWord (fld v 15 0) 5))) ∧
    (s.mayWrite o (.hrdCfg h) →
      ((s.dev.hurdle h.val).state = 1 ∨ (s.dev.hurdle h.val).holderCount ≠ 0 ∨ s.dev.cfgAllowed h.val v = false →
        Completes (.hrdCfgWrite o h v) s fun t => t.dev.hurdles = s.dev.hurdles ∧ bit (t.dev.reg .hrdHstat) 0 = true ∧
          fld (t.dev.reg .hrdHstat) 63 48 = h.val ∧ VolatileOnly s t ∧ RegsKept s t [.hrdHstat]) ∧
      ((s.dev.hurdle h.val).state ≠ 1 → (s.dev.hurdle h.val).holderCount = 0 → s.dev.cfgAllowed h.val v = true → bit v 58 = false →
        Completes (.hrdCfgWrite o h v) s fun t => (t.dev.hurdle h.val).cfg = v &&& Reg.rw .hrdHcfg ∧
          (t.dev.hurdle h.val).state = (if fld v 63 60 = 0 then 0 else 1) ∧ (t.dev.hurdle h.val).gen = (s.dev.hurdle h.val).gen ∧
          (∀ j, j ≠ h.val → t.dev.hurdle j = s.dev.hurdle j) ∧ VolatileOnly s t ∧ RegsKept s t [])) ∧
    (s.mayWrite o (.span sl half) →
      ((∀ e ∈ s.dev.hurdles, e.2.span = true → e.2.slot ≠ sl) → Completes (.spanEntryWrite o sl half v) s fun t =>
        t.dev.reg (.span sl half) = storeTyped (.span sl half) (s.dev.reg (.span sl half)) v ∧ VolatileOnly s t ∧
        RegsKept s t [.span sl half]) ∧
      ((∃ e ∈ s.dev.hurdles, e.2.span = true ∧ e.2.slot = sl) → Completes (.spanEntryWrite o sl half v) s fun t =>
        bit (t.dev.reg .hrdHstat) 1 = true ∧ fld (t.dev.reg .hrdHstat) 47 40 = sl.val ∧ VolatileOnly s t ∧
        RegsKept s t [.hrdHstat])) ∧
    (∀ c rd u, Issues s c 4 u → Completes (.hrdEventRead c rd) s fun t => OnlyCore u t c
      (({ u.dev.core c with events := (u.dev.core c).events.tail }.setX rd ((u.dev.core c).events.head?.getD 0)).retire))

/-- The messages of a spanning Hurdle: a child's arrival is counted and held for; a release or failure decision from the
parent releases or fails the Hurdle; at the root a failure report fails it; what does not belong is counted against its
port. Where a stray message is counted is log entry 23. -/
def Obligations.SpanMessagesComplete : Prop :=
  ∀ (s : State) (n : PortIx) (m : RxMsg) (h : HurdleIx), (s.dev.port n).oldest 3 = some m → m.msg.op = 0x10 →
    h.val = m.msg.half 0 → s.hurdleHome h = .bank →
    let x := s.dev.hurdle h.val
    let e := s.dev.spanLo x.slot
    let y (t : State) : Hurdle := t.dev.hurdle h.val
    let taken (t : State) : Prop := (t.dev.port n).rx = (s.dev.port n).rx.eraseP (fun k => k.vc == 3) ∧ VolatileOnly s t
    let code := if m.msg.byte 6 = 2 then 2 else 1
    let stray (t : State) : Prop := taken t ∧ y t = x ∧
      fld (t.dev.reg (.linkPerr n)) 23 16 = min (fld (s.dev.reg (.linkPerr n)) 23 16 + 1) 255 ∧ RegsKept s t [.linkPerr n]
    (m.msg.byte 4 = 0 → x.decided = none →
      (x.span = true → bit (s.dev.spanHi x.slot) n.val = true → x.state = 1 → m.msg.half 2 = x.gen → x.passed = false →
        (∀ k ∈ x.kids, k.2 ≠ m.msg.src) → x.kids.length < fld e 27 16 → Completes (.spanArrival n) s fun t => taken t ∧
          (y t).kids = x.kids ++ [(n, m.msg.src)] ∧ Holder.link n m.msg.src ∈ (y t).holders ∧
          (y t).kidFlag = flagOp x.mode x.kidFlag (m.msg.byte 5 % 2 == 1) ∧ (y t).state = 1 ∧ RegsKept s t []) ∧
      (x.span = false → Completes (.spanArrival n) s stray)) ∧
    (m.msg.byte 4 = 1 →
      (x.span = true → bit (s.dev.spanHi x.slot) n.val = true → x.state = 1 → m.msg.half 2 = x.gen → x.sent = false →
        portIx (fld e 46 40) = none → Completes (.spanFailureReport n) s fun t => taken t ∧ (y t).state = 3 ∧ (y t).code = code ∧
          (y t).waits = []) ∧
      (x.span = false → Completes (.spanFailureReport n) s stray)) ∧
    (x.span = true → fld e 46 40 = n.val → x.state = 1 → m.msg.half 2 = x.gen →
      (m.msg.byte 4 = 2 → x.mode ≠ 1 → Completes (.spanRelease n) s fun t => taken t ∧ (y t).gen = (x.gen + 1) % 65536 ∧
        (y t).result = (m.msg.byte 5 % 2 == 1) ∧ (y t).state = (if x.rearm then 1 else 2) ∧ (y t).holders = []) ∧
      (m.msg.byte 4 = 3 → Completes (.spanFailureDecision n) s fun t => taken t ∧ (y t).state = 3 ∧ (y t).code = code ∧
        (y t).waits = []))

/-- Mailboxes from a core: a post to a channel bound to the sender and empty is accepted, stamped with identity and
epoch, and raises the doorbell; one to a full channel is answered 1, one from another sender 2 and counted; a take
clears the channel. Mailboxes from the Host: the write of word 7 posts the staged words; the receiver's read of word 7
returns it and takes the message, the other words and other readers take nothing, and Firmware takes none before READY;
BIND is written while the channel is empty, the whole write refused while it is full;
reading MBX_CH clears REFUSED. A BIND of the same value while FULL is log entry 14. -/
def Obligations.MailboxesComplete : Prop :=
  (∀ (s u : State) (c : CoreIx) (rd : RegNum) (v : Word), Issues s c 4 u →
     let k := u.dev.core c
     let off := 64 * fld v 21 6
     let ch := fld v 28 24
     (let n := fld v 43 32
      let x := u.dev.chan n ch
      let r := (k.raceView u.dev.freeCtr).read wordGran (u.dev.freeCtr + k.raceUsed) off 64
      let id := u.stampId c
      mbxSendBad v = false → off + 64 ≤ k.scratch → r.bad = [] → bit v 47 = false → u.hasReceiver n = true →
       (u.dev.bindOf n ch = id → x.full = false → Completes (.mbxSend c rd v) s fun t => (t.dev.chan n ch).full = true ∧
         (t.dev.chan n ch).db = true ∧ (t.dev.chan n ch).words =
           (fput 63 48 (u.dev.epochOf id) ||| fput 31 0 id) :: padTo 7 0 ((natWords 8 (ofLe r.bytes)).drop 1) ∧
         (t.dev.core c).pc = k.pc + 4 ∧ (rd.val ≠ 0 → (t.dev.core c).getX rd = 0) ∧ OtherCoresKept u t c ∧ VolatileOnly u t ∧
         RegsKept u t []) ∧
       (u.dev.bindOf n ch = id → x.full = true → Completes (.mbxSend c rd v) s fun t =>
         t.dev.chan n ch = { x with last := 1 } ∧ (rd.val ≠ 0 → (t.dev.core c).getX rd = 1) ∧ VolatileOnly u t ∧ RegsKept u t []) ∧
       (u.dev.bindOf n ch ≠ id → Completes (.mbxSend c rd v) s fun t =>
         t.dev.chan n ch = { x with refused := min 255 (x.refused + 1) } ∧ (rd.val ≠ 0 → (t.dev.core c).getX rd = 2) ∧
         VolatileOnly u t ∧ RegsKept u t [])) ∧
     (let n := u.mailbox c
      let x := u.dev.chan n ch
      v &&& 0xFFFFFFFFE0C0003F = 0 → off + 64 ≤ k.scratch →
       (x.full = true → Completes (.mbxRecv c rd v) s fun t => t.dev.chan n ch = { x with words := [], full := false, db := false, stale := false } ∧
         (t.dev.core c).sram = (k.sramWrite off (leBytes 64 (wordsNat x.words))).sram ∧
         (rd.val ≠ 0 → (t.dev.core c).getX rd = 0) ∧ OtherCoresKept u t c ∧ VolatileOnly u t ∧ RegsKept u t []) ∧
       (x.full = false → Completes (.mbxRecv c rd v) s fun t => OnlyCore u t c (k.setX rd 1).retire)) ∧
     (fld v 43 32 < 1024 → bit v 47 = false → bit v 23 = false → Completes (.mbxStat c rd v) s fun t =>
       OnlyCore u t c (k.setX rd (u.dev.mbxWord (fld v 43 32) ch)).retire) ∧
     (let moved (f : Chan → Nat → Chan) (t : State) : Prop := (∀ j < 32, t.dev.chan (u.mailbox c) j = f (u.dev.chan (u.mailbox c) j) j) ∧
       (t.dev.core c).pc = k.pc + 4 ∧ OtherCoresKept u t c ∧ VolatileOnly u t ∧ RegsKept u t []
      Completes (.mbxDbWrite c v) s (moved fun x j => if bit v j then x else { x with db := false }) ∧
      Completes (.mbxMaskWrite c v) s (moved fun x j => { x with mask := bit v j }))) ∧
  (∀ (s : State) (fn : Fin 2) (k4 : Fin 4) (k8 : Fin 8) (ch : ChanIx) (v : Word) (o : Origin) (n : Fin 1024),
     let id := idHost s.dev.devId fn.val
     let words := (List.range 6).map fun i => s.dev.bar4.get 0 (bar4Key fn.val (0x800 * k4.val + 64 * ch.val + 8 * (i + 1)))
     let x := s.dev.chan n.val ch.val
     (s.dev.hubUp = true →
       (s.dev.bindOf (0x3F8 + k4.val) ch.val = id → (s.dev.chan (0x3F8 + k4.val) ch.val).full = false →
         Completes (.hostMailboxPost fn k4 ch v) s fun t =>
           (t.dev.chan (0x3F8 + k4.val) ch.val).words = (fput 63 48 (s.dev.epochOf id) ||| fput 31 0 id) :: (words ++ [v]) ∧
           (t.dev.chan (0x3F8 + k4.val) ch.val).full = true ∧ VolatileOnly s t ∧ RegsKept s t []) ∧
       (let m := s.dev.chan (0x3F8 + k8.val) ch.val
        let at' (w : Fin 8) : Nat := bar4Base + (64 * (32 * k8.val + ch.val) + 8 * w.val)
        (o = .firmware → s.dev.firmwareTakes k8.val ch.val = true) →
        (receives o k8.val = true → m.full = true →
          Completes (.hostMailboxTake o (32 * k8.val + ch.val) 7) s (fun t =>
            t.dev.out = s.dev.out ++ [.read (originFn o) (at' 7) (m.words.getD 7 0)] ∧
            (t.dev.chan (0x3F8 + k8.val) ch.val).full = false ∧ (t.dev.chan (0x3F8 + k8.val) ch.val).words = [] ∧
            VolatileOnly s t ∧ RegsKept s t []) ∧
          ∀ w : Fin 8, w ≠ 7 → exec (.hostMailboxTake o (32 * k8.val + ch.val) w) s =
            .next (s.onDev fun d => d.emit (.read (originFn o) (at' w) (m.words.getD w.val 0)))) ∧
        (receives o k8.val = false ∨ m.full = false → ∀ w : Fin 8, exec (.hostMailboxTake o (32 * k8.val + ch.val) w) s =
          .next (s.onDev fun d => d.emit (.read (originFn o) (at' w) 0))))) ∧
     (∀ k : Fin 4, s.dev.ready = false → exec (.hostMailboxTake .firmware (32 * k.val + ch.val) 7) s = .next s) ∧
     (s.mayWrite o (.mbxCh n ch) → o ≠ .fn0 →
       (x.full = false → Completes (.mbxBindWrite o n ch v) s fun t => t.dev.bindOf n.val ch.val = fld v 63 32 ∧
         (t.dev.chan n.val ch.val).mask = bit v 2 ∧ (t.dev.chan n.val ch.val).words = x.words ∧ VolatileOnly s t ∧ RegsKept s t []) ∧
       (x.full = true → fld v 63 32 ≠ s.dev.bindOf n.val ch.val → exec (.mbxBindWrite o n ch v) s = .next s)) ∧
     (s.dev.answers o (.mbxCh n ch) = true → Completes (.mbxChRead o n ch) s fun t =>
       t.dev.out = s.dev.out ++ [.read (originFn o) (Reg.mbxCh n ch).offset (s.dev.mbxWord n.val ch.val)] ∧
       t.dev.chan n.val ch.val = { x with refused := 0 } ∧ VolatileOnly s t ∧ RegsKept s t []))

/-- Flits: one that fails is counted and asked for again; a good one in order is acknowledged while the receive buffer has
room; a port sends what it must send again, else its next flit against a Baton, else an idle flit, each sealed under the
key and the count of its direction, five to a pair of codewords; a time limit replays, the eighth in a row retrains; a
starved channel is recorded, the announcement of a key ends the use of the old one, a notice makes held messages stale.
What the retrain and the key cost is log entry 91. -/
def Obligations.LinkFlitsComplete : Prop :=
  ∀ (s : State) (n : PortIx) (clear : List Byte) (k : FlitCheck) (vc : Fin 4),
    let f := Flit.parse clear
    let p := s.dev.port n
    let y (t : State) : Port := t.dev.port n
    let fec := s.dev.reg (.linkPfec n)
    let perr := s.dev.reg (.linkPerr n)
    let flew (z : Flit) (t : State) : Prop := (y t).pair.length ≤ 4 ∧ t.dev.out = s.dev.out ++ (.flit n z p.txCtr) ::
      (let l := p.pair ++ [sealFlit p.txKey p.txCtr z.clear]
       if l.length < 5 then [] else [.codewords n (codewordPair l).1 (codewordPair l).2])
    let carries (z g : Flit) : Prop := z.kind = g.kind ∧ (g.trans.any (fun m => m.op == 0x11) = false → z.data = g.data) ∧ z.ack = p.ackRx ∧
      z.kph = p.kphTx
    (s.dev.portState n = 5 →
      (k.fec = false → Completes (.flitReceive n clear k) s fun t => (y t).nak = true ∧ (y t).await = true ∧ (y t).ackRx = p.ackRx ∧
        fld (t.dev.reg (.linkPfec n)) 31 16 = min (fld fec 31 16 + 1) 0xFFFF ∧ Recorded s t .linkUncorr ∧ VolatileOnly s t ∧
        RegsKept s t (.linkPfec n :: errRegs .linkUncorr)) ∧
      (k.fec = true → k.crc = false → Completes (.flitReceive n clear k) s fun t => (y t).nak = true ∧ (y t).await = true ∧
        (y t).ackRx = p.ackRx ∧ fld (t.dev.reg (.linkPfec n)) 63 32 = min (fld fec 63 32 + k.symbols) 0xFFFFFFFF ∧ VolatileOnly s t ∧
        RegsKept s t [.linkPfec n]) ∧
      (k.fec = true → k.crc = true → k.tag = true → f.nak = false → p.replaysRow < 8 → Completes (.flitReceive n clear k) s fun t =>
        (f.kind = .idle → (y t).ackRx = p.ackRx ∧ (y t).rx = p.rx ∧
          (y t).replay = (p.replay.filter fun g => !decide ((f.ack + 4096 - g.seq) % 4096 < 2048)) ∧
          (y t).batons.get 0 f.bvc = p.batons.get 0 f.bvc + (f.bcum + 4096 - p.bcumIn.get 0 f.bvc) % 4096 ∧ VolatileOnly s t ∧
          RegsKept s t [.linkPfec n]) ∧
        (∀ m, f.kind = .header → f.trans = some m → f.lastf = false → f.seq = (p.ackRx + 1) % 4096 → p.open'.get none f.vc = none →
          s.dev.rxHeld n f.vc < s.dev.rxSize n f.vc →
          (y t).ackRx = f.seq ∧ (y t).nak = false ∧ (y t).await = false ∧
          (y t).open'.get none f.vc = some { vc := f.vc, msg := { m with data := f.data }, flits := 1, came := s.now } ∧ VolatileOnly s t ∧
          RegsKept s t [.linkPfec n])) ∧
      (p.txCtr < keyLimit →
        (∀ g r, p.resend = g :: r → p.unpaid.contains g.seq = false ∨ 0 < p.batons.get 0 g.vc → Completes (.flitTransmit n) s fun t =>
          (y t).resend = r ∧ (y t).seqTx = p.seqTx ∧ (∃ z, flew z t ∧ z.seq = g.seq ∧ carries z g) ∧
          (y t).batons.get 0 g.vc = p.batons.get 0 g.vc - (if p.unpaid.contains g.seq then 1 else 0) ∧
          (y t).txCtr = p.txCtr + 1 ∧ VolatileOnly s t ∧ RegsKept s t []) ∧
        (p.resend = [] → p.nextVc = none → Completes (.flitTransmit n) s fun t => (y t).seqTx = p.seqTx ∧
          (∃ z, flew z t ∧ z.kind = .idle ∧ z.ack = p.ackRx) ∧ (y t).txCtr = p.txCtr + 1 ∧ VolatileOnly s t ∧ RegsKept s t []) ∧
        (∀ c i x g r, p.resend = [] → p.nextVc = some c → p.nextTx c = some i → p.txq[i]? = some x → x.flits = g :: r → x.src < 16 →
          Completes (.flitTransmit n) s fun t => (y t).seqTx = (p.seqTx + 1) % 4096 ∧
            (y t).replay = p.replay ++ [{ g with seq := p.seqTx, vc := c }] ∧ (y t).batons.get 0 c = p.batons.get 0 c - 1 ∧
            (∃ z, flew z t ∧ z.seq = p.seqTx ∧ z.vc = c ∧ carries z g) ∧ VolatileOnly s t ∧ RegsKept s t [] ∧
            (g.isKeyUpdate = false → (y t).txCtr = p.txCtr + 1 ∧ (y t).txKey = p.txKey ∧ (y t).kphTx = p.kphTx) ∧
            (g.isKeyUpdate = true → (y t).txCtr = 0 ∧ (y t).txKey = nextKey p.txKey ∧ (y t).kphTx = !p.kphTx ∧ (y t).updating = false))) ∧
      (p.replay ≠ [] → p.replaysRow < 7 → Completes (.replayTimeout n) s fun t => (y t).resend = p.replay ∧
        (y t).replaysRow = p.replaysRow + 1 ∧ fld (t.dev.reg (.linkPerr n)) 63 48 = min (fld perr 63 48 + 1) 0xFFFF ∧
        VolatileOnly s t ∧ RegsKept s t [.linkPerr n]) ∧
      (p.replay ≠ [] → 7 ≤ p.replaysRow → Completes (.replayTimeout n) s fun t => t.dev.portState n = 6 ∧ VolatileOnly s t) ∧
      (p.starved vc.val = true → Completes (.vcSaturation n vc) s fun t => bit (t.dev.reg (.linkPstat n)) 55 = true ∧
        fld (t.dev.reg (.linkPstat n)) 54 53 = vc.val ∧ Recorded s t .saturated ∧ VolatileOnly s t ∧
        RegsKept s t (.linkPstat n :: errRegs .saturated)) ∧
      ((p.oldest 3).any (fun m => m.msg.isCtl 4) = false →
        (p.updating = false → Completes (.keyUpdate n) s fun t => (y t).updating = true ∧ (y t).kphTx = p.kphTx ∧ (y t).txCtr = p.txCtr ∧
          (∃ x, (y t).txq = p.txq ++ [x] ∧ x.msg.op = 0x12 ∧ x.msg.byte 0 = 4 ∧ x.flits.any Flit.isKeyUpdate = true) ∧ VolatileOnly s t ∧
          RegsKept s t []) ∧
        (p.updating = true → exec (.keyUpdate n) s = .next s))) ∧
    (∀ m, p.oldest 3 = some m → m.msg.op = 0x12 → m.msg.byte 0 = 4 → Completes (.keyUpdate n) s fun t =>
      (y t).rx = p.rx.eraseP (fun k => k.vc == 3) ∧ (y t).kphTx = p.kphTx ∧ (y t).txCtr = p.txCtr ∧ VolatileOnly s t ∧
      RegsKept s t []) ∧
    (p.await = true → Completes (.nakRepeatTimeout n) s fun t => y t = { p with nak := true } ∧ VolatileOnly s t ∧ RegsKept s t []) ∧
    (∀ m, p.oldest 3 = some m → m.msg.op = 0x14 → Completes (.noticeReceive n) s fun t => (y t).rx = p.rx.eraseP (fun k => k.vc == 3) ∧
      (∀ i id, (s.dev.chans.get {} i).full = true → (s.dev.chans.get {} i).bind = some id → nbits id 31 28 = 1 →
        idDevice id = m.msg.src → m.msg.byte 0 = 1 ∨ nbits id 11 9 = m.msg.byte 1 % 8 → (t.dev.chans.get {} i).stale = true) ∧
      VolatileOnly s t ∧ RegsKept s t [])

/-- Training: a turn, its time limit, retries, the handshake step by step with what this end sends, each step in its time,
completion with the same Partner or a new one, failures; the third failed training takes the port DOWN, the third failed
authentication in ten minutes quarantines it. The bytes of the handshake are log entry 136. -/
def Obligations.LinkTrainingCompletes : Prop :=
  ∀ (s : State) (n : PortIx) (hl : Hello) (ct : Cert) (sig : List Byte) (b : Bool) (rq rs rd : Nat),
    let p := s.dev.port n
    let y (t : State) : Port := t.dev.port n
    let st := s.dev.portState n
    let waiting (k : Nat) (t : State) : Prop := (y t).turn = some k ∧ (y t).holdsTurn = false ∧ VolatileOnly s t
    let stepped (a : AuthStep) (t : State) : Prop := (y t).auth = a ∧ VolatileOnly s t
    let failed (t : State) : Prop := Recorded s t .linkAuth ∧ VolatileOnly s t ∧
      (2 ≤ (p.authFails.filter fun f => decide (s.now < f + 600000000000)).length → t.dev.portState n = 8) ∧
      ((p.authFails.filter fun f => decide (s.now < f + 600000000000)).length < 2 → st ≠ 6 → p.fails < 2 →
        t.dev.portState n = 1 ∧ (y t).fails = p.fails + 1 ∧ (y t).turn = some 0)
    (s.dev.nextTurn n = true → Completes (.trainingTurn n) s fun t => (y t).holdsTurn = true ∧ (y t).turn = none ∧
      (y t).auth = .none ∧ t.dev.portState n = (if st = 6 then 6 else 3) ∧ t.dev.out = s.dev.out ++
        (if p.known then [] else [.slow n s.nv.part.serial s.dev.devId (bit (s.dev.reg (.linkPcfg n)) 1)]) ∧ VolatileOnly s t ∧ RegsKept s t [.linkPstat n]) ∧
    (p.holdsTurn = true → p.auth = .none → st = 6 → p.fails < 2 → Completes (.turnTimeout n b) s fun t => waiting 0 t ∧
      (y t).fails = p.fails + 1 ∧ t.dev.portState n = 6 ∧ RegsKept s t []) ∧
    (p.holdsTurn = true → p.auth = .none → st ≠ 6 →
      Completes (.turnTimeout n true) s (fun t => waiting (s.dev.turnCtr + 1) t ∧ t.dev.portState n = 1 ∧ RegsKept s t [.linkPstat n]) ∧
      Completes (.turnTimeout n false) s (fun t => t.dev.portState n = 2 ∧ (y t).holdsTurn = false ∧ VolatileOnly s t ∧
        RegsKept s t [.linkPstat n])) ∧
    (p.turn = none →
      (st = 2 → Completes (.absentRetry n) s fun t => waiting 0 t ∧ RegsKept s t []) ∧
      (st = 7 → p.downOk = true → Completes (.downRetry n) s fun t => waiting 0 t ∧ RegsKept s t [])) ∧
    (s.dev.authAt n .none = true → Completes (.authHello n hl) s fun t => stepped .hello t ∧ (y t).serial = hl.serial ∧
      (y t).peerDev = hl.device % 65536 ∧ (st = 3 → t.dev.portState n = 4) ∧ (st ≠ 3 → t.dev.portState n = st) ∧
      (p.known = true → t.dev.leads n = s.dev.leads n) ∧ (p.known = false → t.dev.leads n =
        (if bit (s.dev.reg (.linkPcfg n)) 1 ≠ hl.leadpref then bit (s.dev.reg (.linkPcfg n)) 1
          else decide (s.nv.part.serial.toNat < hl.serial.toNat))) ∧
      (∃ hello, t.dev.out = s.dev.out ++ [.handshake n (if t.dev.leads n then 1 else 2) hello, .handshake n 3 Config.deviceCerts]) ∧
      RegsKept s t [.linkPstat n]) ∧
    (s.dev.authAt n .hello = true →
      (ct.der.length ≤ 4096 → s.tooLate n 35 = false → Completes (.authCert n ct) s fun t => stepped .cert t ∧
        (y t).chain = ct.certs.map (·.serial) ∧ (y t).hs.cert = ct ∧
        (∃ own, (y t).hs.sig = own ∧ t.dev.out = s.dev.out ++ [.handshake n 4 own]) ∧ RegsKept s t []) ∧
      (4096 < ct.der.length → Completes (.authCert n ct) s failed)) ∧
    (let good := s.nv.chainOk p.serial p.hs.cert && p.hs.cert.certs.head?.any fun c => ecdsaOk c.key p.hs.heard sig
     s.dev.authAt n .cert = true →
      (∀ z, ecdhSecret p.hs.secret p.hs.key = some z → good = true → s.tooLate n 35 = false → Completes (.authVerify n sig) s fun t =>
        stepped .verify t ∧ (y t).txCtr = 1 ∧ (y t).rxCtr = 0 ∧ (y t).kphTx = false ∧
        (∃ heard, (y t).txKey = linkKey z heard (s.dev.leads n) ∧ (y t).rxKey = linkKey z heard (!s.dev.leads n)) ∧
        t.dev.out = s.dev.out ++ [.handshake n 7 (sealFlit (y t).txKey 0 ({} : Flit).clear)] ∧ RegsKept s t []) ∧
      (ecdhSecret p.hs.secret p.hs.key = none ∨ good = false → Completes (.authVerify n sig) s failed)) ∧
    (s.dev.authAt n .verify = true → (s.tooLate n 38 = false → Completes (.authFinished n true rq rs rd) s (fun t => stepped .finished t ∧
        (y t).batons.get 0 0 = rq ∧ (y t).batons.get 0 1 = rs ∧ (y t).batons.get 0 2 = rd ∧ (y t).batons.get 0 3 = 64 ∧
        (y t).rxCtr = 1 ∧ t.dev.out = s.dev.out ++ [.advert n (fld (s.dev.reg (.linkVcbuf n)) 47 32)
          (fld (s.dev.reg (.linkVcbuf n)) 31 16) (fld (s.dev.reg (.linkVcbuf n)) 15 0) 64] ∧ RegsKept s t [])) ∧
      Completes (.authFinished n false rq rs rd) s failed) ∧
    (s.dev.authAt n .finished = true → s.tooLate n 40 = false → Completes (.trainingComplete n) s fun t => t.dev.portState n = 5 ∧
      t.dev.reg (.linkPeer n) = p.serial ∧ fld (t.dev.reg (.linkPstat n)) 47 32 = p.peerDev % 65536 ∧ (y t).known = true ∧
      (y t).fails = 0 ∧ VolatileOnly s t ∧
      (st = 6 → p.known = true → s.dev.reg (.linkPeer n) = p.serial → (y t).resend = p.replay ∧ (y t).seqTx = p.seqTx ∧
        (y t).ackRx = p.ackRx ∧ RegsKept s t [.linkPstat n, .linkPeer n]) ∧
      (st ≠ 6 ∨ p.known = false ∨ s.dev.reg (.linkPeer n) ≠ p.serial → (y t).replay = [] ∧ (y t).seqTx = 0 ∧ (y t).ackRx = 4095) ∧
      (p.known = false ∨ s.dev.reg (.linkPeer n) ≠ p.serial → bit (t.dev.reg (.linkPstat n)) 52 = true)) ∧
    (p.holdsTurn = true →
      (p.fails < 2 → st ≠ 6 → Completes (.trainingFailure n) s fun t => waiting 0 t ∧ (y t).fails = p.fails + 1 ∧
        t.dev.portState n = 1 ∧ RegsKept s t [.linkPstat n]) ∧
      (2 ≤ p.fails → Completes (.trainingFailure n) s fun t => t.dev.portState n = 7 ∧ (y t).looping = true ∧
        Recorded s t .linkDown ∧ VolatileOnly s t)) ∧
    (p.looping = true → Completes (.loopbackTestDone n b) s fun t => (y t).looping = false ∧ (y t).downOk = b ∧
      fld (t.dev.reg (.linkPstat n)) 49 48 = (if b then 1 else 2) ∧ VolatileOnly s t ∧ RegsKept s t [.linkPstat n]) ∧
    (st = 5 → Completes (.codewordLockLoss n) s (fun t => t.dev.portState n = 6 ∧ (y t).turn = some 0 ∧
        fld (t.dev.reg (.linkPstat n)) 31 16 = min (fld (s.dev.reg (.linkPstat n)) 31 16 + 1) 0xFFFF ∧ VolatileOnly s t) ∧
      (s.dev.leads n = true → Completes (.wavelengthCalibration n b) s fun t => y t = { p with calib := b } ∧ VolatileOnly s t ∧
        RegsKept s t []))

/-- Commands of LINK_PCMD and the messages between Partners about roles: retrain, swap, release, loop test, or the bit
that refuses them. Registers of the links: a port's configuration, the device identifier while no port is in use,
buffers while the port is dark or down, windows, slots that no access uses; reads of the error counters clear them. -/
def Obligations.LinkCommandsComplete : Prop :=
  (∀ (s : State) (o : Origin) (n : PortIx) (v : Word),
     let p := s.dev.port n
     let y (t : State) : Port := t.dev.port n
     let st := s.dev.portState n
     let w := s.dev.reg (.linkPstat n)
     let pstat (x : Word) (t : State) : Prop := t.dev.reg (.linkPstat n) = x ∧ VolatileOnly s t ∧ RegsKept s t [.linkPstat n]
     let retrained (t : State) : Prop := t.dev.portState n = 6 ∧ fld (t.dev.reg (.linkPstat n)) 31 16 = min (fld w 31 16 + 1) 0xFFFF ∧
       VolatileOnly s t
     (s.mayWrite o (.linkPcmd n) →
       (st = 6 → exec (.linkRetrainCmd o n) s = .next s) ∧
       (st = 5 → s.dev.leads n = true → Completes (.linkRetrainCmd o n) s retrained) ∧
       (st = 5 → s.dev.leads n = false → Completes (.linkRetrainCmd o n) s fun t => (y t).retrainAsk = true ∧
         (∃ x, (y t).txq = p.txq ++ [x] ∧ x.msg.op = 0x12 ∧ x.msg.byte 0 = 3) ∧ VolatileOnly s t ∧ RegsKept s t []) ∧
       (st ≠ 5 → st ≠ 6 → Completes (.linkRetrainCmd o n) s (pstat (setBit w 51 true))) ∧
       (st = 6 ∨ p.calib = true ∨ p.swapOut = true → Completes (.linkSwapCmd o n) s (pstat (setFld w 58 56 4))) ∧
       (st ≠ 6 → p.calib = false → p.swapOut = false →
         (st ≠ 5 → Completes (.linkSwapCmd o n) s (pstat (setFld w 58 56 3))) ∧
         (st = 5 → Completes (.linkSwapCmd o n) s fun t => (y t).swapOut = true ∧
           (∃ x, (y t).txq = p.txq ++ [x] ∧ x.msg.op = 0x12 ∧ x.msg.byte 0 = 1) ∧ VolatileOnly s t ∧ RegsKept s t [])) ∧
       (st = 8 → Completes (.linkReleaseCmd o n) s fun t => t.dev.portState n = (if s.dev.mayLight n then 1 else 0) ∧
         (y t).authFails = [] ∧ (y t).fails = 0 ∧ VolatileOnly s t ∧ RegsKept s t [.linkPstat n]) ∧
       (st ≠ 8 → Completes (.linkReleaseCmd o n) s (pstat (setBit w 51 true))) ∧
       (st = 7 ∨ st = 8 → Completes (.linkLooptestCmd o n) s fun t => y t = { p with looping := true } ∧ VolatileOnly s t ∧
         RegsKept s t []) ∧
       (st ≠ 7 → st ≠ 8 → Completes (.linkLooptestCmd o n) s (pstat (setBit w 51 true))) ∧
       (fld v 63 60 = 0 ∨ 5 ≤ fld v 63 60 → Completes (.linkPcmdBadcmd o n v) s (pstat (setBit w 50 true)))) ∧
     (∀ m, p.oldest 3 = some m → m.msg.op = 0x12 →
       (m.msg.byte 0 = 1 → Completes (.swapReq n) s fun t => (y t).rx = p.rx.eraseP (fun k => k.vc == 3) ∧ VolatileOnly s t ∧ RegsKept s t [.linkPstat n] ∧
         (p.swapOut = false → t.dev.leads n = !s.dev.leads n ∧
           (st = 5 → ∃ x, (y t).txq = p.txq ++ [x] ∧ x.msg.op = 0x12 ∧ x.msg.byte 0 = 2)) ∧
         (p.swapOut = true → (y t).swapOut = false ∧ t.dev.leads n = decide (s.nv.part.serial.toNat < p.serial.toNat) ∧
           fld (t.dev.reg (.linkPstat n)) 58 56 = if s.nv.part.serial.toNat < p.serial.toNat then 1 else 2)) ∧
       (m.msg.byte 0 = 2 → p.swapOut = true → Completes (.swapAck n) s fun t => (y t).rx = p.rx.eraseP (fun k => k.vc == 3) ∧ (y t).swapOut = false ∧
         t.dev.leads n = !s.dev.leads n ∧ fld (t.dev.reg (.linkPstat n)) 58 56 = 1 ∧ VolatileOnly s t ∧ RegsKept s t [.linkPstat n]) ∧
       (m.msg.byte 0 = 3 →
         (st = 5 → s.dev.leads n = true → Completes (.retrainReq n) s fun t => (y t).rx = p.rx.eraseP (fun k => k.vc == 3) ∧ retrained t) ∧
         (s.dev.leads n = false → Completes (.retrainReq n) s fun t => (y t).rx = p.rx.eraseP (fun k => k.vc == 3) ∧ VolatileOnly s t ∧ RegsKept s t [])))) ∧
  (∀ (s : State) (o : Origin) (n : PortIx) (v : Word) (wi : Fin 64) (half : Fin 2) (sl : Fin 4096),
     let st := s.dev.portState n
     let a := fld v 47 32
     let b := fld v 31 16
     let c := fld v 15 0
     let fits := (st = 0 ∨ st = 1 ∨ st = 2 ∨ st = 7) ∧ 64 ≤ a ∧ 64 ≤ b ∧ 64 ≤ c ∧ a + b + c ≤ 3008
     let old := s.dev.reg .linkGcfg
     let cleared (r : Reg) (t : State) : Prop :=
       t.dev.out = s.dev.out ++ [.read (originFn o) r.offset (s.dev.reg r)] ∧
       t.dev.reg r = ((s.dev.reg r &&& ~~~r.rc) ||| (r.reset &&& r.rc)) ∧ VolatileOnly s t ∧ RegsKept s t [r]
     (s.mayWrite o (.linkPcfg n) → Completes (.portConfigWrite o n v) s fun t =>
       t.dev.reg (.linkPcfg n) = storeTyped (.linkPcfg n) (s.dev.reg (.linkPcfg n)) v ∧ MemoryKept s t ∧
       (bit v 0 = true → RegsKept s t [.linkPcfg n, .linkPstat n] ∧ (st ≠ 0 → t.dev.portState n = st)) ∧
       (bit v 0 = false → st ≠ 8 → st ≠ 9 → t.dev.portState n = 0) ∧
       (bit v 0 = false → st = 0 ∨ st = 8 ∨ st = 9 → RegsKept s t [.linkPcfg n])) ∧
     (s.mayWrite o .linkGcfg →
       (fld v 63 48 = fld old 63 48 → Completes (.devidWrite o v) s fun t => t.dev.reg .linkGcfg = storeTyped .linkGcfg old v ∧
         MemoryKept s t ∧ RegsKept s t [.linkGcfg]) ∧
       (fld v 63 48 ≠ fld old 63 48 → s.dev.devidFree = true → Completes (.devidWrite o v) s fun t =>
         fld (t.dev.reg .linkGcfg) 63 48 = fld v 63 48 ∧ fld ((t.nv.keptReg .linkGcfg).getD 0) 63 48 = fld v 63 48 ∧ MemoryKept s t ∧
         RegsKept s t (.linkGcfg :: (List.finRange 64).map Reg.linkPstat)) ∧
       (fld v 63 48 ≠ fld old 63 48 → s.dev.devidFree = false → Completes (.devidWrite o v) s fun t =>
         fld (t.dev.reg .linkGcfg) 63 48 = fld old 63 48 ∧ bit (t.dev.reg .linkGcfg) 0 = true ∧ MemoryKept s t ∧
         RegsKept s t [.linkGcfg])) ∧
     (s.mayWrite o (.linkVcbuf n) →
       (fits → Completes (.vcbufWrite o n v) s fun t =>
         t.dev.reg (.linkVcbuf n) = storeTyped (.linkVcbuf n) (s.dev.reg (.linkVcbuf n)) v ∧ VolatileOnly s t ∧
         RegsKept s t [.linkVcbuf n]) ∧
       (¬ fits → Completes (.vcbufWrite o n v) s fun t => t.dev.reg (.linkPstat n) = setBit (s.dev.reg (.linkPstat n)) 51 true ∧
         VolatileOnly s t ∧ RegsKept s t [.linkPstat n])) ∧
     (s.mayWrite o (.linkWin wi half) → Completes (.windowWrite o wi half v) s fun t =>
       t.dev.reg (.linkWin wi half) = storeTyped (.linkWin wi half) (s.dev.reg (.linkWin wi half)) v ∧ VolatileOnly s t ∧
       RegsKept s t [.linkWin wi half]) ∧
     (s.mayWrite o (.linkSlot sl) →
       (sl.val = 0 → exec (.slotWrite o sl v) s = .next s) ∧
       (sl.val ≠ 0 → s.dev.hostWait = [] → s.dev.slotUsers sl = ([], []) → Completes (.slotWrite o sl v) s fun t =>
         t.dev.reg (.linkSlot sl) = storeTyped (.linkSlot sl) (s.dev.reg (.linkSlot sl)) v ∧ VolatileOnly s t ∧
         RegsKept s t [.linkSlot sl]) ∧
       (sl.val ≠ 0 → s.dev.hostWait ≠ [] ∨ s.dev.slotUsers sl ≠ ([], []) → Completes (.slotWrite o sl v) s fun t =>
         t.dev.hostWait = s.dev.hostWait ++ [.slot sl v (s.dev.slotUsers sl).1 (s.dev.slotUsers sl).2] ∧ VolatileOnly s t ∧
         RegsKept s t [])) ∧
     (s.mayRead o (.linkPerr n) → Completes (.linkPerrRead o n) s (cleared (.linkPerr n))) ∧
     (s.mayRead o (.linkPfec n) → Completes (.linkPfecRead o n) s (cleared (.linkPfec n))))

/-- Requests of other devices, while no access waits at a slice and no channel is stopped: one that no window admits changes
no byte and is answered with its refusal; one that a window admits reads, writes, adds or operates on memory and is
answered by the partition it reached; a mailbox post is stamped by its source; a response ends the request of its TAG; a
request without one ends in an error completion. -/
def Obligations.RemoteRequestsComplete : Prop :=
  ∀ (s : State) (n : PortIx) (x : RxMsg) (up : Upset), (s.dev.port n).oldest (opVc x.msg.op) = some x →
    let m := x.msg
    let s1 := s.onDev fun d => d.modPort n fun p => p.take (opVc x.msg.op)
    let w := if nbits m.param 7 4 = 14 then 8 else 4
    let answered (u : State) (st val : Nat) (l : List Byte) : Host.Outcome State Fault Refusal :=
      .next (u.onDev fun d => d.respond u.now m.servedBy m st val l)
    let barred (c : Instr) : Prop := Completes c s fun t => Recorded s t .linkWindow ∧ VolatileOnly s t ∧
      fld (t.dev.reg (.linkPerr n)) 31 24 = min (fld (s.dev.reg (.linkPerr n)) 31 24 + 1) 255 ∧
      RegsKept s t (.linkPerr n :: errRegs .linkWindow ++ errRegs .multiMatch)
    (s.dev.calm = true →
      (m.op = 1 →
        (s.dev.windows m.src 62 m.addr (32 * (m.len + 1)) = [] → barred (.remoteRead n up)) ∧
        (∀ i l bad u, s.dev.windows m.src 62 m.addr (32 * (m.len + 1)) = [i] →
          s1.readSpan m.addr (32 * (m.len + 1)) = (some (l, bad), u) →
          exec (.remoteRead n .none) s = answered u (if bad then 2 else 0) 0 l)) ∧
      (m.op = 2 →
        (s.dev.windows m.src 61 m.addr m.data.length = [] → barred (.remoteWrite n)) ∧
        (∀ i ok u, s.dev.windows m.src 61 m.addr m.data.length = [i] → s1.writeSpan m.addr m.data = (ok, u) →
          exec (.remoteWrite n) s = answered u (if ok then 0 else 1) 0 [])) ∧
      (m.op = 3 →
        (s.dev.windows m.src 60 m.addr (s.addRange m) = [] → barred (.remoteAdd n up)) ∧
        (∀ i b u, s.dev.windows m.src 60 m.addr (s.addRange m) = [i] → s1.addSpan m = (some b, u) →
          exec (.remoteAdd n .none) s = answered u (if b then 2 else 0) 0 [])) ∧
      (m.op = 4 →
        (s.dev.windows m.src 59 m.addr w = [] → barred (.remoteAmo n up)) ∧
        (∀ i old nf ps u v, s.dev.windows m.src 59 m.addr w = [i] → s1.relayBlocks m.addr w = (false, v) →
          v.adder m.addr (nbits m.param 11 8) (nbits m.param 7 4) false false (m.data.take w) = (.done old nf ps, u) →
          exec (.remoteAmo n .none) s = answered u (if ps then 2 else 0) 0 (padTo 32 0 old)))) ∧
    (m.op = 5 →
      let ws := natWords 8 (ofLe m.data)
      let id := fld (ws.headD 0) 31 0
      let mb := m.addr % 1024
      let ch := m.addr / 1024 % 32
      idDevice id = m.src → s.hasReceiver mb = true → s.dev.bindOf mb ch = id → (s.dev.chan mb ch).full = false →
        Completes (.remoteMbxPost n) s fun t => (t.dev.chan mb ch).full = true ∧ (t.dev.chan mb ch).db = true ∧
          (t.dev.chan mb ch).words = (fput 63 48 (fld (ws.headD 0) 63 48) ||| fput 31 0 id) :: padTo 7 0 (ws.drop 1) ∧
          VolatileOnly s t ∧ RegsKept s t (errRegs .multiMatch)) ∧
    (m.op = 6 →
      let mb := m.addr % 1024
      let ch := m.addr / 1024 % 32
      (let d := s1.dev
       let d' := if m.param.testBit 0 = true ∧ d.bindOf mb ch ≠ 0 ∧ idDevice (d.bindOf mb ch) = m.src then
           d.setChan mb ch { d.chan mb ch with discarded := false } else d
       exec (.remoteMbxStat n) s =
         .next (s1.onDev fun _ => d'.respond s1.now (s.mailboxHome mb) m 0 0 (leBytes 8 (d.mbxWord mb ch).toNat))) ∧
      Completes (.remoteMbxStat n) s fun t => VolatileOnly s t ∧ RegsKept s t (errRegs .multiMatch) ∧
        ((t.dev.chan mb ch).discarded = if m.param.testBit 0 = true ∧ s.dev.bindOf mb ch ≠ 0 ∧
          idDevice (s.dev.bindOf mb ch) = m.src then false else (s.dev.chan mb ch).discarded)) ∧
    (m.op = 8 ∨ m.op = 9 →
      (s.dev.sent m.tag = none →
        Completes (.remoteResponse n) s fun t => fld (t.dev.reg (.linkPerr n)) 15 8 =
          min (fld (s.dev.reg (.linkPerr n)) 15 8 + 1) 255 ∧ VolatileOnly s t ∧ RegsKept s t [.linkPerr n]) ∧
      (∀ k, s.dev.sent m.tag = some k →
        exec (.remoteResponse n) s = .next (s1.onDev fun d => d.finishRemote s1.now k m.status m.data (m.param % 8)))) ∧
    (∀ tag key q id z, s.dev.sent (tag % 65536) = some key → s.dev.remote key = some q → q.who = .core id →
      s.dev.reqs.get none id = some z → (∀ e ∈ s.dev.remotes, ∀ r, e.2 = some r → r.via ≠ none) →
      Completes (.remoteRequestTimeout tag) s fun t => t.dev.remote key = none ∧
        t.dev.reqs.get none id = some { z with st := .done .error } ∧ Recorded s t .linkTimeout ∧ VolatileOnly s t)

/-- CAN: a change of NMT state, a reset of the node or of communication, the heartbeat, the oldest EMCY, a TPDO at its
timer, an RPDO that is long enough; each sends the frame that its rule gives. Frame lengths and heartbeat codes are CiA
1301's (log entry 64), NMT reset node during a reset log entry 66. -/
def Obligations.CanServicesComplete : Prop :=
  ∀ (s : State) (e : BootEnv) (j : Fin 16) (i : Fin 4) (data : List Byte),
    let d := s.dev
    let sent (f : Frame) (t : State) : Prop := t.dev.out = d.out ++ [.can f] ∧ VolatileOnly s t ∧ RegsKept s t []
    (d.canUp = true →
      (d.nmt ≠ .oper → Completes .nmtStart s fun t => t.dev.nmt = .oper ∧ t.dev.out = d.out ∧ VolatileOnly s t ∧ RegsKept s t []) ∧
      (d.nmt ≠ .preop → Completes .nmtEnterPreoperational s fun t => t.dev.nmt = .preop ∧ t.dev.out = d.out ∧ VolatileOnly s t ∧
        RegsKept s t []) ∧
      Completes .nmtStop s (fun t => t.dev.nmt = .stopped ∧ t.dev.usdo = [] ∧ VolatileOnly s t ∧ RegsKept s t []) ∧
      (d.ready = true ∨ (∃ q ∈ d.seqs, q.kind = .warm) → exec (.nmtResetNode e) s = .next (s.warmReset e)) ∧
      (d.ready = false → (∀ q ∈ d.seqs, q.kind ≠ .warm) → Completes (.nmtResetNode e) s fun t => t.dev.nodeHeld = some e ∧ VolatileOnly s t ∧ RegsKept s t []) ∧
      Completes .nmtResetCommunication s (fun t => t.dev.nmt = .preop ∧ t.dev.comm = (if d.restore then [] else s.nv.saved) ∧
        t.dev.restore = false ∧ t.dev.usdo = [] ∧ t.dev.rate = (d.regs.get 2 (entryKey 0x2000 6)).toNat ∧ sent .boot t) ∧
      (d.commVal 0x1017 0 ≠ 0 → Completes .heartbeat s (sent (.heartbeat d.nmt.code))) ∧
      (let cob := d.commVal (0x1800 + j.val) 1
       let map := d.mapping (0x1A00 + j.val)
       d.nmt = .oper → cob < 2 ^ 31 → d.commVal (0x1800 + j.val) 5 ≠ 0 → map ≠ [] →
        d.tpdoAt.get 0 j.val = 0 ∨ d.tpdoAt.get 0 j.val + 100000 * d.commVal (0x1800 + j.val) 3 ≤ s.now →
        Completes (.tpdoTransmit j) s fun t => sent (.tpdo j.val cob (map.map s.mapped).flatten) t ∧
          t.dev.tpdoAt.get 0 j.val = s.now) ∧
      (let map := d.mapping (0x1600 + i.val)
       d.nmt = .oper → d.commVal (0x1400 + i.val) 1 < 2 ^ 31 → (map.map fun v => v % 256 / 8).sum ≤ data.length →
        exec (.rpdoReceive i data) s = .next (State.rpdoWrites map data s))) ∧
    (∀ x r, d.emcy = x :: r → d.nmt = .preop ∨ d.nmt = .oper → d.nodeId ≠ 0 →
      d.emcyAt = 0 ∨ d.emcyAt + 100000 * d.commVal 0x1015 0 ≤ s.now → Completes .emcyTransmit s fun t =>
        sent (.emcy (d.commVal 0x1014 0) x.code s.errRegister x.bytes) t ∧ t.dev.emcy = r ∧ t.dev.emcyAt = s.now)

/-- USDO: an upload of a short value answers it whole, one that the dictionary refuses is aborted with its code; a long
one goes on by segments; a download makes the write and answers its code; an idle transfer is aborted. The size of a
frame is CiA 1301's (log entry 64). -/
def Obligations.UsdoTransfersComplete : Prop :=
  ∀ (s : State) (client index sub size : Nat) (data : List Byte), s.dev.usdoOn = true → s.dev.usdoFull client = false →
    let r := s.dictGet (.can client) index sub
    let sent (f : Frame) (t : State) : Prop := t.dev.out = s.dev.out ++ [.can f] ∧ VolatileOnly s t ∧ RegsKept s t []
    let answer (u : State) (code : Nat) : Host.Outcome State Fault Refusal :=
      .next (u.onDev fun d => d.can (if code = 0 then .usdo client [] 0 else .usdoAbort client code))
    let freed := s.onDev fun d => d.endTransfer client
    (r.1 ≠ 0 → Completes (.usdoUpload client index sub) s (sent (.usdoAbort client r.1))) ∧
    (r.1 = 0 → index ≠ 0x2701 → Completes (.usdoUpload client index sub) s fun t =>
      sent (.usdo client (r.2.take 56) r.2.length) t ∧
      (r.2.length ≤ 56 → t.dev.transfer client = none) ∧
      (56 < r.2.length → t.dev.transfer client =
        some { client := client, index := index, sub := sub, upload := true, data := r.2.drop 56, size := r.2.length })) ∧
    (size ≤ data.length →
      let p := freed.dictPut (.can client) index sub (ofLe (data.take size)) (some (data.take size).length)
      exec (.usdoDownload client index sub data size) s = answer p.2 p.1) ∧
    (data.length < size → Completes (.usdoDownload client index sub data size) s fun t => sent (.usdo client [] size) t ∧
      t.dev.transfer client =
        some { client := client, index := index, sub := sub, upload := false, data := data, size := size }) ∧
    (∀ x, s.dev.transfer client = some x →
      (x.upload = true → x.index ≠ 0x2701 → Completes (.usdoSegment client data) s fun t =>
        sent (.usdo client (x.data.take 56) x.size) t ∧ t.dev.transfer client =
          (if x.data.drop 56 = [] then none else some { x with data := x.data.drop 56 })) ∧
      (x.upload = false → (x.data ++ data).length < x.size → Completes (.usdoSegment client data) s fun t =>
        sent (.usdo client [] x.size) t ∧ t.dev.transfer client = some { x with data := x.data ++ data }) ∧
      (x.upload = false → x.size ≤ (x.data ++ data).length →
        let p := freed.dictPut (.can client) x.index x.sub (ofLe ((x.data ++ data).take x.size)) (some ((x.data ++ data).take x.size).length)
        exec (.usdoSegment client data) s = answer p.2 p.1) ∧
      Completes (.usdoTimeout client) s (fun t => sent (.usdoAbort client 0x05040000) t ∧ t.dev.transfer client = none))

/-- The other paths into the dictionary: the Host's mailbox requests are taken, carried out and answered in the answer
channel; a core reads by CSR; a Partner reads by a flit, sixteen in a millisecond; Firmware's read of a Partner ends
with the answer. The corners of the paths are log entry 95. -/
def Obligations.DictionaryPathsComplete : Prop :=
  ∀ (s u : State) (ch : Fin 16) (c : CoreIx) (rd a : RegNum) (n : PortIx),
    let x := s.dev.chan 0x3F8 (16 + ch.val)
    let w (i : Nat) : Word := x.words.getD i 0
    let fw := idFirmware s.dev.devId
    let s1 := s.onDev fun d => d.firmwareTook 0 (16 + ch.val)
    let index := fld (w 1) 47 32
    let sub := fld (w 1) 55 48
    let post (u : State) (l : List Word) : Host.Outcome State Fault Refusal :=
      .next (u.post 0x3FE ch.val (idFirmware u.dev.devId) (u.dev.epochOf (idFirmware u.dev.devId)) l).2
    (s.dev.firmwareTakes 0 (16 + ch.val) = true → x.full = true → (s.dev.chan 0x3FE ch.val).full = false → fld (w 0) 31 0 = idHost s.dev.devId 1 →
      (fld (w 1) 63 56 = 1 → s.dev.bindOf 0x3FE ch.val = fw → Completes (.dictRead ch) s fun t =>
        let r := s1.dictGet .host index sub
        (t.dev.chan 0x3FE ch.val).words = (fput 63 48 (s.dev.epochOf fw) ||| fput 31 0 fw) ::
          padTo 7 0 [w 1, BitVec.ofNat 64 r.1, BitVec.ofNat 64 (ofLe (r.2.take 8))] ∧
        (t.dev.chan 0x3FE ch.val).full = true ∧ (t.dev.chan 0x3F8 (16 + ch.val)).full = false ∧ VolatileOnly s t ∧
        RegsKept s t []) ∧
      (fld (w 1) 63 56 = 2 →
        let r := s1.dictPut .host index sub (w 2).toNat none
        exec (.dictWrite ch) s = post r.2 [w 1, BitVec.ofNat 64 r.1, 0]) ∧
      (fld (w 1) 63 56 = 3 →
        let r := s1.segmentOf .host index sub 32 (w 2).toNat
        exec (.dictReadSegment ch) s =
          post r.2.2.2 ([w 1, BitVec.ofNat 64 r.1, BitVec.ofNat 64 r.2.1] ++ natWords 4 (ofLe r.2.2.1)))) ∧
    (Issues s c 4 u → a.val ≠ 0 → Completes (.dictRd c rd a) s fun t =>
      let k := u.dev.core c
      let r := u.dictCsr c (k.getX a)
      t.dev.core c = ({ k with dictSt := BitVec.ofNat 64 r.1 }.setX rd r.2.1).retire ∧ OtherCoresKept u t c ∧ VolatileOnly u t ∧
        RegsKept u t []) ∧
    (∀ m, (s.dev.port n).oldest 3 = some m → m.msg.op = 0x13 →
      (m.msg.byte 3 = 0 → s.dev.portState n = 5 →
        let p := s.dev.port n
        let used := if p.dictMs = s.now / 1000000 then p.dictN else 0
        let replied (res : Nat) (t : State) : Prop := (t.dev.port n).rx = (s.dev.port n).rx.eraseP (fun k => k.vc == 3) ∧ VolatileOnly s t ∧
          ∃ y, (t.dev.port n).txq = p.txq ++ [y] ∧ y.msg.op = 0x13 ∧ y.msg.byte 3 = 1 ∧ y.msg.byte 4 = res ∧ y.msg.dst = p.peerDev
        (used < 16 → Completes (.dictFlitRead n) s fun t =>
          replied (flitResult (s.dictGet (.partner n) (m.msg.half 0) (m.msg.byte 2)).1) t ∧ (t.dev.port n).dictN = used + 1 ∧
          RegsKept s t []) ∧
        (16 ≤ used → Completes (.dictFlitRead n) s fun t => replied 4 t ∧
          fld (t.dev.reg (.linkPerr n)) 23 16 = min (fld (s.dev.reg (.linkPerr n)) 23 16 + 1) 255 ∧ RegsKept s t [.linkPerr n])) ∧
      (m.msg.byte 3 = 1 → Completes (.dictFlitAnswer n) s fun t => (t.dev.port n).rx = (s.dev.port n).rx.eraseP (fun k => k.vc == 3) ∧
        t.dev.out = s.dev.out ++ [.dict .firmware (m.msg.byte 4) ((m.msg.data.drop 8).take 8)] ∧ VolatileOnly s t ∧
        RegsKept s t []))

/-- Storing and restoring parameters, reading the journal and its signed head by an origin that is not on CAN, flushing
the journal, and the flash update of entries stored automatically, which keeps every register but the record of a flash
write that needed a retry. What is journalled, and under which origin, is log entry 50. -/
def Obligations.PersistenceCompletes : Prop :=
  ∀ (s : State) (o : DictOrigin) (node : Nat),
    ((∀ k, o ≠ .can k) → s.dev.dictUp = true →
      let answer (p : Nat × State) : Host.Outcome State Fault Refusal := .next (p.2.onDev fun x => x.emit (.dict o p.1 []))
      let shown (i : Nat) (t : State) : Prop :=
        t.dev.out = s.dev.out ++ [.dict o (s.dictGet o i 0).1 (s.dictGet o i 0).2] ∧ VolatileOnly s t ∧ RegsKept s t []
      exec (.storeParameters o) s = answer (s.dictPut o 0x1010 1 0x65766173 none) ∧
      exec (.restoreDefaults o) s = answer (s.dictPut o 0x1011 1 0x64616F6C none) ∧
      (o = .host ∨ o = .firmware → s.nv.journal.full = false →
        Completes (.storeParameters o) s (fun t => t.nv.saved = s.dev.comm ∧ t.dev.out = s.dev.out ++ [.dict o 0 []] ∧
          MemoryKept s t ∧ RegsKept s t []) ∧
        Completes (.restoreDefaults o) s (fun t => t.dev.restore = true ∧ t.dev.comm = s.dev.comm ∧
          t.dev.out = s.dev.out ++ [.dict o 0 []] ∧ MemoryKept s t ∧ RegsKept s t [])) ∧
      Completes (.journalRead o) s (shown 0x2701) ∧ Completes (.journalSignedHead o) s (shown 0x2703)) ∧
    (s.dev.usdoOn = true →
      exec (.storeParameters (.can node)) s = exec (.usdoDownload node 0x1010 1 (leBytes 4 0x65766173) 4) s ∧
      exec (.restoreDefaults (.can node)) s = exec (.usdoDownload node 0x1011 1 (leBytes 4 0x64616F6C) 4) s ∧
      exec (.journalRead (.can node)) s = exec (.usdoUpload node 0x2701 0) s ∧
      exec (.journalSignedHead (.can node)) s = exec (.usdoUpload node 0x2703 0) s) ∧
    (s.dev.powered = true →
      Completes .journalFlush s (fun t => t = ((s.onNv Nv.jFlush).jGap).flashWritten ∧ MemoryKept s t ∧ RegsKept s t (errRegs .flashErr) ∧
        s.nv.journal.persisted ≤ t.nv.journal.persisted ∧ t.nv.regs = s.nv.regs) ∧
      (s.dev.dirty ≠ [] → Completes .autoPersist s fun t => t.dev.dirty = [] ∧ MemoryKept s t ∧ RegsKept s t (errRegs .flashErr) ∧
        ∀ r : Reg, r.offset ∉ s.dev.dirty → t.nv.keptReg r = s.nv.keptReg r))

/-- The Pacer: an interval leaves every setpoint within 600 … 850 mV, REST at most 56 unless halted, and the interval's
rest ended; an allowance reached rests, a droop closes a cluster and its end opens it; the frame carries the setpoint;
GUARD only falls; reads clear. How a limit is held is the model's reading (log entry 60). -/
def Obligations.PacerCommandsComplete : Prop :=
  ∀ (s : State) (a : Activity) (p : PartIx) (k : ClusterIx) (mv v0 : Nat) (o : Origin), s.dev.hubUp = true →
    let halted (t : State) (q : PartIx) : Bool := bit (t.dev.reg (.pacePstat q)) 47
    let marg := s.dev.reg (.paceMargin p)
    let new := min (fld marg 53 48) (max 15 (600 - v0))
    let cleared (r : Reg) (t : State) : Prop :=
      t.dev.out = s.dev.out ++ [.read (originFn o) r.offset (s.dev.reg r)] ∧
      t.dev.reg r = ((s.dev.reg r &&& ~~~r.rc) ||| (r.reset &&& r.rc)) ∧ VolatileOnly s t ∧ RegsKept s t [r]
    Completes (.pacerInterval a) s (fun t => VolatileOnly s t ∧ t.dev.acts = [] ∧ ∀ q, s.nv.part.enabled q = true →
      600 ≤ t.dev.vset q ∧ t.dev.vset q ≤ 850 ∧ (t.dev.paceOf q).rested = false ∧
      halted t q = ((s.dev.paceOf q).tCrit || decide (850 < s.dev.vfloor q)) ∧
      fld (t.dev.reg (.pacePstat q)) 53 48 = (if halted t q then 63 else t.dev.rest q) ∧ t.dev.rest q ≤ 56 ∧
      fld (t.dev.reg (.timingRate q)) 15 0 = min 65535 (a.rates.getD q.val 0)) ∧
    (s.nv.part.enabled p = true →
      Completes (.allowanceReached p) s (fun t => (t.dev.paceOf p).rested = true ∧ t.dev.partClosed p = true ∧ VolatileOnly s t ∧
        RegsKept s t []) ∧
      Completes (.vidFrame p) s (fun t => t.dev.out = s.dev.out ++ [.vid (4 * p.val) (vidWord (s.dev.vset p))] ∧ VolatileOnly s t ∧
        RegsKept s t [])) ∧
    (s.nv.part.enabled (clusterPart k) = true → mv + 35 < s.dev.vset (clusterPart k) →
      k.val ∉ (s.dev.paceOf (clusterPart k)).closed → Completes (.droopDetect k mv) s fun t =>
        k.val ∈ (t.dev.paceOf (clusterPart k)).closed ∧
        fld (t.dev.reg (.pacePstat (clusterPart k))) 15 0 = min (fld (s.dev.reg (.pacePstat (clusterPart k))) 15 0 + 1) 0xFFFF ∧
        VolatileOnly s t ∧ RegsKept s t [.pacePstat (clusterPart k)]) ∧
    (s.dev.vset (clusterPart k) < mv + 25 → Completes (.droopRecover k mv) s fun t =>
      k.val ∉ (t.dev.paceOf (clusterPart k)).closed ∧ VolatileOnly s t ∧ RegsKept s t []) ∧
    (s.dev.partUp p = true → Completes (.guardUpdate p v0) s fun t => fld (t.dev.reg (.paceMargin p)) 53 48 = new ∧
      fld (t.dev.reg (.paceMargin p)) 63 54 = min 1023 v0 ∧
      fld (t.dev.reg (.paceMargin p)) 31 16 = (if new < fld marg 53 48 then min (fld marg 31 16 + 1) 0xFFFF else fld marg 31 16) ∧
      (600 < v0 + 15 → bit (t.dev.reg (.paceMargin p)) 47 = true ∧ (bit marg 47 = false → bit (t.dev.reg (.errStat 37)) 63 = true)) ∧
      t.nv.keptReg (.paceMargin p) = some (t.dev.reg (.paceMargin p)) ∧ MemoryKept s t ∧
      RegsKept s t (.paceMargin p :: .pacePstat p :: errRegs .marginLow)) ∧
    (s.mayRead o .paceGstat → Completes (.paceGstatRead o) s (cleared .paceGstat)) ∧
    (s.mayRead o (.pacePstat p) → Completes (.pacePstatRead o p) s (cleared (.pacePstat p)))

/-- Temperatures: working diodes are shown and the hottest governs its die; the four thermistors; DRAM and hub sensors;
the control step lowers the voltage, then adds rest, above the target, takes both back 3 K below it, and rests at once
above the limit; the oscillator follows the hub. The corners of the sensors are log entries 86 and 115. -/
def Obligations.ThermalCommandsComplete : Prop :=
  ∀ (s : State) (l : List Sense) (dl : List (List Int)) (hub : Sense) (p : PartIx), s.dev.hubUp = true →
    let read (j : Nat) : Sense := senseRead (-40) 150 (l.getD (3 * p.val + j) .opened)
    let x := s.dev.paceOf p
    let y (t : State) : Pace := t.dev.paceOf p
    (∀ t0 t1 t2, s.nv.part.enabled p = true → read 0 = .temp t0 → read 1 = .temp t1 → read 2 = .temp t2 →
      Completes (.diodeSample l) s fun t => (y t).tj = max t0 (max t1 t2) ∧ (y t).reference = (t0 + t1 + t2) / 3 ∧
        t.dev.reg (.thermRead (Fin.ofNat 28 (3 * p.val))) = fput 15 0 (unint 16 t0) ∧
        fld (t.dev.reg (.thermPart p)) 63 48 = unint 16 (max t0 (max t1 t2)) ∧ VolatileOnly s t) ∧
    (∀ t0 t1 t2 t3, (List.range 4).map (fun j => senseRead (-20) 125 (l.getD j .opened)) = [.temp t0, .temp t1, .temp t2, .temp t3] →
      Completes (.thermistorSample l) s fun t => t.dev.reg (.thermRead 24) = fput 15 0 (unint 16 t0) ∧
        t.dev.reg (.thermRead 25) = fput 15 0 (unint 16 t1) ∧ t.dev.reg (.thermRead 26) = fput 15 0 (unint 16 t2) ∧
        t.dev.reg (.thermRead 27) = fput 15 0 (unint 16 t3) ∧ VolatileOnly s t ∧
        RegsKept s t ([.thermRead 24, .thermRead 25, .thermRead 26, .thermRead 27] ++ errRegs .thermal)) ∧
    (let h := (senseValue hub).getD s.hubHottest
     Completes (.dramSensorSample dl hub) s fun t => t.dev.package.hub = h ∧ t.dev.reg .thermHub = fput 15 0 (unint 16 h) ∧
      (s.nv.part.enabled p = true → (y t).tdram = (hottest (dl.getD p.val [])).getD 0 ∧ (y t).layers = dl.getD p.val [] ∧
        (y t).tj = x.tj) ∧ VolatileOnly s t) ∧
    (s.nv.part.enabled p = true → Completes .thermalControl s fun t => VolatileOnly s t ∧
      (1600 < x.tj ∨ 1520 < x.tdram → (y t).restTherm = 56 ∧ (y t).vTherm ≤ s.dev.vfloor p) ∧
      (x.tj ≤ 1600 → x.tdram ≤ 1520 → s.dev.tTarget < x.tj ∨ s.dev.dramTarget < x.tdram →
        (s.dev.vfloor p < s.dev.vset p → (y t).vTherm = max 600 (x.vTherm - 5) ∧ (y t).restTherm = x.restTherm) ∧
        (s.dev.vset p ≤ s.dev.vfloor p → (y t).restTherm = min 56 (x.restTherm + 4) ∧ (y t).vTherm = x.vTherm)) ∧
      (x.tj < s.dev.tTarget - 48 → x.tdram < s.dev.dramTarget - 48 → 0 < x.restTherm →
        (y t).restTherm = x.restTherm - 4 ∧ (y t).vTherm = x.vTherm) ∧
      (1760 ≤ x.tj → (y t).tCrit = true ∧ bit (t.dev.reg (.pacePstat p)) 47 = true ∧
        fld (t.dev.reg (.pacePstat p)) 53 48 = 63)) ∧
    Completes .oscillatorCompensation s (fun t => t.dev.package.oscTrim = s.dev.package.hub ∧ VolatileOnly s t ∧ RegsKept s t [])

/-- In the state after reset no power is applied, nothing is queued or has left the device, every register reads its
value after reset, memory lists nothing, and the invariants hold. The part and the values the manual does not give are
the model's (log entries 3, 4 and 105). -/
def Obligations.ResetState : Prop :=
  let s := State.reset
  s.pending = [] ∧ s.dev.powered = false ∧ s.dev.out = [] ∧ (∀ r : Reg, s.dev.reg r = r.reset) ∧
    (∀ a, s.mem.cell a = none) ∧ s.genEven ∧ s.memOk ∧ s.nv.health = 0 ∧ s.nv.journal.head = 0

/-- GEN of the floor-plan descriptor's standing generation is even before and after every command; what is shown while an
update is in progress is one more (R29), an odd number. -/
def Obligations.GenerationStaysEven : Prop := ∀ s t : State, s.genEven → step s = .next t → t.genEven
end

