-- ==== Sys2Proof/Laws/Bits.lean ====
section
/-! SUPPORT. The laws of bit fields: what a field or a bit reads after a field has been replaced. -/

namespace Sys2Proof.Machine

theorem bit_fmask (hi lo i : Nat) (hi64 : hi < 64) (hlo : lo ≤ hi) :
    (fmask hi lo).getLsbD i = decide (lo ≤ i ∧ i ≤ hi) := by
  unfold fmask
  rw [BitVec.getLsbD_ofNat, Nat.testBit_shiftLeft, Nat.testBit_two_pow_sub_one]
  rw [Bool.eq_iff_iff]
  simp only [Bool.and_eq_true, decide_eq_true_eq]
  omega

theorem bit_fput (hi lo v i : Nat) (hi64 : hi < 64) (hlo : lo ≤ hi) :
    (fput hi lo v).getLsbD i = (decide (lo ≤ i ∧ i ≤ hi) && v.testBit (i - lo)) := by
  unfold fput
  rw [BitVec.getLsbD_ofNat, Nat.testBit_shiftLeft, Nat.testBit_mod_two_pow]
  rw [Bool.eq_iff_iff]
  simp only [Bool.and_eq_true, decide_eq_true_eq]
  constructor
  · rintro ⟨_, _, _, h⟩
    exact ⟨by omega, h⟩
  · rintro ⟨_, h⟩
    exact ⟨by omega, by omega, by omega, h⟩

/-- The bits of a word with one field replaced. -/
theorem bit_setFld (w : Word) (hi lo v i : Nat) (hi64 : hi < 64) (hlo : lo ≤ hi) :
    bit (setFld w hi lo v) i = if lo ≤ i ∧ i ≤ hi then v.testBit (i - lo) else bit w i := by
  unfold bit setFld
  rw [BitVec.getLsbD_or, BitVec.getLsbD_and, BitVec.getLsbD_not, bit_fmask _ _ _ hi64 hlo, bit_fput _ _ _ _ hi64 hlo]
  by_cases h : lo ≤ i ∧ i ≤ hi
  · simp [h]
  · by_cases h64 : i < 64
    · simp [h, h64]
    · have : w.getLsbD i = false := BitVec.getLsbD_of_ge w i (by omega)
      simp [h, this]

theorem bit_setFld_out (w : Word) {hi lo i : Nat} (v : Nat) (hi64 : hi < 64) (hlo : lo ≤ hi) (h : i < lo ∨ hi < i) :
    bit (setFld w hi lo v) i = bit w i := by
  rw [bit_setFld w hi lo v i hi64 hlo, if_neg (by omega)]

/-- A bit just set. -/
theorem bit_setBit_self (w : Word) (i : Nat) (b : Bool) (h : i < 64) : bit (setBit w i b) i = b := by
  unfold setBit
  rw [bit_setFld w i i _ i h (Nat.le_refl i)]
  cases b <;> simp

theorem bit_setBit_ne (w : Word) {i j : Nat} (b : Bool) (h : j < 64) (hij : i ≠ j) : bit (setBit w j b) i = bit w i := by
  unfold setBit
  exact bit_setFld_out w _ h (Nat.le_refl j) (by omega)

/-- The bits of a field's value. -/
theorem testBit_fld (w : Word) (hi lo i : Nat) : (fld w hi lo).testBit i = (decide (i < hi + 1 - lo) && bit w (lo + i)) := by
  unfold fld nbits bit
  rw [Nat.testBit_mod_two_pow, Nat.testBit_shiftRight]
  rfl

/-- A field just replaced. -/
theorem fld_setFld_self (w : Word) (hi lo v : Nat) (hi64 : hi < 64) (hlo : lo ≤ hi) :
    fld (setFld w hi lo v) hi lo = v % 2 ^ (hi + 1 - lo) := by
  apply Nat.eq_of_testBit_eq
  intro i
  rw [testBit_fld, Nat.testBit_mod_two_pow]
  by_cases h : i < hi + 1 - lo
  · rw [bit_setFld w hi lo v _ hi64 hlo, if_pos (by omega)]
    simp [h]
  · simp [h]

/-- A field that has no bit in common with the one replaced. -/
theorem fld_setFld_out (w : Word) {hi lo hi' lo' : Nat} (v : Nat) (hi64 : hi' < 64) (hlo : lo' ≤ hi')
    (h : hi < lo' ∨ hi' < lo) : fld (setFld w hi' lo' v) hi lo = fld w hi lo := by
  apply Nat.eq_of_testBit_eq
  intro i
  rw [testBit_fld, testBit_fld]
  by_cases hi' : i < hi + 1 - lo
  · rw [bit_setFld_out w v hi64 hlo (by omega)]
  · simp [hi']

theorem fld_setBit_out (w : Word) {hi lo j : Nat} (b : Bool) (h64 : j < 64) (h : hi < j ∨ j < lo) :
    fld (setBit w j b) hi lo = fld w hi lo := fld_setFld_out w _ h64 (Nat.le_refl j) h

/-- A counting field after an addition that saturates. -/
theorem fld_satAdd (w : Word) (hi lo n : Nat) (hi64 : hi < 64) (hlo : lo ≤ hi) :
    fld (satAdd w hi lo n) hi lo = min (fld w hi lo + n) (2 ^ (hi + 1 - lo) - 1) := by
  unfold satAdd
  rw [fld_setFld_self w hi lo _ hi64 hlo]
  exact Nat.mod_eq_of_lt (by have := Nat.two_pow_pos (hi + 1 - lo); omega)

/-- A field of a word that a mask clears. -/
theorem fld_and_zero (w m : Word) (hi lo : Nat) (h : ∀ j < hi + 1 - lo, bit m (lo + j) = false) : fld (w &&& m) hi lo = 0 := by
  apply Nat.eq_of_testBit_eq
  intro i
  rw [testBit_fld, Nat.zero_testBit]
  by_cases hi' : i < hi + 1 - lo
  · have := h i hi'
    unfold bit at this ⊢
    rw [BitVec.getLsbD_and, this, Bool.and_false, Bool.and_false]
  · simp [hi']

theorem fld_lt (w : Word) (hi lo : Nat) : fld w hi lo < 2 ^ (hi + 1 - lo) := Nat.mod_lt _ (Nat.two_pow_pos _)

end Sys2Proof.Machine
end

