-- ==== Sys2Proof/Laws/Tables.lean ====
section
/-! SUPPORT. The laws of sparse tables: what is read after a store, and the canonical form every operation keeps. -/

namespace Sys2Proof.Machine.Tbl

variable {α : Type}

theorem get_erase_ne (d : α) (t : Tbl α) {j k : Nat} (h : j ≠ k) : get d (erase t k) j = get d t j := by
  induction t with
  | nil => rfl
  | cons e r ih =>
    obtain ⟨n, v⟩ := e
    by_cases hn : n = k
    · subst hn
      have : erase ((n, v) :: r) n = erase r n := by simp [erase]
      rw [this, ih]
      simp [get, Ne.symm h]
    · have : erase ((n, v) :: r) k = (n, v) :: erase r k := by simp [erase, hn]
      rw [this]
      simp only [get]
      split
      · rfl
      · exact ih

theorem get_erase_self (d : α) (t : Tbl α) (k : Nat) : get d (erase t k) k = d := by
  induction t with
  | nil => rfl
  | cons e r ih =>
    obtain ⟨n, v⟩ := e
    by_cases hn : n = k
    · have : erase ((n, v) :: r) k = erase r k := by simp [erase, hn]
      rw [this, ih]
    · have : erase ((n, v) :: r) k = (n, v) :: erase r k := by simp [erase, hn]
      rw [this]
      simp only [get, if_neg hn]
      exact ih

theorem get_insert_ne (d : α) (t : Tbl α) {j k : Nat} (v : α) (h : j ≠ k) : get d (insert t k v) j = get d t j := by
  induction t with
  | nil => simp [insert, get, Ne.symm h]
  | cons e r ih =>
    obtain ⟨n, w⟩ := e
    simp only [insert]
    split
    · simp [get, Ne.symm h]
    · simp only [get]
      split
      · rfl
      · exact ih

theorem get_insert_self (d : α) (t : Tbl α) (k : Nat) (v : α) (h : ∀ e ∈ t, e.1 ≠ k) : get d (insert t k v) k = v := by
  induction t with
  | nil => simp [insert, get]
  | cons e r ih =>
    obtain ⟨n, w⟩ := e
    simp only [insert]
    split
    · simp [get]
    · have hn : n ≠ k := h (n, w) (by simp)
      simp only [get, if_neg hn]
      exact ih (fun e he => h e (by simp [he]))

theorem erase_keys (t : Tbl α) (k : Nat) : ∀ e ∈ erase t k, e.1 ≠ k := by
  intro e he
  simpa [erase] using (List.mem_filter.1 he).2

/-- What a store leaves where it stored. -/
@[simp] theorem get_set_self [DecidableEq α] (d : α) (t : Tbl α) (k : Nat) (v : α) : get d (set d t k v) k = v := by
  unfold set
  split
  · subst v; exact get_erase_self d t k
  · exact get_insert_self d _ k v (erase_keys t k)

/-- What a store leaves elsewhere. -/
theorem get_set_ne [DecidableEq α] (d d' : α) (t : Tbl α) {j k : Nat} (v : α) (h : j ≠ k) :
    get d' (set d t k v) j = get d' t j := by
  unfold set
  split
  · exact get_erase_ne d' t h
  · rw [get_insert_ne d' _ v h, get_erase_ne d' t h]

theorem sorted_filter (t : Tbl α) (p : Nat × α → Bool) (h : sorted t = true) : sorted (t.filter p) = true := by
  induction t with
  | nil => rfl
  | cons e r ih =>
    obtain ⟨n, v⟩ := e
    simp only [sorted, Bool.and_eq_true, List.all_eq_true, decide_eq_true_eq] at h
    by_cases hp : p (n, v) = true
    · simp only [List.filter_cons, hp, if_true, sorted, Bool.and_eq_true, List.all_eq_true, decide_eq_true_eq]
      exact ⟨fun e he => h.1 e (List.mem_filter.1 he).1, ih h.2⟩
    · simp only [List.filter_cons, hp]
      exact ih h.2

theorem mem_insert (t : Tbl α) (k : Nat) (v : α) (e : Nat × α) : e ∈ insert t k v ↔ e = (k, v) ∨ e ∈ t := by
  induction t with
  | nil => simp [insert]
  | cons x r ih =>
    obtain ⟨n, w⟩ := x
    simp only [insert]
    split
    · simp
    · simp only [List.mem_cons, ih]
      constructor
      · rintro (h | h | h)
        · exact .inr (.inl h)
        · exact .inl h
        · exact .inr (.inr h)
      · rintro (h | h | h)
        · exact .inr (.inl h)
        · exact .inl h
        · exact .inr (.inr h)

theorem sorted_insert (t : Tbl α) (k : Nat) (v : α) (hk : ∀ e ∈ t, e.1 ≠ k) (h : sorted t = true) :
    sorted (insert t k v) = true := by
  induction t with
  | nil => simp [insert, sorted]
  | cons x r ih =>
    obtain ⟨n, w⟩ := x
    have hs := h
    simp only [sorted, Bool.and_eq_true, List.all_eq_true, decide_eq_true_eq] at h
    simp only [insert]
    split
    · rename_i hlt
      simp only [sorted, Bool.and_eq_true, List.all_eq_true, decide_eq_true_eq, List.mem_cons]
      refine ⟨?_, h.1, h.2⟩
      rintro e (rfl | he)
      · exact hlt
      · exact Nat.lt_trans hlt (h.1 e he)
    · rename_i hlt
      have hn : n ≠ k := hk (n, w) (by simp)
      simp only [sorted, Bool.and_eq_true, List.all_eq_true, decide_eq_true_eq]
      refine ⟨?_, ih (fun e he => hk e (by simp [he])) h.2⟩
      intro e he
      rcases (mem_insert r k v e).1 he with rfl | he
      · show n < k
        omega
      · exact h.1 e he

theorem sorted_erase (t : Tbl α) (k : Nat) (h : sorted t = true) : sorted (erase t k) = true := sorted_filter t _ h

/-- A store of one byte or entry keeps the order. -/
theorem sorted_put (t : Tbl α) (k : Nat) (v : α) (h : sorted t = true) : sorted (insert (erase t k) k v) = true :=
  sorted_insert _ k v (erase_keys t k) (sorted_erase t k h)

/-- Every store keeps the canonical form. -/
theorem wf_set [DecidableEq α] (d : α) (t : Tbl α) (k : Nat) (v : α) (h : wf d t = true) : wf d (set d t k v) = true := by
  simp only [wf, Bool.and_eq_true, List.all_eq_true, decide_eq_true_eq] at h ⊢
  unfold set
  split
  · exact ⟨sorted_erase t k h.1, fun e he => h.2 e (List.mem_filter.1 he).1⟩
  · rename_i hv
    refine ⟨sorted_put t k v h.1, fun e he => ?_⟩
    rcases (mem_insert _ k v e).1 he with rfl | he
    · exact hv
    · exact h.2 e (List.mem_filter.1 he).1

/-- Keeping some entries keeps the canonical form. -/
theorem wf_keep [DecidableEq α] (d : α) (t : Tbl α) (p : Nat → Bool) (h : wf d t = true) : wf d (keep t p) = true := by
  simp only [wf, Bool.and_eq_true, List.all_eq_true, decide_eq_true_eq] at h ⊢
  exact ⟨sorted_filter t _ h.1, fun e he => h.2 e (List.mem_filter.1 he).1⟩

/-- An entry that is not kept reads as the default, a kept one as before. -/
theorem get_keep (d : α) (t : Tbl α) (p : Nat → Bool) (k : Nat) : get d (keep t p) k = if p k then get d t k else d := by
  induction t with
  | nil => cases p k <;> rfl
  | cons e r ih =>
    obtain ⟨n, v⟩ := e
    by_cases hn : p n = true
    · have : keep ((n, v) :: r) p = (n, v) :: keep r p := by simp [keep, hn]
      rw [this]
      simp only [get]
      split
      · rename_i h; subst h; simp [hn]
      · exact ih
    · have : keep ((n, v) :: r) p = keep r p := by simp [keep, hn]
      rw [this, ih]
      by_cases hk : n = k
      · subst hk; simp [hn]
      · simp [get, hk]

end Sys2Proof.Machine.Tbl
end

