-- ==== Sys2Proof/Laws/State.lean ====
section
/-! SUPPORT. What each update of the state leaves as it was: one lemma for each field and update, true by definition; what a
register reads after a store. -/

namespace Sys2Proof.Machine

@[simp] theorem State.onDev_pending (s : State) (f : Dev → Dev) : (s.onDev f).pending = s.pending := rfl
@[simp] theorem State.onDev_clk (s : State) (f : Dev → Dev) : (s.onDev f).clk = s.clk := rfl
@[simp] theorem State.onDev_mem (s : State) (f : Dev → Dev) : (s.onDev f).mem = s.mem := rfl
@[simp] theorem State.onDev_nv (s : State) (f : Dev → Dev) : (s.onDev f).nv = s.nv := rfl
@[simp] theorem State.onDev_dev (s : State) (f : Dev → Dev) : (s.onDev f).dev = f s.dev := rfl
@[simp] theorem State.onNv_pending (s : State) (f : Nv → Nv) : (s.onNv f).pending = s.pending := rfl
@[simp] theorem State.onNv_clk (s : State) (f : Nv → Nv) : (s.onNv f).clk = s.clk := rfl
@[simp] theorem State.onNv_mem (s : State) (f : Nv → Nv) : (s.onNv f).mem = s.mem := rfl
@[simp] theorem State.onNv_dev (s : State) (f : Nv → Nv) : (s.onNv f).dev = s.dev := rfl
@[simp] theorem State.onNv_nv (s : State) (f : Nv → Nv) : (s.onNv f).nv = f s.nv := rfl
@[simp] theorem State.onDev_now (s : State) (f : Dev → Dev) : (s.onDev f).now = s.now := rfl
@[simp] theorem State.onNv_now (s : State) (f : Nv → Nv) : (s.onNv f).now = s.now := rfl
@[simp] theorem Dev.setReg_freeCtr (d : Dev) (r : Reg) (w : Word) : (d.setReg r w).freeCtr = d.freeCtr := rfl
@[simp] theorem Dev.setReg_out (d : Dev) (r : Reg) (w : Word) : (d.setReg r w).out = d.out := rfl
@[simp] theorem Dev.setReg_powered (d : Dev) (r : Reg) (w : Word) : (d.setReg r w).powered = d.powered := rfl
@[simp] theorem Dev.setReg_seqs (d : Dev) (r : Reg) (w : Word) : (d.setReg r w).seqs = d.seqs := rfl
@[simp] theorem Dev.setReg_strtRes (d : Dev) (r : Reg) (w : Word) : (d.setReg r w).strtRes = d.strtRes := rfl
@[simp] theorem Dev.setReg_nodeHeld (d : Dev) (r : Reg) (w : Word) : (d.setReg r w).nodeHeld = d.nodeHeld := rfl
@[simp] theorem Dev.setReg_bootEnv (d : Dev) (r : Reg) (w : Word) : (d.setReg r w).bootEnv = d.bootEnv := rfl
@[simp] theorem Dev.setReg_replaceN (d : Dev) (r : Reg) (w : Word) : (d.setReg r w).replaceN = d.replaceN := rfl
@[simp] theorem Dev.setReg_thermN (d : Dev) (r : Reg) (w : Word) : (d.setReg r w).thermN = d.thermN := rfl
@[simp] theorem Dev.setReg_optEn (d : Dev) (r : Reg) (w : Word) : (d.setReg r w).optEn = d.optEn := rfl
@[simp] theorem Dev.setReg_parent (d : Dev) (r : Reg) (w : Word) : (d.setReg r w).parent = d.parent := rfl
@[simp] theorem Dev.setReg_locked (d : Dev) (r : Reg) (w : Word) : (d.setReg r w).locked = d.locked := rfl
@[simp] theorem Dev.setReg_timeCopy (d : Dev) (r : Reg) (w : Word) : (d.setReg r w).timeCopy = d.timeCopy := rfl
@[simp] theorem Dev.setReg_cores (d : Dev) (r : Reg) (w : Word) : (d.setReg r w).cores = d.cores := rfl
@[simp] theorem Dev.setReg_clusters (d : Dev) (r : Reg) (w : Word) : (d.setReg r w).clusters = d.clusters := rfl
@[simp] theorem Dev.setReg_hurdles (d : Dev) (r : Reg) (w : Word) : (d.setReg r w).hurdles = d.hurdles := rfl
@[simp] theorem Dev.setReg_phArr (d : Dev) (r : Reg) (w : Word) : (d.setReg r w).phArr = d.phArr := rfl
@[simp] theorem Dev.setReg_chans (d : Dev) (r : Reg) (w : Word) : (d.setReg r w).chans = d.chans := rfl
@[simp] theorem Dev.setReg_epochs (d : Dev) (r : Reg) (w : Word) : (d.setReg r w).epochs = d.epochs := rfl
@[simp] theorem Dev.setReg_bar4 (d : Dev) (r : Reg) (w : Word) : (d.setReg r w).bar4 = d.bar4 := rfl
@[simp] theorem Dev.setReg_hopRes (d : Dev) (r : Reg) (w : Word) : (d.setReg r w).hopRes = d.hopRes := rfl
@[simp] theorem Dev.setReg_tlb (d : Dev) (r : Reg) (w : Word) : (d.setReg r w).tlb = d.tlb := rfl
@[simp] theorem Dev.setReg_walks (d : Dev) (r : Reg) (w : Word) : (d.setReg r w).walks = d.walks := rfl
@[simp] theorem Dev.setReg_inval (d : Dev) (r : Reg) (w : Word) : (d.setReg r w).inval = d.inval := rfl
@[simp] theorem Dev.setReg_pagers (d : Dev) (r : Reg) (w : Word) : (d.setReg r w).pagers = d.pagers := rfl
@[simp] theorem Dev.setReg_queues (d : Dev) (r : Reg) (w : Word) : (d.setReg r w).queues = d.queues := rfl
@[simp] theorem Dev.setReg_disp (d : Dev) (r : Reg) (w : Word) : (d.setReg r w).disp = d.disp := rfl
@[simp] theorem Dev.setReg_submStage (d : Dev) (r : Reg) (w : Word) : (d.setReg r w).submStage = d.submStage := rfl
@[simp] theorem Dev.setReg_submRes (d : Dev) (r : Reg) (w : Word) : (d.setReg r w).submRes = d.submRes := rfl
@[simp] theorem Dev.setReg_hintStage (d : Dev) (r : Reg) (w : Word) : (d.setReg r w).hintStage = d.hintStage := rfl
@[simp] theorem Dev.setReg_reqs (d : Dev) (r : Reg) (w : Word) : (d.setReg r w).reqs = d.reqs := rfl
@[simp] theorem Dev.setReg_nextReq (d : Dev) (r : Reg) (w : Word) : (d.setReg r w).nextReq = d.nextReq := rfl
@[simp] theorem Dev.setReg_arrivals (d : Dev) (r : Reg) (w : Word) : (d.setReg r w).arrivals = d.arrivals := rfl
@[simp] theorem Dev.setReg_cache (d : Dev) (r : Reg) (w : Word) : (d.setReg r w).cache = d.cache := rfl
@[simp] theorem Dev.setReg_slices (d : Dev) (r : Reg) (w : Word) : (d.setReg r w).slices = d.slices := rfl
@[simp] theorem Dev.setReg_laps (d : Dev) (r : Reg) (w : Word) : (d.setReg r w).laps = d.laps := rfl
@[simp] theorem Dev.setReg_coupling (d : Dev) (r : Reg) (w : Word) : (d.setReg r w).coupling = d.coupling := rfl
@[simp] theorem Dev.setReg_anchors (d : Dev) (r : Reg) (w : Word) : (d.setReg r w).anchors = d.anchors := rfl
@[simp] theorem Dev.setReg_ports (d : Dev) (r : Reg) (w : Word) : (d.setReg r w).ports = d.ports := rfl
@[simp] theorem Dev.setReg_turnCtr (d : Dev) (r : Reg) (w : Word) : (d.setReg r w).turnCtr = d.turnCtr := rfl
@[simp] theorem Dev.setReg_remotes (d : Dev) (r : Reg) (w : Word) : (d.setReg r w).remotes = d.remotes := rfl
@[simp] theorem Dev.setReg_withheld (d : Dev) (r : Reg) (w : Word) : (d.setReg r w).withheld = d.withheld := rfl
@[simp] theorem Dev.setReg_nextTag (d : Dev) (r : Reg) (w : Word) : (d.setReg r w).nextTag = d.nextTag := rfl
@[simp] theorem Dev.setReg_emcy (d : Dev) (r : Reg) (w : Word) : (d.setReg r w).emcy = d.emcy := rfl
@[simp] theorem Dev.setReg_emcyAt (d : Dev) (r : Reg) (w : Word) : (d.setReg r w).emcyAt = d.emcyAt := rfl
@[simp] theorem Dev.setReg_updates (d : Dev) (r : Reg) (w : Word) : (d.setReg r w).updates = d.updates := rfl
@[simp] theorem Dev.setReg_nmt (d : Dev) (r : Reg) (w : Word) : (d.setReg r w).nmt = d.nmt := rfl
@[simp] theorem Dev.setReg_comm (d : Dev) (r : Reg) (w : Word) : (d.setReg r w).comm = d.comm := rfl
@[simp] theorem Dev.setReg_rate (d : Dev) (r : Reg) (w : Word) : (d.setReg r w).rate = d.rate := rfl
@[simp] theorem Dev.setReg_restore (d : Dev) (r : Reg) (w : Word) : (d.setReg r w).restore = d.restore := rfl
@[simp] theorem Dev.setReg_fwVer (d : Dev) (r : Reg) (w : Word) : (d.setReg r w).fwVer = d.fwVer := rfl
@[simp] theorem Dev.setReg_usdo (d : Dev) (r : Reg) (w : Word) : (d.setReg r w).usdo = d.usdo := rfl
@[simp] theorem Dev.setReg_cursors (d : Dev) (r : Reg) (w : Word) : (d.setReg r w).cursors = d.cursors := rfl
@[simp] theorem Dev.setReg_dirty (d : Dev) (r : Reg) (w : Word) : (d.setReg r w).dirty = d.dirty := rfl
@[simp] theorem Dev.setReg_tpdoAt (d : Dev) (r : Reg) (w : Word) : (d.setReg r w).tpdoAt = d.tpdoAt := rfl
@[simp] theorem Dev.setReg_pace (d : Dev) (r : Reg) (w : Word) : (d.setReg r w).pace = d.pace := rfl
@[simp] theorem Dev.setReg_package (d : Dev) (r : Reg) (w : Word) : (d.setReg r w).package = d.package := rfl
@[simp] theorem Dev.setReg_hostWait (d : Dev) (r : Reg) (w : Word) : (d.setReg r w).hostWait = d.hostWait := rfl
@[simp] theorem Dev.setReg_vaultFn (d : Dev) (r : Reg) (w : Word) : (d.setReg r w).vaultFn = d.vaultFn := rfl
@[simp] theorem Dev.setReg_early (d : Dev) (r : Reg) (w : Word) : (d.setReg r w).early = d.early := rfl
@[simp] theorem Dev.setReg_master (d : Dev) (r : Reg) (w : Word) : (d.setReg r w).master = d.master := rfl
@[simp] theorem Dev.setReg_waits (d : Dev) (r : Reg) (w : Word) : (d.setReg r w).waits = d.waits := rfl
@[simp] theorem Dev.setReg_refusing (d : Dev) (r : Reg) (w : Word) : (d.setReg r w).refusing = d.refusing := rfl
@[simp] theorem Dev.setReg_testAt (d : Dev) (r : Reg) (w : Word) : (d.setReg r w).testAt = d.testAt := rfl
@[simp] theorem Dev.setReg_sweeps (d : Dev) (r : Reg) (w : Word) : (d.setReg r w).sweeps = d.sweeps := rfl
@[simp] theorem Dev.setReg_genOpen (d : Dev) (r : Reg) (w : Word) : (d.setReg r w).genOpen = d.genOpen := rfl
@[simp] theorem Dev.setReg_image (d : Dev) (r : Reg) (w : Word) : (d.setReg r w).image = d.image := rfl
@[simp] theorem Dev.setReg_snaps (d : Dev) (r : Reg) (w : Word) : (d.setReg r w).snaps = d.snaps := rfl
@[simp] theorem Dev.setReg_acts (d : Dev) (r : Reg) (w : Word) : (d.setReg r w).acts = d.acts := rfl
@[simp] theorem Dev.modReg_freeCtr (d : Dev) (r : Reg) (f : Word → Word) : (d.modReg r f).freeCtr = d.freeCtr := rfl
@[simp] theorem Dev.modReg_out (d : Dev) (r : Reg) (f : Word → Word) : (d.modReg r f).out = d.out := rfl
@[simp] theorem Dev.modReg_powered (d : Dev) (r : Reg) (f : Word → Word) : (d.modReg r f).powered = d.powered := rfl
@[simp] theorem Dev.modReg_seqs (d : Dev) (r : Reg) (f : Word → Word) : (d.modReg r f).seqs = d.seqs := rfl
@[simp] theorem Dev.modReg_strtRes (d : Dev) (r : Reg) (f : Word → Word) : (d.modReg r f).strtRes = d.strtRes := rfl
@[simp] theorem Dev.modReg_nodeHeld (d : Dev) (r : Reg) (f : Word → Word) : (d.modReg r f).nodeHeld = d.nodeHeld := rfl
@[simp] theorem Dev.modReg_bootEnv (d : Dev) (r : Reg) (f : Word → Word) : (d.modReg r f).bootEnv = d.bootEnv := rfl
@[simp] theorem Dev.modReg_replaceN (d : Dev) (r : Reg) (f : Word → Word) : (d.modReg r f).replaceN = d.replaceN := rfl
@[simp] theorem Dev.modReg_thermN (d : Dev) (r : Reg) (f : Word → Word) : (d.modReg r f).thermN = d.thermN := rfl
@[simp] theorem Dev.modReg_optEn (d : Dev) (r : Reg) (f : Word → Word) : (d.modReg r f).optEn = d.optEn := rfl
@[simp] theorem Dev.modReg_parent (d : Dev) (r : Reg) (f : Word → Word) : (d.modReg r f).parent = d.parent := rfl
@[simp] theorem Dev.modReg_locked (d : Dev) (r : Reg) (f : Word → Word) : (d.modReg r f).locked = d.locked := rfl
@[simp] theorem Dev.modReg_timeCopy (d : Dev) (r : Reg) (f : Word → Word) : (d.modReg r f).timeCopy = d.timeCopy := rfl
@[simp] theorem Dev.modReg_cores (d : Dev) (r : Reg) (f : Word → Word) : (d.modReg r f).cores = d.cores := rfl
@[simp] theorem Dev.modReg_clusters (d : Dev) (r : Reg) (f : Word → Word) : (d.modReg r f).clusters = d.clusters := rfl
@[simp] theorem Dev.modReg_hurdles (d : Dev) (r : Reg) (f : Word → Word) : (d.modReg r f).hurdles = d.hurdles := rfl
@[simp] theorem Dev.modReg_phArr (d : Dev) (r : Reg) (f : Word → Word) : (d.modReg r f).phArr = d.phArr := rfl
@[simp] theorem Dev.modReg_chans (d : Dev) (r : Reg) (f : Word → Word) : (d.modReg r f).chans = d.chans := rfl
@[simp] theorem Dev.modReg_epochs (d : Dev) (r : Reg) (f : Word → Word) : (d.modReg r f).epochs = d.epochs := rfl
@[simp] theorem Dev.modReg_bar4 (d : Dev) (r : Reg) (f : Word → Word) : (d.modReg r f).bar4 = d.bar4 := rfl
@[simp] theorem Dev.modReg_hopRes (d : Dev) (r : Reg) (f : Word → Word) : (d.modReg r f).hopRes = d.hopRes := rfl
@[simp] theorem Dev.modReg_tlb (d : Dev) (r : Reg) (f : Word → Word) : (d.modReg r f).tlb = d.tlb := rfl
@[simp] theorem Dev.modReg_walks (d : Dev) (r : Reg) (f : Word → Word) : (d.modReg r f).walks = d.walks := rfl
@[simp] theorem Dev.modReg_inval (d : Dev) (r : Reg) (f : Word → Word) : (d.modReg r f).inval = d.inval := rfl
@[simp] theorem Dev.modReg_pagers (d : Dev) (r : Reg) (f : Word → Word) : (d.modReg r f).pagers = d.pagers := rfl
@[simp] theorem Dev.modReg_queues (d : Dev) (r : Reg) (f : Word → Word) : (d.modReg r f).queues = d.queues := rfl
@[simp] theorem Dev.modReg_disp (d : Dev) (r : Reg) (f : Word → Word) : (d.modReg r f).disp = d.disp := rfl
@[simp] theorem Dev.modReg_submStage (d : Dev) (r : Reg) (f : Word → Word) : (d.modReg r f).submStage = d.submStage := rfl
@[simp] theorem Dev.modReg_submRes (d : Dev) (r : Reg) (f : Word → Word) : (d.modReg r f).submRes = d.submRes := rfl
@[simp] theorem Dev.modReg_hintStage (d : Dev) (r : Reg) (f : Word → Word) : (d.modReg r f).hintStage = d.hintStage := rfl
@[simp] theorem Dev.modReg_reqs (d : Dev) (r : Reg) (f : Word → Word) : (d.modReg r f).reqs = d.reqs := rfl
@[simp] theorem Dev.modReg_nextReq (d : Dev) (r : Reg) (f : Word → Word) : (d.modReg r f).nextReq = d.nextReq := rfl
@[simp] theorem Dev.modReg_arrivals (d : Dev) (r : Reg) (f : Word → Word) : (d.modReg r f).arrivals = d.arrivals := rfl
@[simp] theorem Dev.modReg_cache (d : Dev) (r : Reg) (f : Word → Word) : (d.modReg r f).cache = d.cache := rfl
@[simp] theorem Dev.modReg_slices (d : Dev) (r : Reg) (f : Word → Word) : (d.modReg r f).slices = d.slices := rfl
@[simp] theorem Dev.modReg_laps (d : Dev) (r : Reg) (f : Word → Word) : (d.modReg r f).laps = d.laps := rfl
@[simp] theorem Dev.modReg_coupling (d : Dev) (r : Reg) (f : Word → Word) : (d.modReg r f).coupling = d.coupling := rfl
@[simp] theorem Dev.modReg_anchors (d : Dev) (r : Reg) (f : Word → Word) : (d.modReg r f).anchors = d.anchors := rfl
@[simp] theorem Dev.modReg_ports (d : Dev) (r : Reg) (f : Word → Word) : (d.modReg r f).ports = d.ports := rfl
@[simp] theorem Dev.modReg_turnCtr (d : Dev) (r : Reg) (f : Word → Word) : (d.modReg r f).turnCtr = d.turnCtr := rfl
@[simp] theorem Dev.modReg_remotes (d : Dev) (r : Reg) (f : Word → Word) : (d.modReg r f).remotes = d.remotes := rfl
@[simp] theorem Dev.modReg_withheld (d : Dev) (r : Reg) (f : Word → Word) : (d.modReg r f).withheld = d.withheld := rfl
@[simp] theorem Dev.modReg_nextTag (d : Dev) (r : Reg) (f : Word → Word) : (d.modReg r f).nextTag = d.nextTag := rfl
@[simp] theorem Dev.modReg_emcy (d : Dev) (r : Reg) (f : Word → Word) : (d.modReg r f).emcy = d.emcy := rfl
@[simp] theorem Dev.modReg_emcyAt (d : Dev) (r : Reg) (f : Word → Word) : (d.modReg r f).emcyAt = d.emcyAt := rfl
@[simp] theorem Dev.modReg_updates (d : Dev) (r : Reg) (f : Word → Word) : (d.modReg r f).updates = d.updates := rfl
@[simp] theorem Dev.modReg_nmt (d : Dev) (r : Reg) (f : Word → Word) : (d.modReg r f).nmt = d.nmt := rfl
@[simp] theorem Dev.modReg_comm (d : Dev) (r : Reg) (f : Word → Word) : (d.modReg r f).comm = d.comm := rfl
@[simp] theorem Dev.modReg_rate (d : Dev) (r : Reg) (f : Word → Word) : (d.modReg r f).rate = d.rate := rfl
@[simp] theorem Dev.modReg_restore (d : Dev) (r : Reg) (f : Word → Word) : (d.modReg r f).restore = d.restore := rfl
@[simp] theorem Dev.modReg_fwVer (d : Dev) (r : Reg) (f : Word → Word) : (d.modReg r f).fwVer = d.fwVer := rfl
@[simp] theorem Dev.modReg_usdo (d : Dev) (r : Reg) (f : Word → Word) : (d.modReg r f).usdo = d.usdo := rfl
@[simp] theorem Dev.modReg_cursors (d : Dev) (r : Reg) (f : Word → Word) : (d.modReg r f).cursors = d.cursors := rfl
@[simp] theorem Dev.modReg_dirty (d : Dev) (r : Reg) (f : Word → Word) : (d.modReg r f).dirty = d.dirty := rfl
@[simp] theorem Dev.modReg_tpdoAt (d : Dev) (r : Reg) (f : Word → Word) : (d.modReg r f).tpdoAt = d.tpdoAt := rfl
@[simp] theorem Dev.modReg_pace (d : Dev) (r : Reg) (f : Word → Word) : (d.modReg r f).pace = d.pace := rfl
@[simp] theorem Dev.modReg_package (d : Dev) (r : Reg) (f : Word → Word) : (d.modReg r f).package = d.package := rfl
@[simp] theorem Dev.modReg_hostWait (d : Dev) (r : Reg) (f : Word → Word) : (d.modReg r f).hostWait = d.hostWait := rfl
@[simp] theorem Dev.modReg_vaultFn (d : Dev) (r : Reg) (f : Word → Word) : (d.modReg r f).vaultFn = d.vaultFn := rfl
@[simp] theorem Dev.modReg_early (d : Dev) (r : Reg) (f : Word → Word) : (d.modReg r f).early = d.early := rfl
@[simp] theorem Dev.modReg_master (d : Dev) (r : Reg) (f : Word → Word) : (d.modReg r f).master = d.master := rfl
@[simp] theorem Dev.modReg_waits (d : Dev) (r : Reg) (f : Word → Word) : (d.modReg r f).waits = d.waits := rfl
@[simp] theorem Dev.modReg_refusing (d : Dev) (r : Reg) (f : Word → Word) : (d.modReg r f).refusing = d.refusing := rfl
@[simp] theorem Dev.modReg_testAt (d : Dev) (r : Reg) (f : Word → Word) : (d.modReg r f).testAt = d.testAt := rfl
@[simp] theorem Dev.modReg_sweeps (d : Dev) (r : Reg) (f : Word → Word) : (d.modReg r f).sweeps = d.sweeps := rfl
@[simp] theorem Dev.modReg_genOpen (d : Dev) (r : Reg) (f : Word → Word) : (d.modReg r f).genOpen = d.genOpen := rfl
@[simp] theorem Dev.modReg_image (d : Dev) (r : Reg) (f : Word → Word) : (d.modReg r f).image = d.image := rfl
@[simp] theorem Dev.modReg_snaps (d : Dev) (r : Reg) (f : Word → Word) : (d.modReg r f).snaps = d.snaps := rfl
@[simp] theorem Dev.modReg_acts (d : Dev) (r : Reg) (f : Word → Word) : (d.modReg r f).acts = d.acts := rfl
@[simp] theorem Dev.clearReg_freeCtr (d : Dev) (r : Reg) : (d.clearReg r).freeCtr = d.freeCtr := rfl
@[simp] theorem Dev.clearReg_out (d : Dev) (r : Reg) : (d.clearReg r).out = d.out := rfl
@[simp] theorem Dev.clearReg_powered (d : Dev) (r : Reg) : (d.clearReg r).powered = d.powered := rfl
@[simp] theorem Dev.clearReg_seqs (d : Dev) (r : Reg) : (d.clearReg r).seqs = d.seqs := rfl
@[simp] theorem Dev.clearReg_strtRes (d : Dev) (r : Reg) : (d.clearReg r).strtRes = d.strtRes := rfl
@[simp] theorem Dev.clearReg_nodeHeld (d : Dev) (r : Reg) : (d.clearReg r).nodeHeld = d.nodeHeld := rfl
@[simp] theorem Dev.clearReg_bootEnv (d : Dev) (r : Reg) : (d.clearReg r).bootEnv = d.bootEnv := rfl
@[simp] theorem Dev.clearReg_replaceN (d : Dev) (r : Reg) : (d.clearReg r).replaceN = d.replaceN := rfl
@[simp] theorem Dev.clearReg_thermN (d : Dev) (r : Reg) : (d.clearReg r).thermN = d.thermN := rfl
@[simp] theorem Dev.clearReg_optEn (d : Dev) (r : Reg) : (d.clearReg r).optEn = d.optEn := rfl
@[simp] theorem Dev.clearReg_parent (d : Dev) (r : Reg) : (d.clearReg r).parent = d.parent := rfl
@[simp] theorem Dev.clearReg_locked (d : Dev) (r : Reg) : (d.clearReg r).locked = d.locked := rfl
@[simp] theorem Dev.clearReg_timeCopy (d : Dev) (r : Reg) : (d.clearReg r).timeCopy = d.timeCopy := rfl
@[simp] theorem Dev.clearReg_cores (d : Dev) (r : Reg) : (d.clearReg r).cores = d.cores := rfl
@[simp] theorem Dev.clearReg_clusters (d : Dev) (r : Reg) : (d.clearReg r).clusters = d.clusters := rfl
@[simp] theorem Dev.clearReg_hurdles (d : Dev) (r : Reg) : (d.clearReg r).hurdles = d.hurdles := rfl
@[simp] theorem Dev.clearReg_phArr (d : Dev) (r : Reg) : (d.clearReg r).phArr = d.phArr := rfl
@[simp] theorem Dev.clearReg_chans (d : Dev) (r : Reg) : (d.clearReg r).chans = d.chans := rfl
@[simp] theorem Dev.clearReg_epochs (d : Dev) (r : Reg) : (d.clearReg r).epochs = d.epochs := rfl
@[simp] theorem Dev.clearReg_bar4 (d : Dev) (r : Reg) : (d.clearReg r).bar4 = d.bar4 := rfl
@[simp] theorem Dev.clearReg_hopRes (d : Dev) (r : Reg) : (d.clearReg r).hopRes = d.hopRes := rfl
@[simp] theorem Dev.clearReg_tlb (d : Dev) (r : Reg) : (d.clearReg r).tlb = d.tlb := rfl
@[simp] theorem Dev.clearReg_walks (d : Dev) (r : Reg) : (d.clearReg r).walks = d.walks := rfl
@[simp] theorem Dev.clearReg_inval (d : Dev) (r : Reg) : (d.clearReg r).inval = d.inval := rfl
@[simp] theorem Dev.clearReg_pagers (d : Dev) (r : Reg) : (d.clearReg r).pagers = d.pagers := rfl
@[simp] theorem Dev.clearReg_queues (d : Dev) (r : Reg) : (d.clearReg r).queues = d.queues := rfl
@[simp] theorem Dev.clearReg_disp (d : Dev) (r : Reg) : (d.clearReg r).disp = d.disp := rfl
@[simp] theorem Dev.clearReg_submStage (d : Dev) (r : Reg) : (d.clearReg r).submStage = d.submStage := rfl
@[simp] theorem Dev.clearReg_submRes (d : Dev) (r : Reg) : (d.clearReg r).submRes = d.submRes := rfl
@[simp] theorem Dev.clearReg_hintStage (d : Dev) (r : Reg) : (d.clearReg r).hintStage = d.hintStage := rfl
@[simp] theorem Dev.clearReg_reqs (d : Dev) (r : Reg) : (d.clearReg r).reqs = d.reqs := rfl
@[simp] theorem Dev.clearReg_nextReq (d : Dev) (r : Reg) : (d.clearReg r).nextReq = d.nextReq := rfl
@[simp] theorem Dev.clearReg_arrivals (d : Dev) (r : Reg) : (d.clearReg r).arrivals = d.arrivals := rfl
@[simp] theorem Dev.clearReg_cache (d : Dev) (r : Reg) : (d.clearReg r).cache = d.cache := rfl
@[simp] theorem Dev.clearReg_slices (d : Dev) (r : Reg) : (d.clearReg r).slices = d.slices := rfl
@[simp] theorem Dev.clearReg_laps (d : Dev) (r : Reg) : (d.clearReg r).laps = d.laps := rfl
@[simp] theorem Dev.clearReg_coupling (d : Dev) (r : Reg) : (d.clearReg r).coupling = d.coupling := rfl
@[simp] theorem Dev.clearReg_anchors (d : Dev) (r : Reg) : (d.clearReg r).anchors = d.anchors := rfl
@[simp] theorem Dev.clearReg_ports (d : Dev) (r : Reg) : (d.clearReg r).ports = d.ports := rfl
@[simp] theorem Dev.clearReg_turnCtr (d : Dev) (r : Reg) : (d.clearReg r).turnCtr = d.turnCtr := rfl
@[simp] theorem Dev.clearReg_remotes (d : Dev) (r : Reg) : (d.clearReg r).remotes = d.remotes := rfl
@[simp] theorem Dev.clearReg_withheld (d : Dev) (r : Reg) : (d.clearReg r).withheld = d.withheld := rfl
@[simp] theorem Dev.clearReg_nextTag (d : Dev) (r : Reg) : (d.clearReg r).nextTag = d.nextTag := rfl
@[simp] theorem Dev.clearReg_emcy (d : Dev) (r : Reg) : (d.clearReg r).emcy = d.emcy := rfl
@[simp] theorem Dev.clearReg_emcyAt (d : Dev) (r : Reg) : (d.clearReg r).emcyAt = d.emcyAt := rfl
@[simp] theorem Dev.clearReg_updates (d : Dev) (r : Reg) : (d.clearReg r).updates = d.updates := rfl
@[simp] theorem Dev.clearReg_nmt (d : Dev) (r : Reg) : (d.clearReg r).nmt = d.nmt := rfl
@[simp] theorem Dev.clearReg_comm (d : Dev) (r : Reg) : (d.clearReg r).comm = d.comm := rfl
@[simp] theorem Dev.clearReg_rate (d : Dev) (r : Reg) : (d.clearReg r).rate = d.rate := rfl
@[simp] theorem Dev.clearReg_restore (d : Dev) (r : Reg) : (d.clearReg r).restore = d.restore := rfl
@[simp] theorem Dev.clearReg_fwVer (d : Dev) (r : Reg) : (d.clearReg r).fwVer = d.fwVer := rfl
@[simp] theorem Dev.clearReg_usdo (d : Dev) (r : Reg) : (d.clearReg r).usdo = d.usdo := rfl
@[simp] theorem Dev.clearReg_cursors (d : Dev) (r : Reg) : (d.clearReg r).cursors = d.cursors := rfl
@[simp] theorem Dev.clearReg_dirty (d : Dev) (r : Reg) : (d.clearReg r).dirty = d.dirty := rfl
@[simp] theorem Dev.clearReg_tpdoAt (d : Dev) (r : Reg) : (d.clearReg r).tpdoAt = d.tpdoAt := rfl
@[simp] theorem Dev.clearReg_pace (d : Dev) (r : Reg) : (d.clearReg r).pace = d.pace := rfl
@[simp] theorem Dev.clearReg_package (d : Dev) (r : Reg) : (d.clearReg r).package = d.package := rfl
@[simp] theorem Dev.clearReg_hostWait (d : Dev) (r : Reg) : (d.clearReg r).hostWait = d.hostWait := rfl
@[simp] theorem Dev.clearReg_vaultFn (d : Dev) (r : Reg) : (d.clearReg r).vaultFn = d.vaultFn := rfl
@[simp] theorem Dev.clearReg_early (d : Dev) (r : Reg) : (d.clearReg r).early = d.early := rfl
@[simp] theorem Dev.clearReg_master (d : Dev) (r : Reg) : (d.clearReg r).master = d.master := rfl
@[simp] theorem Dev.clearReg_waits (d : Dev) (r : Reg) : (d.clearReg r).waits = d.waits := rfl
@[simp] theorem Dev.clearReg_refusing (d : Dev) (r : Reg) : (d.clearReg r).refusing = d.refusing := rfl
@[simp] theorem Dev.clearReg_testAt (d : Dev) (r : Reg) : (d.clearReg r).testAt = d.testAt := rfl
@[simp] theorem Dev.clearReg_sweeps (d : Dev) (r : Reg) : (d.clearReg r).sweeps = d.sweeps := rfl
@[simp] theorem Dev.clearReg_genOpen (d : Dev) (r : Reg) : (d.clearReg r).genOpen = d.genOpen := rfl
@[simp] theorem Dev.clearReg_image (d : Dev) (r : Reg) : (d.clearReg r).image = d.image := rfl
@[simp] theorem Dev.clearReg_snaps (d : Dev) (r : Reg) : (d.clearReg r).snaps = d.snaps := rfl
@[simp] theorem Dev.clearReg_acts (d : Dev) (r : Reg) : (d.clearReg r).acts = d.acts := rfl
@[simp] theorem Dev.clearRegs_freeCtr (d : Dev) (lo hi : Nat) : (d.clearRegs lo hi).freeCtr = d.freeCtr := rfl
@[simp] theorem Dev.clearRegs_out (d : Dev) (lo hi : Nat) : (d.clearRegs lo hi).out = d.out := rfl
@[simp] theorem Dev.clearRegs_powered (d : Dev) (lo hi : Nat) : (d.clearRegs lo hi).powered = d.powered := rfl
@[simp] theorem Dev.clearRegs_seqs (d : Dev) (lo hi : Nat) : (d.clearRegs lo hi).seqs = d.seqs := rfl
@[simp] theorem Dev.clearRegs_strtRes (d : Dev) (lo hi : Nat) : (d.clearRegs lo hi).strtRes = d.strtRes := rfl
@[simp] theorem Dev.clearRegs_nodeHeld (d : Dev) (lo hi : Nat) : (d.clearRegs lo hi).nodeHeld = d.nodeHeld := rfl
@[simp] theorem Dev.clearRegs_bootEnv (d : Dev) (lo hi : Nat) : (d.clearRegs lo hi).bootEnv = d.bootEnv := rfl
@[simp] theorem Dev.clearRegs_replaceN (d : Dev) (lo hi : Nat) : (d.clearRegs lo hi).replaceN = d.replaceN := rfl
@[simp] theorem Dev.clearRegs_thermN (d : Dev) (lo hi : Nat) : (d.clearRegs lo hi).thermN = d.thermN := rfl
@[simp] theorem Dev.clearRegs_optEn (d : Dev) (lo hi : Nat) : (d.clearRegs lo hi).optEn = d.optEn := rfl
@[simp] theorem Dev.clearRegs_parent (d : Dev) (lo hi : Nat) : (d.clearRegs lo hi).parent = d.parent := rfl
@[simp] theorem Dev.clearRegs_locked (d : Dev) (lo hi : Nat) : (d.clearRegs lo hi).locked = d.locked := rfl
@[simp] theorem Dev.clearRegs_timeCopy (d : Dev) (lo hi : Nat) : (d.clearRegs lo hi).timeCopy = d.timeCopy := rfl
@[simp] theorem Dev.clearRegs_cores (d : Dev) (lo hi : Nat) : (d.clearRegs lo hi).cores = d.cores := rfl
@[simp] theorem Dev.clearRegs_clusters (d : Dev) (lo hi : Nat) : (d.clearRegs lo hi).clusters = d.clusters := rfl
@[simp] theorem Dev.clearRegs_hurdles (d : Dev) (lo hi : Nat) : (d.clearRegs lo hi).hurdles = d.hurdles := rfl
@[simp] theorem Dev.clearRegs_phArr (d : Dev) (lo hi : Nat) : (d.clearRegs lo hi).phArr = d.phArr := rfl
@[simp] theorem Dev.clearRegs_chans (d : Dev) (lo hi : Nat) : (d.clearRegs lo hi).chans = d.chans := rfl
@[simp] theorem Dev.clearRegs_epochs (d : Dev) (lo hi : Nat) : (d.clearRegs lo hi).epochs = d.epochs := rfl
@[simp] theorem Dev.clearRegs_bar4 (d : Dev) (lo hi : Nat) : (d.clearRegs lo hi).bar4 = d.bar4 := rfl
@[simp] theorem Dev.clearRegs_hopRes (d : Dev) (lo hi : Nat) : (d.clearRegs lo hi).hopRes = d.hopRes := rfl
@[simp] theorem Dev.clearRegs_tlb (d : Dev) (lo hi : Nat) : (d.clearRegs lo hi).tlb = d.tlb := rfl
@[simp] theorem Dev.clearRegs_walks (d : Dev) (lo hi : Nat) : (d.clearRegs lo hi).walks = d.walks := rfl
@[simp] theorem Dev.clearRegs_inval (d : Dev) (lo hi : Nat) : (d.clearRegs lo hi).inval = d.inval := rfl
@[simp] theorem Dev.clearRegs_pagers (d : Dev) (lo hi : Nat) : (d.clearRegs lo hi).pagers = d.pagers := rfl
@[simp] theorem Dev.clearRegs_queues (d : Dev) (lo hi : Nat) : (d.clearRegs lo hi).queues = d.queues := rfl
@[simp] theorem Dev.clearRegs_disp (d : Dev) (lo hi : Nat) : (d.clearRegs lo hi).disp = d.disp := rfl
@[simp] theorem Dev.clearRegs_submStage (d : Dev) (lo hi : Nat) : (d.clearRegs lo hi).submStage = d.submStage := rfl
@[simp] theorem Dev.clearRegs_submRes (d : Dev) (lo hi : Nat) : (d.clearRegs lo hi).submRes = d.submRes := rfl
@[simp] theorem Dev.clearRegs_hintStage (d : Dev) (lo hi : Nat) : (d.clearRegs lo hi).hintStage = d.hintStage := rfl
@[simp] theorem Dev.clearRegs_reqs (d : Dev) (lo hi : Nat) : (d.clearRegs lo hi).reqs = d.reqs := rfl
@[simp] theorem Dev.clearRegs_nextReq (d : Dev) (lo hi : Nat) : (d.clearRegs lo hi).nextReq = d.nextReq := rfl
@[simp] theorem Dev.clearRegs_arrivals (d : Dev) (lo hi : Nat) : (d.clearRegs lo hi).arrivals = d.arrivals := rfl
@[simp] theorem Dev.clearRegs_cache (d : Dev) (lo hi : Nat) : (d.clearRegs lo hi).cache = d.cache := rfl
@[simp] theorem Dev.clearRegs_slices (d : Dev) (lo hi : Nat) : (d.clearRegs lo hi).slices = d.slices := rfl
@[simp] theorem Dev.clearRegs_laps (d : Dev) (lo hi : Nat) : (d.clearRegs lo hi).laps = d.laps := rfl
@[simp] theorem Dev.clearRegs_coupling (d : Dev) (lo hi : Nat) : (d.clearRegs lo hi).coupling = d.coupling := rfl
@[simp] theorem Dev.clearRegs_anchors (d : Dev) (lo hi : Nat) : (d.clearRegs lo hi).anchors = d.anchors := rfl
@[simp] theorem Dev.clearRegs_ports (d : Dev) (lo hi : Nat) : (d.clearRegs lo hi).ports = d.ports := rfl
@[simp] theorem Dev.clearRegs_turnCtr (d : Dev) (lo hi : Nat) : (d.clearRegs lo hi).turnCtr = d.turnCtr := rfl
@[simp] theorem Dev.clearRegs_remotes (d : Dev) (lo hi : Nat) : (d.clearRegs lo hi).remotes = d.remotes := rfl
@[simp] theorem Dev.clearRegs_withheld (d : Dev) (lo hi : Nat) : (d.clearRegs lo hi).withheld = d.withheld := rfl
@[simp] theorem Dev.clearRegs_nextTag (d : Dev) (lo hi : Nat) : (d.clearRegs lo hi).nextTag = d.nextTag := rfl
@[simp] theorem Dev.clearRegs_emcy (d : Dev) (lo hi : Nat) : (d.clearRegs lo hi).emcy = d.emcy := rfl
@[simp] theorem Dev.clearRegs_emcyAt (d : Dev) (lo hi : Nat) : (d.clearRegs lo hi).emcyAt = d.emcyAt := rfl
@[simp] theorem Dev.clearRegs_updates (d : Dev) (lo hi : Nat) : (d.clearRegs lo hi).updates = d.updates := rfl
@[simp] theorem Dev.clearRegs_nmt (d : Dev) (lo hi : Nat) : (d.clearRegs lo hi).nmt = d.nmt := rfl
@[simp] theorem Dev.clearRegs_comm (d : Dev) (lo hi : Nat) : (d.clearRegs lo hi).comm = d.comm := rfl
@[simp] theorem Dev.clearRegs_rate (d : Dev) (lo hi : Nat) : (d.clearRegs lo hi).rate = d.rate := rfl
@[simp] theorem Dev.clearRegs_restore (d : Dev) (lo hi : Nat) : (d.clearRegs lo hi).restore = d.restore := rfl
@[simp] theorem Dev.clearRegs_fwVer (d : Dev) (lo hi : Nat) : (d.clearRegs lo hi).fwVer = d.fwVer := rfl
@[simp] theorem Dev.clearRegs_usdo (d : Dev) (lo hi : Nat) : (d.clearRegs lo hi).usdo = d.usdo := rfl
@[simp] theorem Dev.clearRegs_cursors (d : Dev) (lo hi : Nat) : (d.clearRegs lo hi).cursors = d.cursors := rfl
@[simp] theorem Dev.clearRegs_dirty (d : Dev) (lo hi : Nat) : (d.clearRegs lo hi).dirty = d.dirty := rfl
@[simp] theorem Dev.clearRegs_tpdoAt (d : Dev) (lo hi : Nat) : (d.clearRegs lo hi).tpdoAt = d.tpdoAt := rfl
@[simp] theorem Dev.clearRegs_pace (d : Dev) (lo hi : Nat) : (d.clearRegs lo hi).pace = d.pace := rfl
@[simp] theorem Dev.clearRegs_package (d : Dev) (lo hi : Nat) : (d.clearRegs lo hi).package = d.package := rfl
@[simp] theorem Dev.clearRegs_hostWait (d : Dev) (lo hi : Nat) : (d.clearRegs lo hi).hostWait = d.hostWait := rfl
@[simp] theorem Dev.clearRegs_vaultFn (d : Dev) (lo hi : Nat) : (d.clearRegs lo hi).vaultFn = d.vaultFn := rfl
@[simp] theorem Dev.clearRegs_early (d : Dev) (lo hi : Nat) : (d.clearRegs lo hi).early = d.early := rfl
@[simp] theorem Dev.clearRegs_master (d : Dev) (lo hi : Nat) : (d.clearRegs lo hi).master = d.master := rfl
@[simp] theorem Dev.clearRegs_waits (d : Dev) (lo hi : Nat) : (d.clearRegs lo hi).waits = d.waits := rfl
@[simp] theorem Dev.clearRegs_refusing (d : Dev) (lo hi : Nat) : (d.clearRegs lo hi).refusing = d.refusing := rfl
@[simp] theorem Dev.clearRegs_testAt (d : Dev) (lo hi : Nat) : (d.clearRegs lo hi).testAt = d.testAt := rfl
@[simp] theorem Dev.clearRegs_sweeps (d : Dev) (lo hi : Nat) : (d.clearRegs lo hi).sweeps = d.sweeps := rfl
@[simp] theorem Dev.clearRegs_genOpen (d : Dev) (lo hi : Nat) : (d.clearRegs lo hi).genOpen = d.genOpen := rfl
@[simp] theorem Dev.clearRegs_image (d : Dev) (lo hi : Nat) : (d.clearRegs lo hi).image = d.image := rfl
@[simp] theorem Dev.clearRegs_snaps (d : Dev) (lo hi : Nat) : (d.clearRegs lo hi).snaps = d.snaps := rfl
@[simp] theorem Dev.clearRegs_acts (d : Dev) (lo hi : Nat) : (d.clearRegs lo hi).acts = d.acts := rfl
@[simp] theorem Dev.setMsix_freeCtr (d : Dev) (fn i : Nat) (w : Word) : (d.setMsix fn i w).freeCtr = d.freeCtr := rfl
@[simp] theorem Dev.setMsix_out (d : Dev) (fn i : Nat) (w : Word) : (d.setMsix fn i w).out = d.out := rfl
@[simp] theorem Dev.setMsix_powered (d : Dev) (fn i : Nat) (w : Word) : (d.setMsix fn i w).powered = d.powered := rfl
@[simp] theorem Dev.setMsix_seqs (d : Dev) (fn i : Nat) (w : Word) : (d.setMsix fn i w).seqs = d.seqs := rfl
@[simp] theorem Dev.setMsix_strtRes (d : Dev) (fn i : Nat) (w : Word) : (d.setMsix fn i w).strtRes = d.strtRes := rfl
@[simp] theorem Dev.setMsix_nodeHeld (d : Dev) (fn i : Nat) (w : Word) : (d.setMsix fn i w).nodeHeld = d.nodeHeld := rfl
@[simp] theorem Dev.setMsix_bootEnv (d : Dev) (fn i : Nat) (w : Word) : (d.setMsix fn i w).bootEnv = d.bootEnv := rfl
@[simp] theorem Dev.setMsix_replaceN (d : Dev) (fn i : Nat) (w : Word) : (d.setMsix fn i w).replaceN = d.replaceN := rfl
@[simp] theorem Dev.setMsix_thermN (d : Dev) (fn i : Nat) (w : Word) : (d.setMsix fn i w).thermN = d.thermN := rfl
@[simp] theorem Dev.setMsix_optEn (d : Dev) (fn i : Nat) (w : Word) : (d.setMsix fn i w).optEn = d.optEn := rfl
@[simp] theorem Dev.setMsix_parent (d : Dev) (fn i : Nat) (w : Word) : (d.setMsix fn i w).parent = d.parent := rfl
@[simp] theorem Dev.setMsix_locked (d : Dev) (fn i : Nat) (w : Word) : (d.setMsix fn i w).locked = d.locked := rfl
@[simp] theorem Dev.setMsix_timeCopy (d : Dev) (fn i : Nat) (w : Word) : (d.setMsix fn i w).timeCopy = d.timeCopy := rfl
@[simp] theorem Dev.setMsix_cores (d : Dev) (fn i : Nat) (w : Word) : (d.setMsix fn i w).cores = d.cores := rfl
@[simp] theorem Dev.setMsix_clusters (d : Dev) (fn i : Nat) (w : Word) : (d.setMsix fn i w).clusters = d.clusters := rfl
@[simp] theorem Dev.setMsix_hurdles (d : Dev) (fn i : Nat) (w : Word) : (d.setMsix fn i w).hurdles = d.hurdles := rfl
@[simp] theorem Dev.setMsix_phArr (d : Dev) (fn i : Nat) (w : Word) : (d.setMsix fn i w).phArr = d.phArr := rfl
@[simp] theorem Dev.setMsix_chans (d : Dev) (fn i : Nat) (w : Word) : (d.setMsix fn i w).chans = d.chans := rfl
@[simp] theorem Dev.setMsix_epochs (d : Dev) (fn i : Nat) (w : Word) : (d.setMsix fn i w).epochs = d.epochs := rfl
@[simp] theorem Dev.setMsix_bar4 (d : Dev) (fn i : Nat) (w : Word) : (d.setMsix fn i w).bar4 = d.bar4 := rfl
@[simp] theorem Dev.setMsix_hopRes (d : Dev) (fn i : Nat) (w : Word) : (d.setMsix fn i w).hopRes = d.hopRes := rfl
@[simp] theorem Dev.setMsix_tlb (d : Dev) (fn i : Nat) (w : Word) : (d.setMsix fn i w).tlb = d.tlb := rfl
@[simp] theorem Dev.setMsix_walks (d : Dev) (fn i : Nat) (w : Word) : (d.setMsix fn i w).walks = d.walks := rfl
@[simp] theorem Dev.setMsix_inval (d : Dev) (fn i : Nat) (w : Word) : (d.setMsix fn i w).inval = d.inval := rfl
@[simp] theorem Dev.setMsix_pagers (d : Dev) (fn i : Nat) (w : Word) : (d.setMsix fn i w).pagers = d.pagers := rfl
@[simp] theorem Dev.setMsix_queues (d : Dev) (fn i : Nat) (w : Word) : (d.setMsix fn i w).queues = d.queues := rfl
@[simp] theorem Dev.setMsix_disp (d : Dev) (fn i : Nat) (w : Word) : (d.setMsix fn i w).disp = d.disp := rfl
@[simp] theorem Dev.setMsix_submStage (d : Dev) (fn i : Nat) (w : Word) : (d.setMsix fn i w).submStage = d.submStage := rfl
@[simp] theorem Dev.setMsix_submRes (d : Dev) (fn i : Nat) (w : Word) : (d.setMsix fn i w).submRes = d.submRes := rfl
@[simp] theorem Dev.setMsix_hintStage (d : Dev) (fn i : Nat) (w : Word) : (d.setMsix fn i w).hintStage = d.hintStage := rfl
@[simp] theorem Dev.setMsix_reqs (d : Dev) (fn i : Nat) (w : Word) : (d.setMsix fn i w).reqs = d.reqs := rfl
@[simp] theorem Dev.setMsix_nextReq (d : Dev) (fn i : Nat) (w : Word) : (d.setMsix fn i w).nextReq = d.nextReq := rfl
@[simp] theorem Dev.setMsix_arrivals (d : Dev) (fn i : Nat) (w : Word) : (d.setMsix fn i w).arrivals = d.arrivals := rfl
@[simp] theorem Dev.setMsix_cache (d : Dev) (fn i : Nat) (w : Word) : (d.setMsix fn i w).cache = d.cache := rfl
@[simp] theorem Dev.setMsix_slices (d : Dev) (fn i : Nat) (w : Word) : (d.setMsix fn i w).slices = d.slices := rfl
@[simp] theorem Dev.setMsix_laps (d : Dev) (fn i : Nat) (w : Word) : (d.setMsix fn i w).laps = d.laps := rfl
@[simp] theorem Dev.setMsix_coupling (d : Dev) (fn i : Nat) (w : Word) : (d.setMsix fn i w).coupling = d.coupling := rfl
@[simp] theorem Dev.setMsix_anchors (d : Dev) (fn i : Nat) (w : Word) : (d.setMsix fn i w).anchors = d.anchors := rfl
@[simp] theorem Dev.setMsix_ports (d : Dev) (fn i : Nat) (w : Word) : (d.setMsix fn i w).ports = d.ports := rfl
@[simp] theorem Dev.setMsix_turnCtr (d : Dev) (fn i : Nat) (w : Word) : (d.setMsix fn i w).turnCtr = d.turnCtr := rfl
@[simp] theorem Dev.setMsix_remotes (d : Dev) (fn i : Nat) (w : Word) : (d.setMsix fn i w).remotes = d.remotes := rfl
@[simp] theorem Dev.setMsix_withheld (d : Dev) (fn i : Nat) (w : Word) : (d.setMsix fn i w).withheld = d.withheld := rfl
@[simp] theorem Dev.setMsix_nextTag (d : Dev) (fn i : Nat) (w : Word) : (d.setMsix fn i w).nextTag = d.nextTag := rfl
@[simp] theorem Dev.setMsix_emcy (d : Dev) (fn i : Nat) (w : Word) : (d.setMsix fn i w).emcy = d.emcy := rfl
@[simp] theorem Dev.setMsix_emcyAt (d : Dev) (fn i : Nat) (w : Word) : (d.setMsix fn i w).emcyAt = d.emcyAt := rfl
@[simp] theorem Dev.setMsix_updates (d : Dev) (fn i : Nat) (w : Word) : (d.setMsix fn i w).updates = d.updates := rfl
@[simp] theorem Dev.setMsix_nmt (d : Dev) (fn i : Nat) (w : Word) : (d.setMsix fn i w).nmt = d.nmt := rfl
@[simp] theorem Dev.setMsix_comm (d : Dev) (fn i : Nat) (w : Word) : (d.setMsix fn i w).comm = d.comm := rfl
@[simp] theorem Dev.setMsix_rate (d : Dev) (fn i : Nat) (w : Word) : (d.setMsix fn i w).rate = d.rate := rfl
@[simp] theorem Dev.setMsix_restore (d : Dev) (fn i : Nat) (w : Word) : (d.setMsix fn i w).restore = d.restore := rfl
@[simp] theorem Dev.setMsix_fwVer (d : Dev) (fn i : Nat) (w : Word) : (d.setMsix fn i w).fwVer = d.fwVer := rfl
@[simp] theorem Dev.setMsix_usdo (d : Dev) (fn i : Nat) (w : Word) : (d.setMsix fn i w).usdo = d.usdo := rfl
@[simp] theorem Dev.setMsix_cursors (d : Dev) (fn i : Nat) (w : Word) : (d.setMsix fn i w).cursors = d.cursors := rfl
@[simp] theorem Dev.setMsix_dirty (d : Dev) (fn i : Nat) (w : Word) : (d.setMsix fn i w).dirty = d.dirty := rfl
@[simp] theorem Dev.setMsix_tpdoAt (d : Dev) (fn i : Nat) (w : Word) : (d.setMsix fn i w).tpdoAt = d.tpdoAt := rfl
@[simp] theorem Dev.setMsix_pace (d : Dev) (fn i : Nat) (w : Word) : (d.setMsix fn i w).pace = d.pace := rfl
@[simp] theorem Dev.setMsix_package (d : Dev) (fn i : Nat) (w : Word) : (d.setMsix fn i w).package = d.package := rfl
@[simp] theorem Dev.setMsix_hostWait (d : Dev) (fn i : Nat) (w : Word) : (d.setMsix fn i w).hostWait = d.hostWait := rfl
@[simp] theorem Dev.setMsix_vaultFn (d : Dev) (fn i : Nat) (w : Word) : (d.setMsix fn i w).vaultFn = d.vaultFn := rfl
@[simp] theorem Dev.setMsix_early (d : Dev) (fn i : Nat) (w : Word) : (d.setMsix fn i w).early = d.early := rfl
@[simp] theorem Dev.setMsix_master (d : Dev) (fn i : Nat) (w : Word) : (d.setMsix fn i w).master = d.master := rfl
@[simp] theorem Dev.setMsix_waits (d : Dev) (fn i : Nat) (w : Word) : (d.setMsix fn i w).waits = d.waits := rfl
@[simp] theorem Dev.setMsix_refusing (d : Dev) (fn i : Nat) (w : Word) : (d.setMsix fn i w).refusing = d.refusing := rfl
@[simp] theorem Dev.setMsix_testAt (d : Dev) (fn i : Nat) (w : Word) : (d.setMsix fn i w).testAt = d.testAt := rfl
@[simp] theorem Dev.setMsix_sweeps (d : Dev) (fn i : Nat) (w : Word) : (d.setMsix fn i w).sweeps = d.sweeps := rfl
@[simp] theorem Dev.setMsix_genOpen (d : Dev) (fn i : Nat) (w : Word) : (d.setMsix fn i w).genOpen = d.genOpen := rfl
@[simp] theorem Dev.setMsix_image (d : Dev) (fn i : Nat) (w : Word) : (d.setMsix fn i w).image = d.image := rfl
@[simp] theorem Dev.setMsix_snaps (d : Dev) (fn i : Nat) (w : Word) : (d.setMsix fn i w).snaps = d.snaps := rfl
@[simp] theorem Dev.setMsix_acts (d : Dev) (fn i : Nat) (w : Word) : (d.setMsix fn i w).acts = d.acts := rfl
@[simp] theorem Dev.setPba_freeCtr (d : Dev) (fn : Nat) (w : Word) : (d.setPba fn w).freeCtr = d.freeCtr := rfl
@[simp] theorem Dev.setPba_out (d : Dev) (fn : Nat) (w : Word) : (d.setPba fn w).out = d.out := rfl
@[simp] theorem Dev.setPba_powered (d : Dev) (fn : Nat) (w : Word) : (d.setPba fn w).powered = d.powered := rfl
@[simp] theorem Dev.setPba_seqs (d : Dev) (fn : Nat) (w : Word) : (d.setPba fn w).seqs = d.seqs := rfl
@[simp] theorem Dev.setPba_strtRes (d : Dev) (fn : Nat) (w : Word) : (d.setPba fn w).strtRes = d.strtRes := rfl
@[simp] theorem Dev.setPba_nodeHeld (d : Dev) (fn : Nat) (w : Word) : (d.setPba fn w).nodeHeld = d.nodeHeld := rfl
@[simp] theorem Dev.setPba_bootEnv (d : Dev) (fn : Nat) (w : Word) : (d.setPba fn w).bootEnv = d.bootEnv := rfl
@[simp] theorem Dev.setPba_replaceN (d : Dev) (fn : Nat) (w : Word) : (d.setPba fn w).replaceN = d.replaceN := rfl
@[simp] theorem Dev.setPba_thermN (d : Dev) (fn : Nat) (w : Word) : (d.setPba fn w).thermN = d.thermN := rfl
@[simp] theorem Dev.setPba_optEn (d : Dev) (fn : Nat) (w : Word) : (d.setPba fn w).optEn = d.optEn := rfl
@[simp] theorem Dev.setPba_parent (d : Dev) (fn : Nat) (w : Word) : (d.setPba fn w).parent = d.parent := rfl
@[simp] theorem Dev.setPba_locked (d : Dev) (fn : Nat) (w : Word) : (d.setPba fn w).locked = d.locked := rfl
@[simp] theorem Dev.setPba_timeCopy (d : Dev) (fn : Nat) (w : Word) : (d.setPba fn w).timeCopy = d.timeCopy := rfl
@[simp] theorem Dev.setPba_cores (d : Dev) (fn : Nat) (w : Word) : (d.setPba fn w).cores = d.cores := rfl
@[simp] theorem Dev.setPba_clusters (d : Dev) (fn : Nat) (w : Word) : (d.setPba fn w).clusters = d.clusters := rfl
@[simp] theorem Dev.setPba_hurdles (d : Dev) (fn : Nat) (w : Word) : (d.setPba fn w).hurdles = d.hurdles := rfl
@[simp] theorem Dev.setPba_phArr (d : Dev) (fn : Nat) (w : Word) : (d.setPba fn w).phArr = d.phArr := rfl
@[simp] theorem Dev.setPba_chans (d : Dev) (fn : Nat) (w : Word) : (d.setPba fn w).chans = d.chans := rfl
@[simp] theorem Dev.setPba_epochs (d : Dev) (fn : Nat) (w : Word) : (d.setPba fn w).epochs = d.epochs := rfl
@[simp] theorem Dev.setPba_bar4 (d : Dev) (fn : Nat) (w : Word) : (d.setPba fn w).bar4 = d.bar4 := rfl
@[simp] theorem Dev.setPba_hopRes (d : Dev) (fn : Nat) (w : Word) : (d.setPba fn w).hopRes = d.hopRes := rfl
@[simp] theorem Dev.setPba_tlb (d : Dev) (fn : Nat) (w : Word) : (d.setPba fn w).tlb = d.tlb := rfl
@[simp] theorem Dev.setPba_walks (d : Dev) (fn : Nat) (w : Word) : (d.setPba fn w).walks = d.walks := rfl
@[simp] theorem Dev.setPba_inval (d : Dev) (fn : Nat) (w : Word) : (d.setPba fn w).inval = d.inval := rfl
@[simp] theorem Dev.setPba_pagers (d : Dev) (fn : Nat) (w : Word) : (d.setPba fn w).pagers = d.pagers := rfl
@[simp] theorem Dev.setPba_queues (d : Dev) (fn : Nat) (w : Word) : (d.setPba fn w).queues = d.queues := rfl
@[simp] theorem Dev.setPba_disp (d : Dev) (fn : Nat) (w : Word) : (d.setPba fn w).disp = d.disp := rfl
@[simp] theorem Dev.setPba_submStage (d : Dev) (fn : Nat) (w : Word) : (d.setPba fn w).submStage = d.submStage := rfl
@[simp] theorem Dev.setPba_submRes (d : Dev) (fn : Nat) (w : Word) : (d.setPba fn w).submRes = d.submRes := rfl
@[simp] theorem Dev.setPba_hintStage (d : Dev) (fn : Nat) (w : Word) : (d.setPba fn w).hintStage = d.hintStage := rfl
@[simp] theorem Dev.setPba_reqs (d : Dev) (fn : Nat) (w : Word) : (d.setPba fn w).reqs = d.reqs := rfl
@[simp] theorem Dev.setPba_nextReq (d : Dev) (fn : Nat) (w : Word) : (d.setPba fn w).nextReq = d.nextReq := rfl
@[simp] theorem Dev.setPba_arrivals (d : Dev) (fn : Nat) (w : Word) : (d.setPba fn w).arrivals = d.arrivals := rfl
@[simp] theorem Dev.setPba_cache (d : Dev) (fn : Nat) (w : Word) : (d.setPba fn w).cache = d.cache := rfl
@[simp] theorem Dev.setPba_slices (d : Dev) (fn : Nat) (w : Word) : (d.setPba fn w).slices = d.slices := rfl
@[simp] theorem Dev.setPba_laps (d : Dev) (fn : Nat) (w : Word) : (d.setPba fn w).laps = d.laps := rfl
@[simp] theorem Dev.setPba_coupling (d : Dev) (fn : Nat) (w : Word) : (d.setPba fn w).coupling = d.coupling := rfl
@[simp] theorem Dev.setPba_anchors (d : Dev) (fn : Nat) (w : Word) : (d.setPba fn w).anchors = d.anchors := rfl
@[simp] theorem Dev.setPba_ports (d : Dev) (fn : Nat) (w : Word) : (d.setPba fn w).ports = d.ports := rfl
@[simp] theorem Dev.setPba_turnCtr (d : Dev) (fn : Nat) (w : Word) : (d.setPba fn w).turnCtr = d.turnCtr := rfl
@[simp] theorem Dev.setPba_remotes (d : Dev) (fn : Nat) (w : Word) : (d.setPba fn w).remotes = d.remotes := rfl
@[simp] theorem Dev.setPba_withheld (d : Dev) (fn : Nat) (w : Word) : (d.setPba fn w).withheld = d.withheld := rfl
@[simp] theorem Dev.setPba_nextTag (d : Dev) (fn : Nat) (w : Word) : (d.setPba fn w).nextTag = d.nextTag := rfl
@[simp] theorem Dev.setPba_emcy (d : Dev) (fn : Nat) (w : Word) : (d.setPba fn w).emcy = d.emcy := rfl
@[simp] theorem Dev.setPba_emcyAt (d : Dev) (fn : Nat) (w : Word) : (d.setPba fn w).emcyAt = d.emcyAt := rfl
@[simp] theorem Dev.setPba_updates (d : Dev) (fn : Nat) (w : Word) : (d.setPba fn w).updates = d.updates := rfl
@[simp] theorem Dev.setPba_nmt (d : Dev) (fn : Nat) (w : Word) : (d.setPba fn w).nmt = d.nmt := rfl
@[simp] theorem Dev.setPba_comm (d : Dev) (fn : Nat) (w : Word) : (d.setPba fn w).comm = d.comm := rfl
@[simp] theorem Dev.setPba_rate (d : Dev) (fn : Nat) (w : Word) : (d.setPba fn w).rate = d.rate := rfl
@[simp] theorem Dev.setPba_restore (d : Dev) (fn : Nat) (w : Word) : (d.setPba fn w).restore = d.restore := rfl
@[simp] theorem Dev.setPba_fwVer (d : Dev) (fn : Nat) (w : Word) : (d.setPba fn w).fwVer = d.fwVer := rfl
@[simp] theorem Dev.setPba_usdo (d : Dev) (fn : Nat) (w : Word) : (d.setPba fn w).usdo = d.usdo := rfl
@[simp] theorem Dev.setPba_cursors (d : Dev) (fn : Nat) (w : Word) : (d.setPba fn w).cursors = d.cursors := rfl
@[simp] theorem Dev.setPba_dirty (d : Dev) (fn : Nat) (w : Word) : (d.setPba fn w).dirty = d.dirty := rfl
@[simp] theorem Dev.setPba_tpdoAt (d : Dev) (fn : Nat) (w : Word) : (d.setPba fn w).tpdoAt = d.tpdoAt := rfl
@[simp] theorem Dev.setPba_pace (d : Dev) (fn : Nat) (w : Word) : (d.setPba fn w).pace = d.pace := rfl
@[simp] theorem Dev.setPba_package (d : Dev) (fn : Nat) (w : Word) : (d.setPba fn w).package = d.package := rfl
@[simp] theorem Dev.setPba_hostWait (d : Dev) (fn : Nat) (w : Word) : (d.setPba fn w).hostWait = d.hostWait := rfl
@[simp] theorem Dev.setPba_vaultFn (d : Dev) (fn : Nat) (w : Word) : (d.setPba fn w).vaultFn = d.vaultFn := rfl
@[simp] theorem Dev.setPba_early (d : Dev) (fn : Nat) (w : Word) : (d.setPba fn w).early = d.early := rfl
@[simp] theorem Dev.setPba_master (d : Dev) (fn : Nat) (w : Word) : (d.setPba fn w).master = d.master := rfl
@[simp] theorem Dev.setPba_waits (d : Dev) (fn : Nat) (w : Word) : (d.setPba fn w).waits = d.waits := rfl
@[simp] theorem Dev.setPba_refusing (d : Dev) (fn : Nat) (w : Word) : (d.setPba fn w).refusing = d.refusing := rfl
@[simp] theorem Dev.setPba_testAt (d : Dev) (fn : Nat) (w : Word) : (d.setPba fn w).testAt = d.testAt := rfl
@[simp] theorem Dev.setPba_sweeps (d : Dev) (fn : Nat) (w : Word) : (d.setPba fn w).sweeps = d.sweeps := rfl
@[simp] theorem Dev.setPba_genOpen (d : Dev) (fn : Nat) (w : Word) : (d.setPba fn w).genOpen = d.genOpen := rfl
@[simp] theorem Dev.setPba_image (d : Dev) (fn : Nat) (w : Word) : (d.setPba fn w).image = d.image := rfl
@[simp] theorem Dev.setPba_snaps (d : Dev) (fn : Nat) (w : Word) : (d.setPba fn w).snaps = d.snaps := rfl
@[simp] theorem Dev.setPba_acts (d : Dev) (fn : Nat) (w : Word) : (d.setPba fn w).acts = d.acts := rfl
@[simp] theorem Dev.spend_regs (d : Dev) (n : Nat) : (d.spend n).regs = d.regs := rfl
@[simp] theorem Dev.spend_out (d : Dev) (n : Nat) : (d.spend n).out = d.out := rfl
@[simp] theorem Dev.spend_powered (d : Dev) (n : Nat) : (d.spend n).powered = d.powered := rfl
@[simp] theorem Dev.spend_seqs (d : Dev) (n : Nat) : (d.spend n).seqs = d.seqs := rfl
@[simp] theorem Dev.spend_strtRes (d : Dev) (n : Nat) : (d.spend n).strtRes = d.strtRes := rfl
@[simp] theorem Dev.spend_nodeHeld (d : Dev) (n : Nat) : (d.spend n).nodeHeld = d.nodeHeld := rfl
@[simp] theorem Dev.spend_bootEnv (d : Dev) (n : Nat) : (d.spend n).bootEnv = d.bootEnv := rfl
@[simp] theorem Dev.spend_replaceN (d : Dev) (n : Nat) : (d.spend n).replaceN = d.replaceN := rfl
@[simp] theorem Dev.spend_thermN (d : Dev) (n : Nat) : (d.spend n).thermN = d.thermN := rfl
@[simp] theorem Dev.spend_optEn (d : Dev) (n : Nat) : (d.spend n).optEn = d.optEn := rfl
@[simp] theorem Dev.spend_parent (d : Dev) (n : Nat) : (d.spend n).parent = d.parent := rfl
@[simp] theorem Dev.spend_locked (d : Dev) (n : Nat) : (d.spend n).locked = d.locked := rfl
@[simp] theorem Dev.spend_timeCopy (d : Dev) (n : Nat) : (d.spend n).timeCopy = d.timeCopy := rfl
@[simp] theorem Dev.spend_cores (d : Dev) (n : Nat) : (d.spend n).cores = d.cores := rfl
@[simp] theorem Dev.spend_clusters (d : Dev) (n : Nat) : (d.spend n).clusters = d.clusters := rfl
@[simp] theorem Dev.spend_hurdles (d : Dev) (n : Nat) : (d.spend n).hurdles = d.hurdles := rfl
@[simp] theorem Dev.spend_phArr (d : Dev) (n : Nat) : (d.spend n).phArr = d.phArr := rfl
@[simp] theorem Dev.spend_chans (d : Dev) (n : Nat) : (d.spend n).chans = d.chans := rfl
@[simp] theorem Dev.spend_epochs (d : Dev) (n : Nat) : (d.spend n).epochs = d.epochs := rfl
@[simp] theorem Dev.spend_bar4 (d : Dev) (n : Nat) : (d.spend n).bar4 = d.bar4 := rfl
@[simp] theorem Dev.spend_hopRes (d : Dev) (n : Nat) : (d.spend n).hopRes = d.hopRes := rfl
@[simp] theorem Dev.spend_tlb (d : Dev) (n : Nat) : (d.spend n).tlb = d.tlb := rfl
@[simp] theorem Dev.spend_walks (d : Dev) (n : Nat) : (d.spend n).walks = d.walks := rfl
@[simp] theorem Dev.spend_inval (d : Dev) (n : Nat) : (d.spend n).inval = d.inval := rfl
@[simp] theorem Dev.spend_pagers (d : Dev) (n : Nat) : (d.spend n).pagers = d.pagers := rfl
@[simp] theorem Dev.spend_queues (d : Dev) (n : Nat) : (d.spend n).queues = d.queues := rfl
@[simp] theorem Dev.spend_disp (d : Dev) (n : Nat) : (d.spend n).disp = d.disp := rfl
@[simp] theorem Dev.spend_submStage (d : Dev) (n : Nat) : (d.spend n).submStage = d.submStage := rfl
@[simp] theorem Dev.spend_submRes (d : Dev) (n : Nat) : (d.spend n).submRes = d.submRes := rfl
@[simp] theorem Dev.spend_hintStage (d : Dev) (n : Nat) : (d.spend n).hintStage = d.hintStage := rfl
@[simp] theorem Dev.spend_reqs (d : Dev) (n : Nat) : (d.spend n).reqs = d.reqs := rfl
@[simp] theorem Dev.spend_nextReq (d : Dev) (n : Nat) : (d.spend n).nextReq = d.nextReq := rfl
@[simp] theorem Dev.spend_arrivals (d : Dev) (n : Nat) : (d.spend n).arrivals = d.arrivals := rfl
@[simp] theorem Dev.spend_cache (d : Dev) (n : Nat) : (d.spend n).cache = d.cache := rfl
@[simp] theorem Dev.spend_slices (d : Dev) (n : Nat) : (d.spend n).slices = d.slices := rfl
@[simp] theorem Dev.spend_laps (d : Dev) (n : Nat) : (d.spend n).laps = d.laps := rfl
@[simp] theorem Dev.spend_coupling (d : Dev) (n : Nat) : (d.spend n).coupling = d.coupling := rfl
@[simp] theorem Dev.spend_anchors (d : Dev) (n : Nat) : (d.spend n).anchors = d.anchors := rfl
@[simp] theorem Dev.spend_ports (d : Dev) (n : Nat) : (d.spend n).ports = d.ports := rfl
@[simp] theorem Dev.spend_turnCtr (d : Dev) (n : Nat) : (d.spend n).turnCtr = d.turnCtr := rfl
@[simp] theorem Dev.spend_remotes (d : Dev) (n : Nat) : (d.spend n).remotes = d.remotes := rfl
@[simp] theorem Dev.spend_withheld (d : Dev) (n : Nat) : (d.spend n).withheld = d.withheld := rfl
@[simp] theorem Dev.spend_nextTag (d : Dev) (n : Nat) : (d.spend n).nextTag = d.nextTag := rfl
@[simp] theorem Dev.spend_emcy (d : Dev) (n : Nat) : (d.spend n).emcy = d.emcy := rfl
@[simp] theorem Dev.spend_emcyAt (d : Dev) (n : Nat) : (d.spend n).emcyAt = d.emcyAt := rfl
@[simp] theorem Dev.spend_updates (d : Dev) (n : Nat) : (d.spend n).updates = d.updates := rfl
@[simp] theorem Dev.spend_nmt (d : Dev) (n : Nat) : (d.spend n).nmt = d.nmt := rfl
@[simp] theorem Dev.spend_comm (d : Dev) (n : Nat) : (d.spend n).comm = d.comm := rfl
@[simp] theorem Dev.spend_rate (d : Dev) (n : Nat) : (d.spend n).rate = d.rate := rfl
@[simp] theorem Dev.spend_restore (d : Dev) (n : Nat) : (d.spend n).restore = d.restore := rfl
@[simp] theorem Dev.spend_fwVer (d : Dev) (n : Nat) : (d.spend n).fwVer = d.fwVer := rfl
@[simp] theorem Dev.spend_usdo (d : Dev) (n : Nat) : (d.spend n).usdo = d.usdo := rfl
@[simp] theorem Dev.spend_cursors (d : Dev) (n : Nat) : (d.spend n).cursors = d.cursors := rfl
@[simp] theorem Dev.spend_dirty (d : Dev) (n : Nat) : (d.spend n).dirty = d.dirty := rfl
@[simp] theorem Dev.spend_tpdoAt (d : Dev) (n : Nat) : (d.spend n).tpdoAt = d.tpdoAt := rfl
@[simp] theorem Dev.spend_pace (d : Dev) (n : Nat) : (d.spend n).pace = d.pace := rfl
@[simp] theorem Dev.spend_package (d : Dev) (n : Nat) : (d.spend n).package = d.package := rfl
@[simp] theorem Dev.spend_hostWait (d : Dev) (n : Nat) : (d.spend n).hostWait = d.hostWait := rfl
@[simp] theorem Dev.spend_vaultFn (d : Dev) (n : Nat) : (d.spend n).vaultFn = d.vaultFn := rfl
@[simp] theorem Dev.emit_regs (d : Dev) (x : Output) : (d.emit x).regs = d.regs := rfl
@[simp] theorem Dev.emit_freeCtr (d : Dev) (x : Output) : (d.emit x).freeCtr = d.freeCtr := rfl
@[simp] theorem Dev.emit_powered (d : Dev) (x : Output) : (d.emit x).powered = d.powered := rfl
@[simp] theorem Dev.emit_seqs (d : Dev) (x : Output) : (d.emit x).seqs = d.seqs := rfl
@[simp] theorem Dev.emit_strtRes (d : Dev) (x : Output) : (d.emit x).strtRes = d.strtRes := rfl
@[simp] theorem Dev.emit_nodeHeld (d : Dev) (x : Output) : (d.emit x).nodeHeld = d.nodeHeld := rfl
@[simp] theorem Dev.emit_bootEnv (d : Dev) (x : Output) : (d.emit x).bootEnv = d.bootEnv := rfl
@[simp] theorem Dev.emit_replaceN (d : Dev) (x : Output) : (d.emit x).replaceN = d.replaceN := rfl
@[simp] theorem Dev.emit_thermN (d : Dev) (x : Output) : (d.emit x).thermN = d.thermN := rfl
@[simp] theorem Dev.emit_optEn (d : Dev) (x : Output) : (d.emit x).optEn = d.optEn := rfl
@[simp] theorem Dev.emit_parent (d : Dev) (x : Output) : (d.emit x).parent = d.parent := rfl
@[simp] theorem Dev.emit_locked (d : Dev) (x : Output) : (d.emit x).locked = d.locked := rfl
@[simp] theorem Dev.emit_timeCopy (d : Dev) (x : Output) : (d.emit x).timeCopy = d.timeCopy := rfl
@[simp] theorem Dev.emit_cores (d : Dev) (x : Output) : (d.emit x).cores = d.cores := rfl
@[simp] theorem Dev.emit_clusters (d : Dev) (x : Output) : (d.emit x).clusters = d.clusters := rfl
@[simp] theorem Dev.emit_hurdles (d : Dev) (x : Output) : (d.emit x).hurdles = d.hurdles := rfl
@[simp] theorem Dev.emit_phArr (d : Dev) (x : Output) : (d.emit x).phArr = d.phArr := rfl
@[simp] theorem Dev.emit_chans (d : Dev) (x : Output) : (d.emit x).chans = d.chans := rfl
@[simp] theorem Dev.emit_epochs (d : Dev) (x : Output) : (d.emit x).epochs = d.epochs := rfl
@[simp] theorem Dev.emit_bar4 (d : Dev) (x : Output) : (d.emit x).bar4 = d.bar4 := rfl
@[simp] theorem Dev.emit_hopRes (d : Dev) (x : Output) : (d.emit x).hopRes = d.hopRes := rfl
@[simp] theorem Dev.emit_tlb (d : Dev) (x : Output) : (d.emit x).tlb = d.tlb := rfl
@[simp] theorem Dev.emit_walks (d : Dev) (x : Output) : (d.emit x).walks = d.walks := rfl
@[simp] theorem Dev.emit_inval (d : Dev) (x : Output) : (d.emit x).inval = d.inval := rfl
@[simp] theorem Dev.emit_pagers (d : Dev) (x : Output) : (d.emit x).pagers = d.pagers := rfl
@[simp] theorem Dev.emit_queues (d : Dev) (x : Output) : (d.emit x).queues = d.queues := rfl
@[simp] theorem Dev.emit_disp (d : Dev) (x : Output) : (d.emit x).disp = d.disp := rfl
@[simp] theorem Dev.emit_submStage (d : Dev) (x : Output) : (d.emit x).submStage = d.submStage := rfl
@[simp] theorem Dev.emit_submRes (d : Dev) (x : Output) : (d.emit x).submRes = d.submRes := rfl
@[simp] theorem Dev.emit_hintStage (d : Dev) (x : Output) : (d.emit x).hintStage = d.hintStage := rfl
@[simp] theorem Dev.emit_reqs (d : Dev) (x : Output) : (d.emit x).reqs = d.reqs := rfl
@[simp] theorem Dev.emit_nextReq (d : Dev) (x : Output) : (d.emit x).nextReq = d.nextReq := rfl
@[simp] theorem Dev.emit_arrivals (d : Dev) (x : Output) : (d.emit x).arrivals = d.arrivals := rfl
@[simp] theorem Dev.emit_cache (d : Dev) (x : Output) : (d.emit x).cache = d.cache := rfl
@[simp] theorem Dev.emit_slices (d : Dev) (x : Output) : (d.emit x).slices = d.slices := rfl
@[simp] theorem Dev.emit_laps (d : Dev) (x : Output) : (d.emit x).laps = d.laps := rfl
@[simp] theorem Dev.emit_coupling (d : Dev) (x : Output) : (d.emit x).coupling = d.coupling := rfl
@[simp] theorem Dev.emit_anchors (d : Dev) (x : Output) : (d.emit x).anchors = d.anchors := rfl
@[simp] theorem Dev.emit_ports (d : Dev) (x : Output) : (d.emit x).ports = d.ports := rfl
@[simp] theorem Dev.emit_turnCtr (d : Dev) (x : Output) : (d.emit x).turnCtr = d.turnCtr := rfl
@[simp] theorem Dev.emit_remotes (d : Dev) (x : Output) : (d.emit x).remotes = d.remotes := rfl
@[simp] theorem Dev.emit_withheld (d : Dev) (x : Output) : (d.emit x).withheld = d.withheld := rfl
@[simp] theorem Dev.emit_nextTag (d : Dev) (x : Output) : (d.emit x).nextTag = d.nextTag := rfl
@[simp] theorem Dev.emit_emcy (d : Dev) (x : Output) : (d.emit x).emcy = d.emcy := rfl
@[simp] theorem Dev.emit_emcyAt (d : Dev) (x : Output) : (d.emit x).emcyAt = d.emcyAt := rfl
@[simp] theorem Dev.emit_updates (d : Dev) (x : Output) : (d.emit x).updates = d.updates := rfl
@[simp] theorem Dev.emit_nmt (d : Dev) (x : Output) : (d.emit x).nmt = d.nmt := rfl
@[simp] theorem Dev.emit_comm (d : Dev) (x : Output) : (d.emit x).comm = d.comm := rfl
@[simp] theorem Dev.emit_rate (d : Dev) (x : Output) : (d.emit x).rate = d.rate := rfl
@[simp] theorem Dev.emit_restore (d : Dev) (x : Output) : (d.emit x).restore = d.restore := rfl
@[simp] theorem Dev.emit_fwVer (d : Dev) (x : Output) : (d.emit x).fwVer = d.fwVer := rfl
@[simp] theorem Dev.emit_usdo (d : Dev) (x : Output) : (d.emit x).usdo = d.usdo := rfl
@[simp] theorem Dev.emit_cursors (d : Dev) (x : Output) : (d.emit x).cursors = d.cursors := rfl
@[simp] theorem Dev.emit_dirty (d : Dev) (x : Output) : (d.emit x).dirty = d.dirty := rfl
@[simp] theorem Dev.emit_tpdoAt (d : Dev) (x : Output) : (d.emit x).tpdoAt = d.tpdoAt := rfl
@[simp] theorem Dev.emit_pace (d : Dev) (x : Output) : (d.emit x).pace = d.pace := rfl
@[simp] theorem Dev.emit_package (d : Dev) (x : Output) : (d.emit x).package = d.package := rfl
@[simp] theorem Dev.emit_hostWait (d : Dev) (x : Output) : (d.emit x).hostWait = d.hostWait := rfl
@[simp] theorem Dev.emit_vaultFn (d : Dev) (x : Output) : (d.emit x).vaultFn = d.vaultFn := rfl
@[simp] theorem Dev.setCore_regs (d : Dev) (c : CoreIx) (k : Core) : (d.setCore c k).regs = d.regs := rfl
@[simp] theorem Dev.setCore_freeCtr (d : Dev) (c : CoreIx) (k : Core) : (d.setCore c k).freeCtr = d.freeCtr := rfl
@[simp] theorem Dev.setCore_out (d : Dev) (c : CoreIx) (k : Core) : (d.setCore c k).out = d.out := rfl
@[simp] theorem Dev.setCore_powered (d : Dev) (c : CoreIx) (k : Core) : (d.setCore c k).powered = d.powered := rfl
@[simp] theorem Dev.setCore_seqs (d : Dev) (c : CoreIx) (k : Core) : (d.setCore c k).seqs = d.seqs := rfl
@[simp] theorem Dev.setCore_strtRes (d : Dev) (c : CoreIx) (k : Core) : (d.setCore c k).strtRes = d.strtRes := rfl
@[simp] theorem Dev.setCore_nodeHeld (d : Dev) (c : CoreIx) (k : Core) : (d.setCore c k).nodeHeld = d.nodeHeld := rfl
@[simp] theorem Dev.setCore_bootEnv (d : Dev) (c : CoreIx) (k : Core) : (d.setCore c k).bootEnv = d.bootEnv := rfl
@[simp] theorem Dev.setCore_replaceN (d : Dev) (c : CoreIx) (k : Core) : (d.setCore c k).replaceN = d.replaceN := rfl
@[simp] theorem Dev.setCore_thermN (d : Dev) (c : CoreIx) (k : Core) : (d.setCore c k).thermN = d.thermN := rfl
@[simp] theorem Dev.setCore_optEn (d : Dev) (c : CoreIx) (k : Core) : (d.setCore c k).optEn = d.optEn := rfl
@[simp] theorem Dev.setCore_parent (d : Dev) (c : CoreIx) (k : Core) : (d.setCore c k).parent = d.parent := rfl
@[simp] theorem Dev.setCore_locked (d : Dev) (c : CoreIx) (k : Core) : (d.setCore c k).locked = d.locked := rfl
@[simp] theorem Dev.setCore_timeCopy (d : Dev) (c : CoreIx) (k : Core) : (d.setCore c k).timeCopy = d.timeCopy := rfl
@[simp] theorem Dev.setCore_clusters (d : Dev) (c : CoreIx) (k : Core) : (d.setCore c k).clusters = d.clusters := rfl
@[simp] theorem Dev.setCore_hurdles (d : Dev) (c : CoreIx) (k : Core) : (d.setCore c k).hurdles = d.hurdles := rfl
@[simp] theorem Dev.setCore_phArr (d : Dev) (c : CoreIx) (k : Core) : (d.setCore c k).phArr = d.phArr := rfl
@[simp] theorem Dev.setCore_chans (d : Dev) (c : CoreIx) (k : Core) : (d.setCore c k).chans = d.chans := rfl
@[simp] theorem Dev.setCore_epochs (d : Dev) (c : CoreIx) (k : Core) : (d.setCore c k).epochs = d.epochs := rfl
@[simp] theorem Dev.setCore_bar4 (d : Dev) (c : CoreIx) (k : Core) : (d.setCore c k).bar4 = d.bar4 := rfl
@[simp] theorem Dev.setCore_hopRes (d : Dev) (c : CoreIx) (k : Core) : (d.setCore c k).hopRes = d.hopRes := rfl
@[simp] theorem Dev.setCore_tlb (d : Dev) (c : CoreIx) (k : Core) : (d.setCore c k).tlb = d.tlb := rfl
@[simp] theorem Dev.setCore_walks (d : Dev) (c : CoreIx) (k : Core) : (d.setCore c k).walks = d.walks := rfl
@[simp] theorem Dev.setCore_inval (d : Dev) (c : CoreIx) (k : Core) : (d.setCore c k).inval = d.inval := rfl
@[simp] theorem Dev.setCore_pagers (d : Dev) (c : CoreIx) (k : Core) : (d.setCore c k).pagers = d.pagers := rfl
@[simp] theorem Dev.setCore_queues (d : Dev) (c : CoreIx) (k : Core) : (d.setCore c k).queues = d.queues := rfl
@[simp] theorem Dev.setCore_disp (d : Dev) (c : CoreIx) (k : Core) : (d.setCore c k).disp = d.disp := rfl
@[simp] theorem Dev.setCore_submStage (d : Dev) (c : CoreIx) (k : Core) : (d.setCore c k).submStage = d.submStage := rfl
@[simp] theorem Dev.setCore_submRes (d : Dev) (c : CoreIx) (k : Core) : (d.setCore c k).submRes = d.submRes := rfl
@[simp] theorem Dev.setCore_hintStage (d : Dev) (c : CoreIx) (k : Core) : (d.setCore c k).hintStage = d.hintStage := rfl
@[simp] theorem Dev.setCore_reqs (d : Dev) (c : CoreIx) (k : Core) : (d.setCore c k).reqs = d.reqs := rfl
@[simp] theorem Dev.setCore_nextReq (d : Dev) (c : CoreIx) (k : Core) : (d.setCore c k).nextReq = d.nextReq := rfl
@[simp] theorem Dev.setCore_arrivals (d : Dev) (c : CoreIx) (k : Core) : (d.setCore c k).arrivals = d.arrivals := rfl
@[simp] theorem Dev.setCore_cache (d : Dev) (c : CoreIx) (k : Core) : (d.setCore c k).cache = d.cache := rfl
@[simp] theorem Dev.setCore_slices (d : Dev) (c : CoreIx) (k : Core) : (d.setCore c k).slices = d.slices := rfl
@[simp] theorem Dev.setCore_laps (d : Dev) (c : CoreIx) (k : Core) : (d.setCore c k).laps = d.laps := rfl
@[simp] theorem Dev.setCore_coupling (d : Dev) (c : CoreIx) (k : Core) : (d.setCore c k).coupling = d.coupling := rfl
@[simp] theorem Dev.setCore_anchors (d : Dev) (c : CoreIx) (k : Core) : (d.setCore c k).anchors = d.anchors := rfl
@[simp] theorem Dev.setCore_ports (d : Dev) (c : CoreIx) (k : Core) : (d.setCore c k).ports = d.ports := rfl
@[simp] theorem Dev.setCore_turnCtr (d : Dev) (c : CoreIx) (k : Core) : (d.setCore c k).turnCtr = d.turnCtr := rfl
@[simp] theorem Dev.setCore_remotes (d : Dev) (c : CoreIx) (k : Core) : (d.setCore c k).remotes = d.remotes := rfl
@[simp] theorem Dev.setCore_withheld (d : Dev) (c : CoreIx) (k : Core) : (d.setCore c k).withheld = d.withheld := rfl
@[simp] theorem Dev.setCore_nextTag (d : Dev) (c : CoreIx) (k : Core) : (d.setCore c k).nextTag = d.nextTag := rfl
@[simp] theorem Dev.setCore_emcy (d : Dev) (c : CoreIx) (k : Core) : (d.setCore c k).emcy = d.emcy := rfl
@[simp] theorem Dev.setCore_emcyAt (d : Dev) (c : CoreIx) (k : Core) : (d.setCore c k).emcyAt = d.emcyAt := rfl
@[simp] theorem Dev.setCore_updates (d : Dev) (c : CoreIx) (k : Core) : (d.setCore c k).updates = d.updates := rfl
@[simp] theorem Dev.setCore_nmt (d : Dev) (c : CoreIx) (k : Core) : (d.setCore c k).nmt = d.nmt := rfl
@[simp] theorem Dev.setCore_comm (d : Dev) (c : CoreIx) (k : Core) : (d.setCore c k).comm = d.comm := rfl
@[simp] theorem Dev.setCore_rate (d : Dev) (c : CoreIx) (k : Core) : (d.setCore c k).rate = d.rate := rfl
@[simp] theorem Dev.setCore_restore (d : Dev) (c : CoreIx) (k : Core) : (d.setCore c k).restore = d.restore := rfl
@[simp] theorem Dev.setCore_fwVer (d : Dev) (c : CoreIx) (k : Core) : (d.setCore c k).fwVer = d.fwVer := rfl
@[simp] theorem Dev.setCore_usdo (d : Dev) (c : CoreIx) (k : Core) : (d.setCore c k).usdo = d.usdo := rfl
@[simp] theorem Dev.setCore_cursors (d : Dev) (c : CoreIx) (k : Core) : (d.setCore c k).cursors = d.cursors := rfl
@[simp] theorem Dev.setCore_dirty (d : Dev) (c : CoreIx) (k : Core) : (d.setCore c k).dirty = d.dirty := rfl
@[simp] theorem Dev.setCore_tpdoAt (d : Dev) (c : CoreIx) (k : Core) : (d.setCore c k).tpdoAt = d.tpdoAt := rfl
@[simp] theorem Dev.setCore_pace (d : Dev) (c : CoreIx) (k : Core) : (d.setCore c k).pace = d.pace := rfl
@[simp] theorem Dev.setCore_package (d : Dev) (c : CoreIx) (k : Core) : (d.setCore c k).package = d.package := rfl
@[simp] theorem Dev.setCore_hostWait (d : Dev) (c : CoreIx) (k : Core) : (d.setCore c k).hostWait = d.hostWait := rfl
@[simp] theorem Dev.setCore_vaultFn (d : Dev) (c : CoreIx) (k : Core) : (d.setCore c k).vaultFn = d.vaultFn := rfl
@[simp] theorem Dev.setCore_early (d : Dev) (c : CoreIx) (k : Core) : (d.setCore c k).early = d.early := rfl
@[simp] theorem Dev.setCore_master (d : Dev) (c : CoreIx) (k : Core) : (d.setCore c k).master = d.master := rfl
@[simp] theorem Dev.setCore_waits (d : Dev) (c : CoreIx) (k : Core) : (d.setCore c k).waits = d.waits := rfl
@[simp] theorem Dev.setCore_refusing (d : Dev) (c : CoreIx) (k : Core) : (d.setCore c k).refusing = d.refusing := rfl
@[simp] theorem Dev.setCore_testAt (d : Dev) (c : CoreIx) (k : Core) : (d.setCore c k).testAt = d.testAt := rfl
@[simp] theorem Dev.setCore_sweeps (d : Dev) (c : CoreIx) (k : Core) : (d.setCore c k).sweeps = d.sweeps := rfl
@[simp] theorem Dev.setCore_genOpen (d : Dev) (c : CoreIx) (k : Core) : (d.setCore c k).genOpen = d.genOpen := rfl
@[simp] theorem Dev.setCore_image (d : Dev) (c : CoreIx) (k : Core) : (d.setCore c k).image = d.image := rfl
@[simp] theorem Dev.setCore_snaps (d : Dev) (c : CoreIx) (k : Core) : (d.setCore c k).snaps = d.snaps := rfl
@[simp] theorem Dev.setCore_acts (d : Dev) (c : CoreIx) (k : Core) : (d.setCore c k).acts = d.acts := rfl
@[simp] theorem Dev.modCore_regs (d : Dev) (c : CoreIx) (f : Core → Core) : (d.modCore c f).regs = d.regs := rfl
@[simp] theorem Dev.modCore_freeCtr (d : Dev) (c : CoreIx) (f : Core → Core) : (d.modCore c f).freeCtr = d.freeCtr := rfl
@[simp] theorem Dev.modCore_out (d : Dev) (c : CoreIx) (f : Core → Core) : (d.modCore c f).out = d.out := rfl
@[simp] theorem Dev.modCore_powered (d : Dev) (c : CoreIx) (f : Core → Core) : (d.modCore c f).powered = d.powered := rfl
@[simp] theorem Dev.modCore_seqs (d : Dev) (c : CoreIx) (f : Core → Core) : (d.modCore c f).seqs = d.seqs := rfl
@[simp] theorem Dev.modCore_strtRes (d : Dev) (c : CoreIx) (f : Core → Core) : (d.modCore c f).strtRes = d.strtRes := rfl
@[simp] theorem Dev.modCore_nodeHeld (d : Dev) (c : CoreIx) (f : Core → Core) : (d.modCore c f).nodeHeld = d.nodeHeld := rfl
@[simp] theorem Dev.modCore_bootEnv (d : Dev) (c : CoreIx) (f : Core → Core) : (d.modCore c f).bootEnv = d.bootEnv := rfl
@[simp] theorem Dev.modCore_replaceN (d : Dev) (c : CoreIx) (f : Core → Core) : (d.modCore c f).replaceN = d.replaceN := rfl
@[simp] theorem Dev.modCore_thermN (d : Dev) (c : CoreIx) (f : Core → Core) : (d.modCore c f).thermN = d.thermN := rfl
@[simp] theorem Dev.modCore_optEn (d : Dev) (c : CoreIx) (f : Core → Core) : (d.modCore c f).optEn = d.optEn := rfl
@[simp] theorem Dev.modCore_parent (d : Dev) (c : CoreIx) (f : Core → Core) : (d.modCore c f).parent = d.parent := rfl
@[simp] theorem Dev.modCore_locked (d : Dev) (c : CoreIx) (f : Core → Core) : (d.modCore c f).locked = d.locked := rfl
@[simp] theorem Dev.modCore_timeCopy (d : Dev) (c : CoreIx) (f : Core → Core) : (d.modCore c f).timeCopy = d.timeCopy := rfl
@[simp] theorem Dev.modCore_clusters (d : Dev) (c : CoreIx) (f : Core → Core) : (d.modCore c f).clusters = d.clusters := rfl
@[simp] theorem Dev.modCore_hurdles (d : Dev) (c : CoreIx) (f : Core → Core) : (d.modCore c f).hurdles = d.hurdles := rfl
@[simp] theorem Dev.modCore_phArr (d : Dev) (c : CoreIx) (f : Core → Core) : (d.modCore c f).phArr = d.phArr := rfl
@[simp] theorem Dev.modCore_chans (d : Dev) (c : CoreIx) (f : Core → Core) : (d.modCore c f).chans = d.chans := rfl
@[simp] theorem Dev.modCore_epochs (d : Dev) (c : CoreIx) (f : Core → Core) : (d.modCore c f).epochs = d.epochs := rfl
@[simp] theorem Dev.modCore_bar4 (d : Dev) (c : CoreIx) (f : Core → Core) : (d.modCore c f).bar4 = d.bar4 := rfl
@[simp] theorem Dev.modCore_hopRes (d : Dev) (c : CoreIx) (f : Core → Core) : (d.modCore c f).hopRes = d.hopRes := rfl
@[simp] theorem Dev.modCore_tlb (d : Dev) (c : CoreIx) (f : Core → Core) : (d.modCore c f).tlb = d.tlb := rfl
@[simp] theorem Dev.modCore_walks (d : Dev) (c : CoreIx) (f : Core → Core) : (d.modCore c f).walks = d.walks := rfl
@[simp] theorem Dev.modCore_inval (d : Dev) (c : CoreIx) (f : Core → Core) : (d.modCore c f).inval = d.inval := rfl
@[simp] theorem Dev.modCore_pagers (d : Dev) (c : CoreIx) (f : Core → Core) : (d.modCore c f).pagers = d.pagers := rfl
@[simp] theorem Dev.modCore_queues (d : Dev) (c : CoreIx) (f : Core → Core) : (d.modCore c f).queues = d.queues := rfl
@[simp] theorem Dev.modCore_disp (d : Dev) (c : CoreIx) (f : Core → Core) : (d.modCore c f).disp = d.disp := rfl
@[simp] theorem Dev.modCore_submStage (d : Dev) (c : CoreIx) (f : Core → Core) : (d.modCore c f).submStage = d.submStage := rfl
@[simp] theorem Dev.modCore_submRes (d : Dev) (c : CoreIx) (f : Core → Core) : (d.modCore c f).submRes = d.submRes := rfl
@[simp] theorem Dev.modCore_hintStage (d : Dev) (c : CoreIx) (f : Core → Core) : (d.modCore c f).hintStage = d.hintStage := rfl
@[simp] theorem Dev.modCore_reqs (d : Dev) (c : CoreIx) (f : Core → Core) : (d.modCore c f).reqs = d.reqs := rfl
@[simp] theorem Dev.modCore_nextReq (d : Dev) (c : CoreIx) (f : Core → Core) : (d.modCore c f).nextReq = d.nextReq := rfl
@[simp] theorem Dev.modCore_arrivals (d : Dev) (c : CoreIx) (f : Core → Core) : (d.modCore c f).arrivals = d.arrivals := rfl
@[simp] theorem Dev.modCore_cache (d : Dev) (c : CoreIx) (f : Core → Core) : (d.modCore c f).cache = d.cache := rfl
@[simp] theorem Dev.modCore_slices (d : Dev) (c : CoreIx) (f : Core → Core) : (d.modCore c f).slices = d.slices := rfl
@[simp] theorem Dev.modCore_laps (d : Dev) (c : CoreIx) (f : Core → Core) : (d.modCore c f).laps = d.laps := rfl
@[simp] theorem Dev.modCore_coupling (d : Dev) (c : CoreIx) (f : Core → Core) : (d.modCore c f).coupling = d.coupling := rfl
@[simp] theorem Dev.modCore_anchors (d : Dev) (c : CoreIx) (f : Core → Core) : (d.modCore c f).anchors = d.anchors := rfl
@[simp] theorem Dev.modCore_ports (d : Dev) (c : CoreIx) (f : Core → Core) : (d.modCore c f).ports = d.ports := rfl
@[simp] theorem Dev.modCore_turnCtr (d : Dev) (c : CoreIx) (f : Core → Core) : (d.modCore c f).turnCtr = d.turnCtr := rfl
@[simp] theorem Dev.modCore_remotes (d : Dev) (c : CoreIx) (f : Core → Core) : (d.modCore c f).remotes = d.remotes := rfl
@[simp] theorem Dev.modCore_withheld (d : Dev) (c : CoreIx) (f : Core → Core) : (d.modCore c f).withheld = d.withheld := rfl
@[simp] theorem Dev.modCore_nextTag (d : Dev) (c : CoreIx) (f : Core → Core) : (d.modCore c f).nextTag = d.nextTag := rfl
@[simp] theorem Dev.modCore_emcy (d : Dev) (c : CoreIx) (f : Core → Core) : (d.modCore c f).emcy = d.emcy := rfl
@[simp] theorem Dev.modCore_emcyAt (d : Dev) (c : CoreIx) (f : Core → Core) : (d.modCore c f).emcyAt = d.emcyAt := rfl
@[simp] theorem Dev.modCore_updates (d : Dev) (c : CoreIx) (f : Core → Core) : (d.modCore c f).updates = d.updates := rfl
@[simp] theorem Dev.modCore_nmt (d : Dev) (c : CoreIx) (f : Core → Core) : (d.modCore c f).nmt = d.nmt := rfl
@[simp] theorem Dev.modCore_comm (d : Dev) (c : CoreIx) (f : Core → Core) : (d.modCore c f).comm = d.comm := rfl
@[simp] theorem Dev.modCore_rate (d : Dev) (c : CoreIx) (f : Core → Core) : (d.modCore c f).rate = d.rate := rfl
@[simp] theorem Dev.modCore_restore (d : Dev) (c : CoreIx) (f : Core → Core) : (d.modCore c f).restore = d.restore := rfl
@[simp] theorem Dev.modCore_fwVer (d : Dev) (c : CoreIx) (f : Core → Core) : (d.modCore c f).fwVer = d.fwVer := rfl
@[simp] theorem Dev.modCore_usdo (d : Dev) (c : CoreIx) (f : Core → Core) : (d.modCore c f).usdo = d.usdo := rfl
@[simp] theorem Dev.modCore_cursors (d : Dev) (c : CoreIx) (f : Core → Core) : (d.modCore c f).cursors = d.cursors := rfl
@[simp] theorem Dev.modCore_dirty (d : Dev) (c : CoreIx) (f : Core → Core) : (d.modCore c f).dirty = d.dirty := rfl
@[simp] theorem Dev.modCore_tpdoAt (d : Dev) (c : CoreIx) (f : Core → Core) : (d.modCore c f).tpdoAt = d.tpdoAt := rfl
@[simp] theorem Dev.modCore_pace (d : Dev) (c : CoreIx) (f : Core → Core) : (d.modCore c f).pace = d.pace := rfl
@[simp] theorem Dev.modCore_package (d : Dev) (c : CoreIx) (f : Core → Core) : (d.modCore c f).package = d.package := rfl
@[simp] theorem Dev.modCore_hostWait (d : Dev) (c : CoreIx) (f : Core → Core) : (d.modCore c f).hostWait = d.hostWait := rfl
@[simp] theorem Dev.modCore_vaultFn (d : Dev) (c : CoreIx) (f : Core → Core) : (d.modCore c f).vaultFn = d.vaultFn := rfl
@[simp] theorem Dev.modCore_early (d : Dev) (c : CoreIx) (f : Core → Core) : (d.modCore c f).early = d.early := rfl
@[simp] theorem Dev.modCore_master (d : Dev) (c : CoreIx) (f : Core → Core) : (d.modCore c f).master = d.master := rfl
@[simp] theorem Dev.modCore_waits (d : Dev) (c : CoreIx) (f : Core → Core) : (d.modCore c f).waits = d.waits := rfl
@[simp] theorem Dev.modCore_refusing (d : Dev) (c : CoreIx) (f : Core → Core) : (d.modCore c f).refusing = d.refusing := rfl
@[simp] theorem Dev.modCore_testAt (d : Dev) (c : CoreIx) (f : Core → Core) : (d.modCore c f).testAt = d.testAt := rfl
@[simp] theorem Dev.modCore_sweeps (d : Dev) (c : CoreIx) (f : Core → Core) : (d.modCore c f).sweeps = d.sweeps := rfl
@[simp] theorem Dev.modCore_genOpen (d : Dev) (c : CoreIx) (f : Core → Core) : (d.modCore c f).genOpen = d.genOpen := rfl
@[simp] theorem Dev.modCore_image (d : Dev) (c : CoreIx) (f : Core → Core) : (d.modCore c f).image = d.image := rfl
@[simp] theorem Dev.modCore_snaps (d : Dev) (c : CoreIx) (f : Core → Core) : (d.modCore c f).snaps = d.snaps := rfl
@[simp] theorem Dev.modCore_acts (d : Dev) (c : CoreIx) (f : Core → Core) : (d.modCore c f).acts = d.acts := rfl

@[simp] theorem Dev.emit_out (d : Dev) (x : Output) : (d.emit x).out = d.out ++ [x] := rfl
@[simp] theorem Dev.emit_early (d : Dev) (x : Output) : (d.emit x).early = d.early := rfl
@[simp] theorem Dev.emit_master (d : Dev) (x : Output) : (d.emit x).master = d.master := rfl
@[simp] theorem Dev.emit_waits (d : Dev) (x : Output) : (d.emit x).waits = d.waits := rfl
@[simp] theorem Dev.emit_refusing (d : Dev) (x : Output) : (d.emit x).refusing = d.refusing := rfl
@[simp] theorem Dev.emit_testAt (d : Dev) (x : Output) : (d.emit x).testAt = d.testAt := rfl
@[simp] theorem Dev.emit_sweeps (d : Dev) (x : Output) : (d.emit x).sweeps = d.sweeps := rfl
@[simp] theorem Dev.emit_genOpen (d : Dev) (x : Output) : (d.emit x).genOpen = d.genOpen := rfl
@[simp] theorem Dev.emit_image (d : Dev) (x : Output) : (d.emit x).image = d.image := rfl
@[simp] theorem Dev.emit_snaps (d : Dev) (x : Output) : (d.emit x).snaps = d.snaps := rfl
@[simp] theorem Dev.emit_acts (d : Dev) (x : Output) : (d.emit x).acts = d.acts := rfl
@[simp] theorem Dev.spend_freeCtr (d : Dev) (n : Nat) : (d.spend n).freeCtr = d.freeCtr + n := rfl
@[simp] theorem Dev.spend_early (d : Dev) (n : Nat) : (d.spend n).early = d.early := rfl
@[simp] theorem Dev.spend_master (d : Dev) (n : Nat) : (d.spend n).master = d.master := rfl
@[simp] theorem Dev.spend_waits (d : Dev) (n : Nat) : (d.spend n).waits = d.waits := rfl
@[simp] theorem Dev.spend_refusing (d : Dev) (n : Nat) : (d.spend n).refusing = d.refusing := rfl
@[simp] theorem Dev.spend_testAt (d : Dev) (n : Nat) : (d.spend n).testAt = d.testAt := rfl
@[simp] theorem Dev.spend_sweeps (d : Dev) (n : Nat) : (d.spend n).sweeps = d.sweeps := rfl
@[simp] theorem Dev.spend_genOpen (d : Dev) (n : Nat) : (d.spend n).genOpen = d.genOpen := rfl
@[simp] theorem Dev.spend_image (d : Dev) (n : Nat) : (d.spend n).image = d.image := rfl
@[simp] theorem Dev.spend_snaps (d : Dev) (n : Nat) : (d.spend n).snaps = d.snaps := rfl
@[simp] theorem Dev.spend_acts (d : Dev) (n : Nat) : (d.spend n).acts = d.acts := rfl

@[simp] theorem State.when_true (s t : State) : s.when true t = t := rfl
@[simp] theorem State.when_false (s t : State) : s.when false t = s := rfl

/-- A command whose cause is absent changes nothing; otherwise it has its effect. -/
theorem State.when_cases (s t : State) (b : Bool) : (b = true ∧ s.when b t = t) ∨ (b = false ∧ s.when b t = s) := by
  cases b <;> simp

/-- A stored register reads what was stored. -/
@[simp] theorem Dev.reg_setReg (d : Dev) (r : Reg) (w : Word) : (d.setReg r w).reg r = w := by simp [Dev.reg, Dev.setReg]

/-- Every other register reads as before. -/
theorem Dev.reg_setReg_ne (d : Dev) (r r' : Reg) (w : Word) (h : r'.offset ≠ r.offset) : (d.setReg r w).reg r' = d.reg r' := by
  simp [Dev.reg, Dev.setReg, Tbl.get_set_ne _ _ _ _ h]

@[simp] theorem Dev.reg_modReg (d : Dev) (r : Reg) (f : Word → Word) : (d.modReg r f).reg r = f (d.reg r) := by simp [Dev.modReg]

theorem Dev.reg_modReg_ne (d : Dev) (r r' : Reg) (f : Word → Word) (h : r'.offset ≠ r.offset) :
    (d.modReg r f).reg r' = d.reg r' := Dev.reg_setReg_ne d r r' _ h

/-- A cleared register reads its value after reset. -/
@[simp] theorem Dev.reg_clearReg (d : Dev) (r : Reg) : (d.clearReg r).reg r = r.reset := by
  simp [Dev.reg, Dev.clearReg, Tbl.get_erase_self]

/-- A stored core reads what was stored, every other core as before. -/
@[simp] theorem Dev.core_setCore (d : Dev) (c : CoreIx) (k : Core) : (d.setCore c k).core c = k := by simp [Dev.core, Dev.setCore]

theorem Dev.core_setCore_ne (d : Dev) (c c' : CoreIx) (k : Core) (h : c' ≠ c) : (d.setCore c k).core c' = d.core c' := by
  have : c'.val ≠ c.val := fun e => h (Fin.ext e)
  simp [Dev.core, Dev.setCore, Tbl.get_set_ne _ _ _ _ this]

@[simp] theorem Dev.core_modCore (d : Dev) (c : CoreIx) (f : Core → Core) : (d.modCore c f).core c = f (d.core c) := by
  simp [Dev.modCore]

theorem Dev.core_modCore_ne (d : Dev) (c c' : CoreIx) (f : Core → Core) (h : c' ≠ c) : (d.modCore c f).core c' = d.core c' :=
  Dev.core_setCore_ne d c c' _ h

@[simp] theorem Dev.core_setReg (d : Dev) (c : CoreIx) (r : Reg) (w : Word) : (d.setReg r w).core c = d.core c := rfl
@[simp] theorem Dev.core_modReg (d : Dev) (c : CoreIx) (r : Reg) (f : Word → Word) : (d.modReg r f).core c = d.core c := rfl
@[simp] theorem Dev.core_emit (d : Dev) (c : CoreIx) (x : Output) : (d.emit x).core c = d.core c := rfl
@[simp] theorem Dev.core_spend (d : Dev) (c : CoreIx) (n : Nat) : (d.spend n).core c = d.core c := rfl
@[simp] theorem Dev.reg_setCore (d : Dev) (r : Reg) (c : CoreIx) (k : Core) : (d.setCore c k).reg r = d.reg r := rfl
@[simp] theorem Dev.reg_modCore (d : Dev) (r : Reg) (c : CoreIx) (f : Core → Core) : (d.modCore c f).reg r = d.reg r := rfl
@[simp] theorem Dev.reg_emit (d : Dev) (r : Reg) (x : Output) : (d.emit x).reg r = d.reg r := rfl
@[simp] theorem Dev.reg_spend (d : Dev) (r : Reg) (n : Nat) : (d.spend n).reg r = d.reg r := rfl

end Sys2Proof.Machine
end

