-- ==== Sys2Proof/Laws/Frames.lean ====
section
/-! SUPPORT. What the operations that several commands share leave as it was. -/

namespace Sys2Proof.Machine

theorem State.vaultCut_nv (s : State) : ∃ v, s.vaultCut.nv = { s.nv with vault := v } := by
  unfold State.vaultCut
  split
  · dsimp only
    split
    · exact ⟨_, rfl⟩
    · exact ⟨_, rfl⟩
  · exact ⟨_, rfl⟩

theorem State.vaultCut_rest (s : State) : s.vaultCut.mem = s.mem ∧ s.vaultCut.clk = s.clk ∧ s.vaultCut.pending = s.pending := by
  unfold State.vaultCut
  split
  · dsimp only
    split
    · exact ⟨rfl, rfl, rfl⟩
    · exact ⟨rfl, rfl, rfl⟩
  · exact ⟨rfl, rfl, rfl⟩

theorem State.notice_rest (s : State) (l : List Nat) :
    (s.notice l).mem = s.mem ∧ (s.notice l).clk = s.clk ∧ (s.notice l).pending = s.pending ∧ (s.notice l).nv = s.nv := by
  unfold State.notice
  simp only [State.onDev_mem, State.onDev_clk, State.onDev_pending, State.onDev_nv]
  trivial

theorem strtCmd_writable {o : Origin} (h : o ≠ .fn0) : originMayWrite o .strtCmd = true := by
  cases o
  · exact absurd rfl h
  · rfl
  · rfl

/-- Host accesses given up change nothing but what the device holds of them and reports. -/
theorem State.abortHost_rest (s : State) :
    s.abortHost.mem = s.mem ∧ s.abortHost.clk = s.clk ∧ s.abortHost.pending = s.pending ∧ s.abortHost.nv = s.nv := by
  have keep : ∀ (l : List HostOp) (t : State), (l.foldl State.abortWaiting t).mem = t.mem ∧
      (l.foldl State.abortWaiting t).clk = t.clk ∧ (l.foldl State.abortWaiting t).pending = t.pending ∧
      (l.foldl State.abortWaiting t).nv = t.nv := by
    intro l
    induction l with
    | nil => intro t; exact ⟨rfl, rfl, rfl, rfl⟩
    | cons o r ih =>
      intro t
      rw [List.foldl_cons]
      obtain ⟨h1, h2, h3, h4⟩ := ih (t.abortWaiting o)
      cases o <;> exact ⟨h1, h2, h3, h4⟩
  exact keep s.dev.hostWait (s.onDev fun d => { d with hostWait := [], waits := d.waits.filter fun w => w.tok != .host })

theorem State.warmBegin_rest (s : State) (e : BootEnv) :
    (s.warmBegin e).mem = s.mem ∧ (s.warmBegin e).clk = s.clk ∧ (s.warmBegin e).pending = s.pending ∧
      (s.warmBegin e).dev.nmt = .silent ∧ (s.warmBegin e).dev.hostWait = [] ∧
      (s.warmBegin e).dev.seqs = [{ kind := .warm, step := 1, env := e, bring := {}, t0 := s.now }] := by
  obtain ⟨a1, a2, a3, a4⟩ := State.notice_rest s [1, 0]
  obtain ⟨b1, b2, b3⟩ := State.vaultCut_rest (s.notice [1, 0])
  obtain ⟨c1, c2, c3, -⟩ := State.abortHost_rest (s.notice [1, 0]).vaultCut
  have hm := c1.trans (b1.trans a1)
  have hc := c2.trans (b2.trans a2)
  have hp := c3.trans (b3.trans a3)
  unfold State.warmBegin
  refine ⟨?_, ?_, ?_, rfl, rfl, ?_⟩
  · simp only [State.onDev_mem, hm]
  · simp only [State.onDev_clk, hc]
  · simp only [State.onDev_pending, hp]
  · simp only [State.onDev_dev, State.onDev_clk, State.now, hc]

theorem Dev.reg_of_regs {d d' : Dev} (r : Reg) (h : d'.regs.get r.reset r.offset = d.regs.get r.reset r.offset) : d'.reg r = d.reg r := h

/-- No register of BAR0 lies where a function's MSI-X structure is kept. -/
theorem Reg.offset_lt (r : Reg) : r.offset < 0x2000000 := by
  cases r <;> simp only [Reg.offset] <;> omega

/-- What every turn of a loop keeps, the loop keeps. -/
theorem foldl_keep {α β γ : Type} (g : α → γ) (f : α → β → α) (h : ∀ a b, g (f a b) = g a) (l : List β) (a : α) :
    g (l.foldl f a) = g a := by
  induction l generalizing a with
  | nil => rfl
  | cons b r ih => rw [List.foldl_cons, ih, h]

/-- An epoch's advance touches the epoch and the messages held, nothing else. -/
theorem Dev.advanceEpoch_epochs (d : Dev) (id : Nat) :
    (d.advanceEpoch id).epochs = d.epochs.set 0 (d.epochKey id) ((d.epochOf id + 1) % 65536) := by
  unfold Dev.advanceEpoch
  refine (foldl_keep Dev.epochs _ (fun a b => ?_) _ _).trans rfl
  dsimp only
  split <;> rfl

theorem Dev.advanceEpoch_regs (d : Dev) (id : Nat) : (d.advanceEpoch id).regs = d.regs := by
  unfold Dev.advanceEpoch
  refine (foldl_keep Dev.regs _ (fun a b => ?_) _ _).trans rfl
  dsimp only
  split <;> rfl

-- the common course of register accesses

theorem State.regWrite_may {s : State} {o : Origin} {r : Reg} (h : s.mayWrite o r) (f : State → State) : s.regWrite o r f = f s := by
  obtain ⟨h1, h2, h3⟩ := h
  simp [State.regWrite, h1, h2, h3]

theorem State.journal_noted (s : State) (a b c d e f : Nat) : Noted s (s.journal a b c d e f) := by
  refine ⟨⟨rfl, rfl, rfl⟩, ⟨s.dev.dirty, rfl⟩, ?_⟩
  unfold State.journal
  simp only [State.onNv_nv]
  unfold Nv.jAppend
  dsimp only
  split
  · unfold Nv.jShift
    split
    · exact ⟨_, rfl⟩
    · dsimp only
      split <;> exact ⟨_, rfl⟩
  · exact ⟨_, rfl⟩

theorem Noted.refl (s : State) : Noted s s := ⟨⟨rfl, rfl, rfl⟩, ⟨_, rfl⟩, ⟨_, rfl⟩⟩

theorem Noted.trans {s t u : State} (h : Noted s t) (k : Noted t u) : Noted s u := by
  obtain ⟨⟨a1, a2, a3⟩, ⟨l, a4⟩, ⟨j, a5⟩⟩ := h
  obtain ⟨⟨b1, b2, b3⟩, ⟨m, b4⟩, ⟨i, b5⟩⟩ := k
  exact ⟨⟨b1.trans a1, b2.trans a2, b3.trans a3⟩, ⟨m, by rw [b4, a4]⟩, ⟨i, by rw [b5, a5]⟩⟩

theorem Noted.ite {s t u : State} {c : Prop} [Decidable c] (h : Noted s t) (k : Noted s u) : Noted s (if c then t else u) := by
  split
  · exact h
  · exact k

theorem Noted.reg {s t : State} (h : Noted s t) (r : Reg) : t.dev.reg r = s.dev.reg r := by
  obtain ⟨-, ⟨l, h⟩, -⟩ := h
  rw [h]; rfl

theorem State.markAuto_noted (s t : State) (r : Reg) : Noted t (s.markAuto t r) := by
  unfold State.markAuto
  split
  · refine ⟨⟨rfl, rfl, rfl⟩, ?_, ⟨_, rfl⟩⟩
    simp only [State.onDev_dev]
    unfold Dev.touchAuto
    split <;> exact ⟨_, rfl⟩
  · exact Noted.refl t

theorem State.journalWrite_noted (s t : State) (o : Origin) (r : Reg) (v : Word) (b : Bool) : Noted t (s.journalWrite t o r v b) := by
  unfold State.journalWrite
  split
  · exact Noted.refl t
  · generalize mirrorsOf r = l
    induction l generalizing t with
    | nil => exact Noted.refl t
    | cons m l ih =>
      rw [List.foldl_cons]
      refine Noted.trans ?_ (ih _)
      exact Noted.ite (Noted.refl t) (State.journal_noted t _ _ _ _ _ _)

/-- A journalled write of a register is its effect, noted. -/
theorem State.regWriteV_may {s : State} {o : Origin} {r : Reg} (h : s.mayWrite o r) (v : Word) (f : State → State) :
    Noted (f s) (s.regWriteV o r v f) := by
  obtain ⟨h1, h2, h3⟩ := h
  simp only [State.regWriteV, h1, h2, h3]
  exact (s.markAuto_noted (f s) r).trans (s.journalWrite_noted _ o r v false)

theorem State.readClear_may {s : State} {o : Origin} {r : Reg} (h : s.mayRead o r) (w : Word) :
    s.readClear o r w = s.onDev fun d =>
      (d.modReg r fun x => (x &&& ~~~r.rc) ||| (r.reset &&& r.rc)).emit (.read (originFn o) r.offset w) := by
  obtain ⟨h1, h2⟩ := h
  simp [State.readClear, h1, h2]

/-- What is sent leaves every register. -/
@[simp] theorem Dev.emit_reg (d : Dev) (o : Output) (r : Reg) : (d.emit o).reg r = d.reg r := rfl

/-- What is drawn leaves every register. -/
@[simp] theorem Dev.spend_reg (d : Dev) (n : Nat) (r : Reg) : (d.spend n).reg r = d.reg r := rfl

theorem State.onDev_congr {s : State} {f g : Dev → Dev} (h : f s.dev = g s.dev) : s.onDev f = s.onDev g := by
  unfold State.onDev; rw [h]

theorem VolatileOnly.onDev (s : State) (f : Dev → Dev) : VolatileOnly s (s.onDev f) := ⟨rfl, rfl, rfl, rfl⟩

theorem VolatileOnly.refl (s : State) : VolatileOnly s s := ⟨rfl, rfl, rfl, rfl⟩

theorem VolatileOnly.trans {s t u : State} (h : VolatileOnly s t) (k : VolatileOnly t u) : VolatileOnly s u :=
  ⟨k.1.trans h.1, k.2.1.trans h.2.1, k.2.2.1.trans h.2.2.1, k.2.2.2.trans h.2.2.2⟩

theorem RegsKept.refl (s : State) (l : List Reg) : RegsKept s s l := fun _ _ => rfl

theorem RegsKept.trans {s t u : State} {l : List Reg} (h : RegsKept s t l) (k : RegsKept t u l) : RegsKept s u l :=
  fun r hr => (k r hr).trans (h r hr)

theorem RegsKept.mono {s t : State} {l m : List Reg} (h : RegsKept s t l) (hm : ∀ x ∈ l, x ∈ m) : RegsKept s t m :=
  fun r hr => h r fun x hx => hr x (hm x hx)

theorem RegsKept.modReg (s : State) (r : Reg) (f : Word → Word) {l : List Reg} (h : r ∈ l) :
    RegsKept s (s.onDev fun d => d.modReg r f) l := fun _ hx => Tbl.get_set_ne _ _ _ _ (hx r h)

-- cores

theorem State.issue_of {s u : State} {c : CoreIx} {len : Nat} (h : Issues s c len u) (f : State → State) : s.issue c len f = f u := by
  obtain ⟨h1, h2, h3, h4, h5⟩ := h
  simp [State.issue, h1, h2, h3, h4, h5]

theorem OnlyCore.core {u t : State} {c : CoreIx} {k : Core} (h : OnlyCore u t c k) : t.dev.core c = k := by
  rw [OnlyCore] at h; subst h
  simp only [State.onDev_dev, Dev.core_setCore]

theorem OnlyCore.others {u t : State} {c : CoreIx} {k : Core} (h : OnlyCore u t c k) : OtherCoresKept u t c := by
  rw [OnlyCore] at h; subst h
  intro x hx
  exact Tbl.get_set_ne _ _ _ _ fun e => hx (Fin.ext e)

theorem OnlyCore.rest {u t : State} {c : CoreIx} {k : Core} (h : OnlyCore u t c k) : VolatileOnly u t ∧ RegsKept u t [] := by
  rw [OnlyCore] at h; subst h
  exact ⟨VolatileOnly.onDev _ _, fun _ _ => rfl⟩

theorem Core.getX_setX (k : Core) (r x : RegNum) (v : Word) :
    (k.setX r v).getX x = if x.val = 0 then 0 else if x = r then v else k.getX x := by
  unfold Core.setX Core.getX
  by_cases hx : x.val = 0
  · simp only [hx, if_true]
  · simp only [hx, if_false]
    by_cases hr : r.val = 0
    · rw [if_pos hr, if_neg (fun e : x = r => hx (by rw [e]; exact hr))]
    · rw [if_neg hr]
      by_cases h : x = r
      · rw [if_pos h, h]; exact Tbl.get_set_self _ _ _ _
      · rw [if_neg h]; exact Tbl.get_set_ne _ _ _ _ fun e => h (Fin.ext e)

-- the error record

theorem Dev.setPba_reg (d : Dev) (fn : Nat) (w : Word) (r : Reg) : (d.setPba fn w).reg r = d.reg r := by
  have := r.offset_lt
  exact Tbl.get_set_ne _ _ _ _ (by simp only [msixKey]; omega)

theorem Dev.msix_reg (d : Dev) (fn v : Nat) (r : Reg) : (d.msix fn v).reg r = d.reg r := by
  unfold Dev.msix
  dsimp only
  split
  · exact d.setPba_reg _ _ r
  · rfl

theorem Dev.pushEmcy_reg (d : Dev) (e : Emcy) (r : Reg) : (d.pushEmcy e).reg r = d.reg r := by
  unfold Dev.pushEmcy
  split <;> rfl

theorem Dev.reg_set (d : Dev) (r x : Reg) (w : Word) (h : x.offset ≠ r.offset) : (d.setReg r w).reg x = d.reg x :=
  Tbl.get_set_ne _ _ _ _ h

/-- The record leaves every register but the four of its source. -/
theorem Dev.record_reg_out (d : Dev) (now : Nat) (src : Src) (a b c : Nat) (r : Reg) (h : ∀ x ∈ errRegs src, r.offset ≠ x.offset) :
    (d.record now src a b c).reg r = d.reg r := by
  simp only [errRegs, List.mem_cons, List.not_mem_nil, or_false, forall_eq_or_imp, forall_eq] at h
  obtain ⟨h1, h2, h3, h4⟩ := h
  unfold Dev.record
  dsimp only
  split
  · rw [Dev.reg_set _ _ _ _ h1]
  · split <;> split <;> simp only [Dev.msix_reg, Dev.pushEmcy_reg, Dev.reg_set _ _ _ _ h1, Dev.reg_set _ _ _ _ h2, Dev.reg_set _ _ _ _ h3, Dev.reg_set _ _ _ _ h4]

theorem Dev.record_stat (d : Dev) (now : Nat) (src : Src) (a b c : Nat) :
    (d.record now src a b c).reg (.errStat src.code) =
      setBit (satAdd (d.reg (.errStat src.code)) 31 0 1) (if bit (d.reg (.errStat src.code)) 63 then 62 else 63) true := by
  have k1 : (Reg.errStat src.code).offset ≠ (Reg.errAddr src.code).offset := by simp only [Reg.offset]; omega
  have k2 : (Reg.errStat src.code).offset ≠ (Reg.errId src.code).offset := by simp only [Reg.offset]; omega
  have k3 : (Reg.errStat src.code).offset ≠ (Reg.errTime src.code).offset := by simp only [Reg.offset]; omega
  have hb : bit (satAdd (d.reg (.errStat src.code)) 31 0 1) 63 = bit (d.reg (.errStat src.code)) 63 :=
    bit_setFld_out _ _ (by omega) (by omega) (by omega)
  unfold Dev.record
  dsimp only
  rw [hb]
  split
  · rw [Dev.reg_setReg]
  · split <;> split <;> simp only [Dev.msix_reg, Dev.pushEmcy_reg, Dev.reg_set _ _ _ _ k1, Dev.reg_set _ _ _ _ k2, Dev.reg_set _ _ _ _ k3, Dev.reg_setReg]

theorem Dev.record_count (d : Dev) (now : Nat) (src : Src) (a b c : Nat) :
    bit ((d.record now src a b c).reg (.errStat src.code)) 63 = true ∧
      fld ((d.record now src a b c).reg (.errStat src.code)) 31 0 = min (fld (d.reg (.errStat src.code)) 31 0 + 1) 0xFFFFFFFF := by
  rw [Dev.record_stat]
  constructor
  · by_cases h : bit (d.reg (.errStat src.code)) 63 = true
    · rw [if_pos h, bit_setBit_ne _ _ (by omega) (by omega), ← h]
      exact bit_setFld_out _ _ (by omega) (by omega) (by omega)
    · rw [if_neg h, bit_setBit_self _ _ _ (by omega)]
  · rw [fld_setBit_out]
    · unfold satAdd
      rw [fld_setFld_self _ _ _ _ (by omega) (by omega)]
      exact Nat.mod_eq_of_lt (by omega)
    · split <;> omega
    · split <;> omega

theorem State.record_rest (s : State) (src : Src) (a b c : Nat) : VolatileOnly s (s.record src a b c) := ⟨rfl, rfl, rfl, rfl⟩

theorem State.record_recorded (s : State) (src : Src) (a b c : Nat) : Recorded s (s.record src a b c) src :=
  s.dev.record_count s.now src a b c

theorem Reg.offset_mod (r : Reg) : r.offset % 8 = 0 := by
  cases r <;> simp only [Reg.offset] <;> omega

end Sys2Proof.Machine
end

