-- ==== Sys2Proof/Laws/Memory.lean ====
section
/-! SUPPORT. The laws of byte memory: a byte written is read back, every other byte is as before, and every operation keeps the
canonical form. -/

namespace Sys2Proof.Machine

theorem Memory.lookup_eq_get (cs : List Host.Cell) (a : Nat) :
    Memory.lookup cs a = Tbl.get none (cs.map fun c => (c.1, some c.2)) a := by
  induction cs with
  | nil => rfl
  | cons c r ih =>
    obtain ⟨n, b⟩ := c
    simp only [Memory.lookup, List.map_cons, Tbl.get, ih]

theorem Memory.lookup_insert_ne (cs : List Host.Cell) {a k : Nat} (b : Byte) (h : a ≠ k) :
    Memory.lookup (Tbl.insert cs k b) a = Memory.lookup cs a := by
  induction cs with
  | nil => simp [Tbl.insert, Memory.lookup, Ne.symm h]
  | cons c r ih =>
    obtain ⟨n, w⟩ := c
    simp only [Tbl.insert]
    split
    · simp [Memory.lookup, Ne.symm h]
    · simp only [Memory.lookup]
      split
      · rfl
      · exact ih

theorem Memory.lookup_insert_self (cs : List Host.Cell) (k : Nat) (b : Byte) (h : ∀ c ∈ cs, c.1 ≠ k) :
    Memory.lookup (Tbl.insert cs k b) k = some b := by
  induction cs with
  | nil => simp [Tbl.insert, Memory.lookup]
  | cons c r ih =>
    obtain ⟨n, w⟩ := c
    simp only [Tbl.insert]
    split
    · simp [Memory.lookup]
    · have hn : n ≠ k := h (n, w) (by simp)
      simp only [Memory.lookup, if_neg hn]
      exact ih (fun c hc => h c (by simp [hc]))

theorem Memory.lookup_filter (cs : List Host.Cell) (p : Nat → Bool) (a : Nat) :
    Memory.lookup (cs.filter fun c => p c.1) a = if p a then Memory.lookup cs a else none := by
  induction cs with
  | nil => cases p a <;> rfl
  | cons c r ih =>
    obtain ⟨n, w⟩ := c
    by_cases hn : p n = true
    · simp only [List.filter_cons, hn, if_true, Memory.lookup]
      split
      · rename_i h; subst h; simp [hn]
      · exact ih
    · simp only [List.filter_cons, hn, Memory.lookup]
      rw [if_neg (by simp), ih]
      by_cases h : n = a
      · subst h; simp [hn]
      · simp [h]

theorem Memory.lookup_setCell_self (cs : List Host.Cell) (a : Nat) (b : Byte) :
    Memory.lookup (Memory.setCell cs a b) a = some b :=
  Memory.lookup_insert_self _ a b (Tbl.erase_keys cs a)

theorem Memory.lookup_setCell_ne (cs : List Host.Cell) {a k : Nat} (b : Byte) (h : a ≠ k) :
    Memory.lookup (Memory.setCell cs k b) a = Memory.lookup cs a := by
  unfold Memory.setCell
  rw [Memory.lookup_insert_ne _ b h]
  have := Memory.lookup_filter cs (fun j => decide (j ≠ k)) a
  simp only [Tbl.erase]
  rw [this]
  simp [h]

/-- A run of bytes written from `a` leaves every byte outside it as it was. -/
theorem Memory.cell_poke_out (m : Memory) (a : Nat) (l : List Byte) (x : Nat) (h : x < a ∨ a + l.length ≤ x) :
    (m.poke a l).cell x = m.cell x := by
  induction l generalizing m a with
  | nil => rfl
  | cons b r ih =>
    simp only [List.length_cons] at h
    simp only [Memory.poke]
    rw [ih _ _ (by omega)]
    exact Memory.lookup_setCell_ne _ _ (by omega)

/-- A run of bytes written from `a` is read back. -/
theorem Memory.cell_poke_in (m : Memory) (a : Nat) (l : List Byte) (i : Nat) (h : i < l.length) :
    (m.poke a l).cell (a + i) = some (l.getD i 0) := by
  induction l generalizing m a i with
  | nil => simp at h
  | cons b r ih =>
    simp only [Memory.poke]
    cases i with
    | zero =>
      rw [Memory.cell_poke_out _ _ _ _ (by omega)]
      exact Memory.lookup_setCell_self _ _ _
    | succ i =>
      have := ih ⟨Memory.setCell m.cells a b, m.bad⟩ (a + 1) i (by simpa using h)
      rw [show a + (i + 1) = a + 1 + i by omega, this]
      simp

@[simp] theorem Memory.cell_setBad (m : Memory) (k : Nat) (p : Option Bool) (x : Nat) : (m.setBad k p).cell x = m.cell x := rfl

theorem Memory.cell_foldl_setBad {β : Type} (l : List β) (f : Memory → β → Memory)
    (h : ∀ m b x, (f m b).cell x = m.cell x) (m : Memory) (x : Nat) : (l.foldl f m).cell x = m.cell x := by
  induction l generalizing m with
  | nil => rfl
  | cons b r ih => rw [List.foldl_cons, ih, h]

/-- What error marks a write leaves does not touch the bytes. -/
theorem Memory.cell_settle (g : Nat) (m : Memory) (a n x : Nat) : (m.settle g a n).cell x = m.cell x := by
  unfold Memory.settle
  refine Memory.cell_foldl_setBad _ _ (fun m k y => ?_) m x
  split
  · rfl
  · split <;> rfl

/-- A write leaves every byte outside the stored run as it was. -/
theorem Memory.cell_write_out (g : Nat) (m : Memory) (a : Nat) (l : List Byte) (x : Nat) (h : x < a ∨ a + l.length ≤ x) :
    (m.write g a l).cell x = m.cell x := by
  unfold Memory.write
  rw [Memory.cell_settle, Memory.cell_poke_out m a l x h]

/-- A write stores its bytes. -/
theorem Memory.cell_write_in (g : Nat) (m : Memory) (a : Nat) (l : List Byte) (i : Nat) (h : i < l.length) :
    (m.write g a l).cell (a + i) = some (l.getD i 0) := by
  unfold Memory.write
  rw [Memory.cell_settle, Memory.cell_poke_in m a l i h]

/-- Poisoning marks granules and touches no byte. -/
theorem Memory.cell_poison (g : Nat) (m : Memory) (a n x : Nat) : (m.poison g a n).cell x = m.cell x := by
  unfold Memory.poison
  exact Memory.cell_foldl_setBad _ _ (by intro m k y; rfl) m x

-- the canonical form

theorem Memory.wf_empty : ({} : Memory).wf = true := rfl

theorem Memory.wf_setBad (m : Memory) (k : Nat) (p : Option Bool) (h : m.wf = true) : (m.setBad k p).wf = true := by
  simp only [Memory.wf, Memory.setBad, Bool.and_eq_true] at h ⊢
  exact ⟨h.1, Tbl.wf_set none m.bad k p h.2⟩

theorem Memory.wf_poke (m : Memory) (a : Nat) (l : List Byte) (h : m.wf = true) : (m.poke a l).wf = true := by
  induction l generalizing m a with
  | nil => exact h
  | cons b r ih =>
    refine ih _ _ ?_
    simp only [Memory.wf, Bool.and_eq_true] at h ⊢
    exact ⟨Tbl.sorted_put m.cells a b h.1, h.2⟩

theorem Memory.wf_foldl {β : Type} (l : List β) (f : Memory → β → Memory) (hf : ∀ m b, m.wf = true → (f m b).wf = true)
    (m : Memory) (h : m.wf = true) : (l.foldl f m).wf = true := by
  induction l generalizing m with
  | nil => exact h
  | cons b r ih => exact ih _ (hf m b h)

theorem Memory.wf_settle (g : Nat) (m : Memory) (a n : Nat) (h : m.wf = true) : (m.settle g a n).wf = true := by
  unfold Memory.settle
  refine Memory.wf_foldl _ _ (fun m k hm => ?_) m h
  split
  · exact Memory.wf_setBad _ _ _ hm
  · split
    · exact Memory.wf_setBad _ _ _ hm
    · exact hm

theorem Memory.wf_write (g : Nat) (m : Memory) (a : Nat) (l : List Byte) (h : m.wf = true) : (m.write g a l).wf = true :=
  Memory.wf_settle g _ a _ (Memory.wf_poke m a l h)

theorem Memory.wf_poison (g : Nat) (m : Memory) (a n : Nat) (h : m.wf = true) : (m.poison g a n).wf = true := by
  unfold Memory.poison
  exact Memory.wf_foldl _ _ (fun m k hm => Memory.wf_setBad _ _ _ hm) m h

theorem Memory.wf_forget (g : Nat) (m : Memory) (a n : Nat) (h : m.wf = true) : (m.forget g a n).wf = true := by
  simp only [Memory.wf, Memory.forget, Bool.and_eq_true] at h ⊢
  exact ⟨Tbl.sorted_filter _ _ h.1, Tbl.wf_keep none m.bad _ h.2⟩

theorem Memory.wf_copyRange (g : Nat) (m src : Memory) (a b n : Nat) (h : m.wf = true) :
    (Memory.copyRange g m src a b n).wf = true := by
  have h1 := Memory.wf_forget g m b n h
  simp only [Memory.copyRange]
  refine Memory.wf_foldl _ _ (fun m e hm => Memory.wf_setBad _ _ _ hm) _ ?_
  simp only [Memory.wf, Bool.and_eq_true] at h1 ⊢
  refine ⟨?_, h1.2⟩
  generalize (m.forget g b n).cells = cs at h1 ⊢
  generalize src.slice a n = l
  have hs := h1.1
  clear h1
  induction l generalizing cs with
  | nil => exact hs
  | cons c r ih => exact ih _ (Tbl.sorted_put cs _ _ hs)

theorem Memory.wf_xor (m : Memory) (base : Nat) (l : List (Nat × Byte)) (h : m.wf = true) : (m.xor base l).wf = true := by
  simp only [Memory.wf, Memory.xor, Bool.and_eq_true] at h ⊢
  refine ⟨?_, h.2⟩
  have hs := h.1
  clear h
  generalize m.cells = cs at hs ⊢
  induction l generalizing cs with
  | nil => exact hs
  | cons e r ih =>
    rw [List.foldl_cons]
    refine ih _ ?_
    split
    · exact Tbl.sorted_put cs _ _ hs
    · exact hs

theorem Memory.wf_upset (m : Memory) (base : Nat) (v : Verdict) (h : m.wf = true) : (m.upset base v).wf = true := by
  unfold Memory.upset
  split
  · exact h
  · split
    · exact Memory.wf_xor m base _ h
    · exact Memory.wf_xor m base _ h
    · exact Memory.wf_setBad m base _ h

theorem Memory.wf_toSectors (m : Memory) (l : Nat) (h : m.wf = true) : (m.toSectors l).wf = true :=
  Memory.wf_foldl _ _ (fun m _ hm => Memory.wf_setBad m _ _ hm) _
    (Memory.wf_foldl _ _ (fun m _ hm => Memory.wf_setBad m _ _ hm) m h)

theorem Memory.wf_toWords (m : Memory) (l : Nat) (h : m.wf = true) : (m.toWords l).wf = true :=
  Memory.wf_foldl _ _ (fun m _ hm => Memory.wf_foldl _ _ (fun m _ hm => Memory.wf_setBad m _ _ hm) m hm) m h

theorem Memory.wf_restore (m : Memory) (l : Nat) (x : CacheLine) (h : m.wf = true) : (m.restore l x).wf = true := by
  refine Memory.wf_foldl _ _ (fun m _ hm => Memory.wf_setBad m _ _ hm) _ ?_
  have h1 := Memory.wf_forget wordGran m (l * 128) 128 h
  simp only [Memory.wf, Bool.and_eq_true] at h1 ⊢
  refine ⟨?_, h1.2⟩
  have hs := h1.1
  clear h1
  generalize (m.forget wordGran (l * 128) 128).cells = cs at hs ⊢
  generalize x.old = old
  induction old generalizing cs with
  | nil => exact hs
  | cons c r ih => exact ih _ (Tbl.sorted_put cs _ _ hs)

theorem Memory.wf_spoilLine (m : Memory) (l : Nat) (h : m.wf = true) : (m.spoilLine l).wf = true :=
  Memory.wf_foldl _ _ (fun m _ hm => Memory.wf_setBad m _ _ hm) m h

/-- What the error correction leaves of a granule touches no byte outside the masks. -/
theorem Memory.cell_xor_out (m : Memory) (base : Nat) (l : List (Nat × Byte)) (x : Nat) (h : ∀ e ∈ l, base + e.1 ≠ x) :
    (m.xor base l).cell x = m.cell x := by
  unfold Memory.xor Memory.cell
  dsimp only
  generalize m.cells = cs
  induction l generalizing cs with
  | nil => rfl
  | cons e r ih =>
    rw [List.foldl_cons, ih (fun e he => h e (List.mem_cons_of_mem _ he))]
    split
    · exact Memory.lookup_setCell_ne _ _ (Ne.symm (h e List.mem_cons_self))
    · rfl

end Sys2Proof.Machine
end

