-- ==== Sys2Proof/WellFormed.lean ====
section
/-! DEFINITION. Which commands are well formed: the operands whose type is wider than the field, width or bound the manual
gives them (R122, R271, R296, R304, R336, R383, R399, R401, R413, R415). -/

namespace Sys2Proof

/-- Every operand lies within what its row of the opcode table can carry. -/
def Instr.wf : Instr → Bool
  | .powerGood _ => true
  | .powerFail => true
  | .resetNAssert _ => true
  | .coreReset _ _ => true
  | .clusterReset _ _ _ => true
  | .partitionReset _ _ _ => true
  | .warmDeviceReset _ _ => true
  | .strtCmdBadcmd _ _ => true
  | .functionLevelReset _ => true
  | .pcieFundamentalReset => true
  | .refLossSwitch => true
  | .refReturn _ => true
  | .timeExchange => true
  | .timeFlitReceive _ path => decide (path.hops < 65536)
  | .parentLost _ => true
  | .timingRateRead _ _ => true
  | .registerWrite _ off _ => decide (off % 8 = 0 ∧ off < 0x2000000)
  | .mapFarwinWrite _ _ => true
  | .hostB2mapWrite _ _ _ => true
  | .tmma _ _ _ _ _ _ _ _ _ => true
  | .tlw _ _ _ _ => true
  | .twait _ _ _ _ => true
  | .tpoll _ _ _ _ => true
  | .tfence _ _ _ _ => true
  | .tensorTicketComplete _ => true
  | .vadd _ _ _ _ => true
  | .vsub _ _ _ _ => true
  | .vmul _ _ _ _ => true
  | .vfma _ _ _ _ => true
  | .vmin _ _ _ _ => true
  | .vmax _ _ _ _ => true
  | .vabs _ _ _ _ => true
  | .vexp2 _ _ _ _ => true
  | .vlog2 _ _ _ _ => true
  | .vrcp _ _ _ _ => true
  | .vsqrt _ _ _ _ => true
  | .vrsqrt _ _ _ _ => true
  | .vrsum _ _ _ _ => true
  | .vrmax _ _ _ _ => true
  | .vmvs _ _ _ _ => true
  | .vext _ _ _ _ => true
  | .vwait _ _ _ _ => true
  | .vpoll _ _ _ _ => true
  | .vfence _ _ _ _ => true
  | .vld _ _ _ _ _ => true
  | .vst _ _ _ _ _ => true
  | .vstx _ _ _ _ _ => true
  | .vectorTicketComplete _ => true
  | .vecSeedWrite _ _ => true
  | .instruction _ _ => true
  | .load _ _ _ => true
  | .store _ _ => true
  | .amo _ _ _ => true
  | .lr _ _ _ => true
  | .sc _ _ => true
  | .reservationTimeout _ => true
  | .fence _ _ => true
  | .fenceI _ _ => true
  | .environmentCall _ => true
  | .memoryResponse _ => true
  | .interruptTake _ => true
  | .timecmpMatch _ => true
  | .taskAssign _ => true
  | .taskSubmit _ _ _ => true
  | .bufferSlotResolve _ => true
  | .allocWaitTimeout _ => true
  | .taskEndStore _ _ => true
  | .taskEndEffective _ => true
  | .fwdEndSweep _ _ => true
  | .stepEndSweep _ _ => true
  | .queueResume _ _ _ => true
  | .queueFlush _ _ _ => true
  | .queueAbort _ _ _ => true
  | .abortTimeout _ => true
  | .queueConfigWrite _ _ _ _ => true
  | .resRootWrite _ _ _ => true
  | .allocatorEnable _ _ _ => true
  | .allocatorConfigWrite _ _ _ _ => true
  | .pagerPoolWrite _ _ _ => true
  | .translationMiss _ va _ => decide (va < 2 ^ 64)
  | .tableWalkResponse _ _ => true
  | .invalidate _ _ => true
  | .invalidateDone => true
  | .demandFault _ va _ => decide (va < 2 ^ 64)
  | .pageMoveStart _ => true
  | .pageCopyDone _ _ _ => true
  | .hintSubmit _ _ => true
  | .hintPrefetch _ => true
  | .hintEvict _ => true
  | .hintPrefetchPin _ => true
  | .hintUnpin _ => true
  | .dmaStart _ _ chain => decide (chain < 2 ^ 64)
  | .dmaResume _ _ => true
  | .dmaAbandon _ _ => true
  | .dmaDescriptorBegin _ _ => true
  | .dmaCopy _ _ => true
  | .dmaTr8 _ _ => true
  | .dmaTr16 _ _ => true
  | .dmaTr32 _ _ => true
  | .dmaFill _ _ => true
  | .dmaAdd _ _ => true
  | .dmaDescriptorComplete _ _ => true
  | .sliceRequest _ _ => true
  | .dramResponse _ _ => true
  | .writebackAck _ _ => true
  | .adderOperation _ _ => true
  | .sliceCfgWrite _ _ _ => true
  | .liveWrite _ _ _ _ => true
  | .refreshDue _ _ _ _ _ => true
  | .scrubRead _ _ _ => true
  | .lapOverdue _ => true
  | .remapCopyDone _ _ => true
  | .couplingBeatReceive _ _ _ payload check => decide (payload < 2 ^ 500 ∧ check < 4096)
  | .periodicTestSlot _ _ => true
  | .confirmTest _ _ => true
  | .stackRetrain _ _ _ => true
  | .pllLockLoss _ _ _ => true
  | .channelRetrainEnd _ _ _ => true
  | .retrainHoldTimeout _ _ => true
  | .stackOfflineWrite _ _ _ _ => true
  | .marginSweepStart _ _ _ => true
  | .marginSweepDone _ points => decide (points.length ≤ 4096)
  | .stackChstatRead _ _ _ => true
  | .resPstatRead _ _ => true
  | .resQstatRead _ _ _ => true
  | .trainWrite _ _ _ => true
  | .anchorStart _ _ => true
  | .anchorAbandon _ _ => true
  | .anchorResolveClean _ _ _ => true
  | .anchorResolveSkip _ _ _ => true
  | .anchCmdBadcmd _ _ _ => true
  | .anchCtlWrite _ _ _ => true
  | .anchConfigWrite _ _ off _ => decide (off % 8 = 0 ∧ off < 0x10000)
  | .relayArmed _ => true
  | .relayContribution _ _ op fmt data => decide (op < 8 ∧ fmt < 16 ∧ data.length ≤ 128)
  | .ruleFolded _ rule => decide (rule < 4096)
  | .foldTimeout _ => true
  | .voteClean => true
  | .voteSkip => true
  | .voteLost => true
  | .voteTimeout _ => true
  | .applyDone _ => true
  | .anchStatRead _ _ => true
  | .anchClampRead _ _ => true
  | .arrive _ _ arg => decide (arg < 65536)
  | .wait _ _ g => (g.all fun x => decide (x < 65536))
  | .peek _ _ => true
  | .join _ _ => true
  | .acquire _ _ n => decide (n < 65536)
  | .notify _ _ g => (g.all fun x => decide (x < 65536))
  | .arm _ _ => true
  | .config _ _ => true
  | .fail _ _ => true
  | .hrdHopReserved _ _ => true
  | .hrdEventRead _ _ => true
  | .hrdCfgWrite _ _ _ => true
  | .spanEntryWrite _ _ _ _ => true
  | .spanArrival _ => true
  | .spanFailureReport _ => true
  | .spanRelease _ => true
  | .spanFailureDecision _ => true
  | .mbxSend _ _ _ => true
  | .mbxRecv _ _ _ => true
  | .mbxStat _ _ _ => true
  | .mbxDbWrite _ _ => true
  | .mbxMaskWrite _ _ => true
  | .hostMailboxPost _ _ _ _ => true
  | .hostMailboxTake _ line _ => decide (line < 16384)
  | .mbxBindWrite _ _ _ _ => true
  | .mbxChRead _ _ _ => true
  | .flitReceive _ clear _ => decide (clear.length = 240)
  | .flitTransmit _ => true
  | .nakRepeatTimeout _ => true
  | .replayTimeout _ => true
  | .vcSaturation _ _ => true
  | .remoteRead _ _ => true
  | .remoteWrite _ => true
  | .remoteAdd _ _ => true
  | .remoteAmo _ _ => true
  | .remoteMbxPost _ => true
  | .remoteMbxStat _ => true
  | .remoteResponse _ => true
  | .remoteRequestTimeout tag => decide (tag < 65536)
  | .noticeReceive _ => true
  | .dictFlitRead _ => true
  | .dictFlitAnswer _ => true
  | .swapReq _ => true
  | .swapAck _ => true
  | .retrainReq _ => true
  | .keyUpdate _ => true
  | .trainingTurn _ => true
  | .turnTimeout _ _ => true
  | .absentRetry _ => true
  | .authHello _ _ => true
  | .authCert _ _ => true
  | .authVerify _ _ => true
  | .authFinished _ _ req rsp red => decide (req < 4096 ∧ rsp < 4096 ∧ red < 4096)
  | .trainingComplete _ => true
  | .trainingFailure _ => true
  | .loopbackTestDone _ _ => true
  | .downRetry _ => true
  | .codewordLockLoss _ => true
  | .linkRetrainCmd _ _ => true
  | .linkSwapCmd _ _ => true
  | .linkReleaseCmd _ _ => true
  | .linkLooptestCmd _ _ => true
  | .linkPcmdBadcmd _ _ _ => true
  | .portConfigWrite _ _ _ => true
  | .devidWrite _ _ => true
  | .vcbufWrite _ _ _ => true
  | .windowWrite _ _ _ _ => true
  | .slotWrite _ _ _ => true
  | .linkPerrRead _ _ => true
  | .linkPfecRead _ _ => true
  | .errStatWrite _ _ _ => true
  | .errClrcnt _ _ => true
  | .emcyTransmit => true
  | .replacementEvent => true
  | .pacerInterval _ => true
  | .allowanceReached _ => true
  | .vidFrame _ => true
  | .droopDetect _ _ => true
  | .droopRecover _ _ => true
  | .guardUpdate _ _ => true
  | .diodeSample l => decide (l.length = 24)
  | .thermistorSample l => decide (l.length = 4)
  | .dramSensorSample l _ => decide (l.length = 8)
  | .thermalControl => true
  | .oscillatorCompensation => true
  | .paceGstatRead _ => true
  | .pacePstatRead _ _ => true
  | .usdoUpload client index sub => decide (client < 128 ∧ index < 65536 ∧ sub < 256)
  | .usdoDownload client index sub data _ => decide (client < 128 ∧ index < 65536 ∧ sub < 256 ∧ data.length ≤ 56)
  | .usdoSegment client data => decide (client < 128 ∧ data.length ≤ 56)
  | .usdoTimeout client => decide (client < 128)
  | .nmtStart => true
  | .nmtStop => true
  | .nmtEnterPreoperational => true
  | .nmtResetNode _ => true
  | .nmtResetCommunication => true
  | .heartbeat => true
  | .tpdoTransmit _ => true
  | .rpdoReceive _ data => decide (data.length ≤ 64)
  | .dictRead _ => true
  | .dictWrite _ => true
  | .dictReadSegment _ => true
  | .dictRd _ _ _ => true
  | .storeParameters _ => true
  | .restoreDefaults _ => true
  | .journalFlush => true
  | .autoPersist => true
  | .journalRead _ => true
  | .journalSignedHead _ => true
  | .bar2Read x len => decide (x < 2 ^ 36 ∧ 0 < len ∧ len ≤ 4096)
  | .bar2Write x data _ => decide (x < 2 ^ 36 ∧ 0 < data.length ∧ data.length ≤ 4096)
  | .bar0DeniedWrite _ off _ => decide (off % 8 = 0 ∧ off < 0x2000000)
  | .hostStatRead _ => true
  | .farEnable _ _ => true
  | .farDecWrite _ _ _ => true
  | .cxlPortEvent _ _ => true
  | .vaultCommit _ => true
  | .vaultClear _ => true
  | .vaultBadcmd _ _ => true
  | .vaultCommitDone _ => true
  | .relayEntryConsumed _ j1 => decide (j1 < 4096)
  | .meshOrChannelSaturated _ => true
  | .cxlPortRetrained _ => true
  | .pcieAerUncorrectable _ bit => decide (bit < 32)
  | .wavelengthCalibration _ _ => true

end Sys2Proof
end

