-- ==== Sys2Proof/Tests/Slice0.lean ====
section
/-! SUPPORT. The writer's own tests: ill-formed commands are refused by `wf`, worked values of the manual, and for every
statement with hypotheses a state and operands that meet them. -/

section

-- theorems are checked one after another: proved side by side, each holds a thread while it waits for the kernel
set_option Elab.async false

open Sys2Proof Sys2Proof.Machine

/-- A device that is up: READY, every partition up, the core runtime in every cluster, NMT operational at node 5,
every core idle in machine mode. -/
def testUp : State :=
  { State.reset with dev := { Dev.reset with
      powered := true, nmt := .oper, bootEnv := { nodeId := 5 }
      clusters := (List.range 64).map fun k => (k, { runtime := some [] })
      regs := (Reg.strtStatus.offset, 0x20A) :: (List.finRange 8).map fun p => ((Reg.strtPart p).offset, 0xC000000000000000) } }

/-- The same with one core changed. -/
def testCore (f : Core → Core) : State := testUp.onDev fun d => d.modCore 0 f

/-- The same with one register changed. -/
def testReg (r : Reg) (w : Word) : State := testUp.onDev fun d => d.setReg r w

/-- The same with partition 7 fused away. -/
def testFused : State := { testUp with nv := { testUp.nv with part := { testUp.nv.part with parts := 0x7F } } }

/-- A state whose port 1 has received a message. -/
def testRx (m : Msg) (f : Port → Port) : State :=
  testUp.onDev fun d => (d.setReg (.linkPstat 1) (fput 63 60 5)).modPort 1 fun p => f { p with rx := [{ vc := opVc m.op, msg := m, flits := 1 }] }

/-- A request of core 0 to device memory. -/
def testReq (op : ReqOp) (st : ReqAt) : State :=
  (testCore fun k => { k with stall := .load 0 1 3 false }).onDev fun d =>
    { d with reqs := [(0, some { core := 0, op := op, va := 0, addr := 0, size := 8, st := st })] }

/-- Device memory with 64-bit words written from an address on. -/
def testWords (a : Nat) (l : List Word) (s : State) : State :=
  { s with mem := s.mem.poke a (l.flatMap fun w => leBytes 8 w.toNat) }

/-- A core in machine mode that is up, not stalled, open and without a deferred trap, in a cluster with the core runtime, carries out
its next instruction, and the fetch changes nothing. -/
theorem issues_of {s : State} {c : CoreIx} {len : Nat}
    (h : (s.coreUp c && ((s.dev.core c).stall == .none) && !s.dev.coreClosed c && (s.dev.core c).deferred.isEmpty &&
      (s.dev.core c).mach && (s.dev.cluster (coreCluster c)).runtime.isSome) = true) : Issues s c len s := by
  simp only [Bool.and_eq_true, beq_iff_eq, Bool.not_eq_true', List.isEmpty_iff] at h
  obtain ⟨⟨⟨⟨⟨h1, h2⟩, h3⟩, h4⟩, h5⟩, h6⟩ := h
  exact ⟨h1, h2, h3, h4, by simp only [State.fetch, h5, h6, if_true]⟩

/-- Any core that is up, not stalled, open and without a deferred trap carries out the instruction whose fetch succeeds. -/
theorem issues_fetched {s : State} {c : CoreIx} {len : Nat}
    (h : (s.coreUp c && ((s.dev.core c).stall == .none) && !s.dev.coreClosed c && (s.dev.core c).deferred.isEmpty &&
      decide ((s.fetch c len).1 = .ok)) = true) : Issues s c len (s.fetch c len).2 := by
  simp only [Bool.and_eq_true, beq_iff_eq, Bool.not_eq_true', List.isEmpty_iff, decide_eq_true_eq] at h
  obtain ⟨⟨⟨⟨h1, h2⟩, h3⟩, h4⟩, h5⟩ := h
  exact ⟨h1, h2, h3, h4, Prod.ext h5 rfl⟩

-- well-formedness: one ill-formed term for each check

theorem test_wf_refuses : ∀ c ∈ ([
    .timeFlitReceive 0 ⟨65536, 0⟩, .registerWrite .fn1 4 0, .registerWrite .fn1 0x2000000 0, .bar0DeniedWrite .fn0 12 0,
    .anchConfigWrite .fn1 0 0x10000 0, .translationMiss (.core 0) (2 ^ 64) ⟨.load, none⟩, .demandFault (.core 0) (2 ^ 64) .load,
    .dmaStart 0 0 (2 ^ 64), .couplingBeatReceive 0 0 0 (2 ^ 500) 0, .couplingBeatReceive 0 0 0 0 4096] : List Instr),
    c.wf = false := by decide +kernel

theorem test_wf_refuses_lists : ∀ c ∈ ([
    .marginSweepDone 0 (List.replicate 4097 0), .relayContribution 0 0 8 0 [], .relayContribution 0 0 0 16 [],
    .relayContribution 0 0 0 0 (List.replicate 129 0), .ruleFolded 0 4096, .relayEntryConsumed 0 4096,
    .diodeSample [], .thermistorSample [.opened], .dramSensorSample [] (.temp 0), .hostMailboxTake .fn0 16384 0, .flitReceive 0 [] {}] : List Instr), c.wf = false := by decide +kernel

theorem test_wf_refuses_hurdles : ∀ c ∈ ([
    .arrive (.core 0 1) 0 65536, .wait (.core 0 1) 0 (some 65536), .acquire (.core 0 1) 0 65536,
    .notify (.core 0 1) 0 (some 65536), .remoteRequestTimeout 65536, .authFinished 0 true 4096 0 0] : List Instr),
    c.wf = false := by decide +kernel

theorem test_wf_refuses_services : ∀ c ∈ ([
    .usdoUpload 128 0 0, .usdoUpload 0 65536 0, .usdoUpload 0 0 256, .usdoDownload 0 0 0 (List.replicate 57 0) 57,
    .usdoSegment 0 (List.replicate 57 0), .usdoTimeout 128, .rpdoReceive 0 (List.replicate 65 0), .bar2Read (2 ^ 36) 4,
    .bar2Read 0 0, .bar2Read 0 4097, .bar2Write 0 [] false, .pcieAerUncorrectable 0 32] : List Instr), c.wf = false := by decide +kernel

theorem test_wf_accepts : ∀ c ∈ ([
    .timeFlitReceive 0 ⟨65535, 0⟩, .registerWrite .fn1 0x1FFFFF8 0, .wait (.core 0 1) 0 none, .rpdoReceive 3 (List.replicate 64 0),
    .bar2Read (2 ^ 36 - 1) 4096, .couplingBeatReceive 7 223 63 (2 ^ 500 - 1) 4095] : List Instr), c.wf = true := by decide +kernel

-- worked values of the manual

/-- The encoding example of chapter 3: TMMA.W x10, x11, x12, x13. -/
theorem test_tmma_encoding : tmmaWord 10 11 12 13 false true 0 false = 0x68C5950B := by decide

/-- The example of R158: offset 0x2_3456_7880 of partition 5. -/
theorem test_dram_map : dramChan 5 0x234567880 = 14 ∧ dramLayer 0x234567880 = 1 ∧ dramBank 0x234567880 = 7 ∧
    dramRow 0x234567880 = 837 ∧ dramCol 0x234567880 = 7 := by decide +kernel

/-- The remap entry of the worked example of chapter 11. -/
theorem test_remap_entry : setBit (remapFields (0x5234567880 % 2 ^ 36)) 63 true = 0x800000000171A2B8 := by decide +kernel

/-- WHO of slice 14 of partition 5 of device 0x0456 in the same example; the core of the worked example of chapter 9. -/
theorem test_identities : idUnit 0x456 5 127 = 0x40456A7F ∧ idCore 0x123 177 = 0x101234D8 := by decide +kernel

/-- The frame of R443's example: 805 mV. -/
theorem test_vid_frame : vidWord 805 = 0xA956 := by decide

/-- The second moments of the example after R247: scale 115; codes 249 and 120. -/
theorem test_second_moment :
    encV (fun _ => 0) [fDiv (f32 0x3FC00000) (.fin false 10000 0), fDiv (f32 0x40000000) (.fin false 1000000000 0)] =
      (0x73, [249, 120], false) := by decide +kernel

/-- The worked example of chapter 14: a CAN node's write of 850 to 0x2122.01 changes VHI of partition 2 and is journalled. -/
theorem test_dictionary_write :
    let r := testUp.dictPut (.can 0x21) 0x2122 1 850 (some 2)
    r.1 = 0 ∧ r.2.nv.journal.ram.map (fun j => (j.origin, j.index, j.sub, j.result)) = [(0x6FFFF021, 0x2122, 1, 0)] ∧
      r.2.nv.journal.ram.map (fun j => (j.old, j.new)) = [(750, 850)] ∧
      fld (r.2.dev.reg (.pacePcfg 2)) 63 54 = 0x352 := by refine ⟨?_, ?_, ?_, ?_⟩ <;> decide +kernel

/-- The same example, second part: with partition 5 not quiesced, check 7 refuses a write of DIRECT, and the refusal is journalled. -/
theorem test_dictionary_refusal :
    let r := (testUp.onDev fun d => d.setReg (.anchStat 5) (fput 63 61 1)).dictPut .host 0x2505 1 2 none
    r.1 = 0x08000022 ∧ fld (r.2.dev.reg (.sliceCfg 5)) 3 0 = 0 ∧ bit (r.2.dev.reg (.sliceCfg 5)) 4 = true ∧
      r.2.nv.journal.ram.map (fun j => (j.index, j.sub, j.result)) = [(0x2505, 1, 2)] := by
  refine ⟨?_, ?_, ?_, ?_⟩ <;> decide +kernel

/-- The check values of the standards the links name: CRC-32C of "123456789", SHA-384 of the empty message (FIPS 180-4). -/
theorem test_link_codes : crc32c [0x31, 0x32, 0x33, 0x34, 0x35, 0x36, 0x37, 0x38, 0x39] = 0xE3069283 ∧
    (sha384 []).take 8 = [0x38, 0xB0, 0x60, 0xA7, 0x51, 0xAC, 0x96, 0x38] := by refine ⟨?_, ?_⟩ <;> decide +kernel

/-- AES-256 of FIPS 197, appendix C.3. -/
theorem test_aes : (aesBlock (aesKeys ((List.range 32).map (BitVec.ofNat 8))) ((List.range 16).map fun i => BitVec.ofNat 8 (0x11 * i))).take 4 =
    [0x8E, 0xA2, 0xB7, 0xCA] := by decide +kernel

/-- No row of the opcode table carries bits. -/
theorem test_no_words : decodeTableWord 32 0x68C5950B = none := rfl

/-- An empty queue: device time advances by 1 ns between two edges of the reference, by what is left of 10 ns at an edge. -/
theorem test_idle : (∃ t, step testUp = .next t ∧ t.now = testUp.now + 1) ∧
    (let s : State := { testUp with clk := { testUp.clk with sub := 9 } }
     ∃ t, step s = .next t ∧ t.clk.ps = s.clk.ps + 10000 ∧ t.now = s.now + 1) :=
  ⟨⟨_, rfl, by decide +kernel⟩, ⟨_, rfl, by decide +kernel, by decide +kernel⟩⟩

/-- The front command of the queue is taken. -/
theorem test_power_fail : ∃ t, step { testUp with pending := [.powerFail, .timeExchange] } = .next t ∧ t.dev.powered = false ∧
    t.pending = [.timeExchange] := ⟨_, rfl, rfl, rfl⟩

-- each theorem: the hypotheses of the statement's clauses, in their order, at concrete states and operands

theorem witness_StepTakesFrontCommand : ({ testUp with pending := [.powerFail] } : State).pending = .powerFail :: [] := rfl

theorem witness_PowerCommandsComplete : testUp.dev.powered = true := rfl

theorem witness_ResetCommandsComplete :
    (Origin.fn1 ≠ .fn0 ∧ testUp.dev.answers .fn1 .strtCmd = true ∧ testUp.dev.ready = true ∧
      testUp.noUnit (.core 0) = false ∧ testUp.noUnit (.cluster 63) = false ∧ testUp.noUnit (.partition 7) = false ∧
      testUp.dev.seqs = []) ∧
    (let t : Task := { part := 0, queue := 0, asid := 0, group := 0, words := [], abort := some 9 }
     let s := testCore fun k => { k with task := some t }
     s.coreUp 0 = true ∧ (s.dev.core 0).task = some t ∧ t.abort.isSome = true) := by decide +kernel

theorem witness_ResetCommandsRefused :
    (Origin.fn1 ≠ .fn0 ∧ testUp.dev.answers .fn1 .strtCmd = true ∧ fld 0 63 60 = 0 ∧ 5 ≤ fld 0x5000000000000000 63 60) ∧
    ((testReg .strtStatus 10).dev.ready = false ∧ (testReg .strtStatus 10).dev.answers .fn1 .strtCmd = true ∧
      testUp.dev.answers .firmware .strtCmd = true ∧ testFused.nv.part.enabled 7 = false ∧
      testFused.dev.answers .fn1 .strtCmd = true) := by decide +kernel

theorem witness_ReferenceReturnSlews :
    (testReg .timingStatus 8).dev.powered = true ∧ bit ((testReg .timingStatus 8).dev.reg .timingStatus) 3 = true := by
  decide +kernel

/-- A TIME flit whose T3 is not zero. -/
def testTime (locked : Bool) : State :=
  (testRx { src := 9, dst := 1, op := 0x11, len := 0, data := List.replicate 24 1 } id).onDev fun d =>
    { d with parent := some 1, locked := locked }

theorem witness_TimeCommandsComplete :
    (testUp.dev.powered = true ∧ bit (testUp.dev.reg .timingStatus) 3 = false ∧ (testTime true).dev.parent = some 1 ∧
      testUp.mayRead .fn1 (.timingRate 7)) ∧
    ((((testTime true).dev.port 1).oldest 3).map (·.msg.op) = some 0x11 ∧ (((testTime false).dev.port 1).oldest 3).map (·.msg.op) = some 0x11 ∧
      ofLe (((List.replicate 24 (1 : Byte)).drop 16).take 8) ≠ 0 ∧ (testTime true).dev.locked = true ∧
      (testTime false).dev.locked = false) := by
  unfold State.mayRead; decide +kernel

theorem witness_DramMapIsBijective :
    0 < Part.shipped.dramSize ∧ 4096 * (12582911 + 1) ≤ Part.shipped.dramSize ∧ dramCol (4096 * 14) < 15 := by decide

theorem witness_ErrorEventsAreRecorded :
    bit (testUp.dev.reg (.errStat 40)) 63 = false ∧
    bit ((testReg (.errStat 40) 0x8000000000000001).dev.reg (.errStat 40)) 63 = true := by decide +kernel

theorem witness_ErrorRecordCommandsComplete :
    testUp.mayWrite .fn1 (.errStat 63) ∧ sourceListed 40 = true ∧ sourceListed 0 = false ∧
    testUp.dev.hubUp = true ∧ testUp.dev.partUp 7 = true ∧ testUp.dev.dictUp = true ∧
    (let s := testUp.onDev fun d => { d with updates := [(0, .vias 7 223)] }
     s.dev.dictUp = true ∧ s.dev.updates ≠ [] ∧ s.dev.genOpen = false ∧ s.dev.updatesHeld = false ∧ s.eventOpens = true) ∧
    (let s := testUp.onDev fun d => { d with updates := [(0, .margin 7)] }
     s.dev.updates ≠ [] ∧ s.dev.updatesHeld = false ∧ s.eventOpens = false) ∧
    (let s := testUp.onDev fun d => { d with updates := [(0, .vias 7 223)], genOpen := true }
     s.dev.dictUp = true ∧ s.dev.genOpen = true ∧ s.dev.updates = [(0, .vias 7 (223 : Fin 224).val)] ∧
     bit (s.nv.entry 7 (145 + 223)) 40 = false) := by
  unfold State.mayWrite; decide +kernel

theorem witness_HostAccessesComplete :
    testUp.dev.hostWait = [] ∧ testUp.dev.postedOut = false ∧ testUp.dev.calm = true ∧ testUp.dev.aperture 0 = none ∧
    (let s := testReg (.b2map 0) 0x8000000000000000
     s.dev.hostWait = [] ∧ s.dev.postedOut = false ∧ s.dev.calm = true ∧ s.dev.aperture 5 = some 5 ∧ s.place 5 = .mem 0 3 true ∧
     (s.readSpan 5 1).1.isSome = true ∧ (s.writeSpan 5 [0]).1 = true) := by decide +kernel

theorem witness_HostRegistersComplete :
    (testUp.mayWrite .fn0 .mapFarwin ∧ testUp.dev.hostWait = [] ∧ testUp.dev.postedOut = false ∧ testUp.dev.windowOut = [] ∧
      testUp.dev.calm = true) ∧
    testUp.mayWrite .fn0 (.b2map 15) ∧ testUp.mayRead .fn0 .hostStat ∧
    (Reg.ofOffset Reg.vaultCmd.offset = some .vaultCmd ∧ testUp.nv.fusedReg .vaultCmd = false ∧
      testUp.dev.answers .fn0 .vaultCmd = true ∧ originMayWrite .fn0 .vaultCmd = false ∧
      Reg.vaultCmd.offset ≠ Reg.hostStat.offset) := by
  unfold State.mayWrite State.mayRead; decide +kernel

theorem witness_FarTierCommandsComplete :
    (testUp.mayWrite .fn1 .farCtl ∧ bit 0 63 = false ∧ testUp.dev.farBad = false) ∧
    (testUp.mayWrite .fn1 (.farDec 3) ∧ bit (testUp.dev.reg .farCtl) 63 = false) ∧
    (let s := testReg (.farPort 1) 0x4000000000000000
     s.dev.powered = true ∧ fld (s.dev.reg (.farPort 1)) 63 62 = 1) ∧
    (let s := testReg (.farDec 0) 0x8000000000000000
     s.mayWrite .fn1 .farCtl ∧ s.dev.farBad = true ∧ bit 0x8000000000000000 63 = true) ∧
    (let s := testReg .farCtl 0x8000000000000000
     s.mayWrite .fn1 (.farDec 0) ∧ bit (s.dev.reg .farCtl) 63 = true) := by unfold State.mayWrite; decide +kernel

theorem witness_VaultCommandsComplete :
    (testUp.mayWrite .fn1 .vaultCmd ∧ bit (testUp.dev.reg .vaultStat) 63 = false ∧ fld 0x3000000000000000 63 60 ≠ 1 ∧
      fld 0 63 60 ≠ 2) ∧
    (let s := testUp.onDev fun d => { d with vaultFn := some 1 }
     s.dev.vaultFn = some 1 ∧ s.dev.package? = none ∧ s.dev.powered = true) := by unfold State.mayWrite; decide +kernel

/-- A package with an empty body and its digest. -/
def testPackage (kind signer version : Nat) : Staged :=
  { kind := kind, signer := signer, version := version, signed := [], digest := sha384 [], sig := [0], body := [] }

theorem witness_VaultPackages :
    (Vault.signedOk {} (testPackage 1 2 0) = false) ∧
    (sha384 (testPackage 1 0 0).body = (testPackage 1 0 0).digest ∧ (testPackage 1 0 0).version < Vault.minver { minver := 1 } ∧
      (testPackage 3 0 1).version ≤ Vault.revVer { revVer := 1 } ∧ Vault.minver {} ≤ (testPackage 1 0 0).version) ∧
    ((testPackage 4 2 0).signer = 2 ∧ Vault.owner {} = none ∧ ∀ b ∈ (testPackage 4 2 0).sig, b = 0) :=
  ⟨rfl, ⟨by simp only [testPackage], by decide, by decide, by decide⟩, rfl, rfl, by simp [testPackage]⟩

theorem witness_RegisterWriteCompletes :
    Reg.ofOffset (Reg.timingRate 7).offset = some (.timingRate 7) ∧ plainReg (.timingRate 7) = true ∧
    testUp.mayWrite .firmware (.timingRate 7) ∧ Reg.ofOffset 4 = none := by unfold State.mayWrite; decide +kernel

theorem witness_TensorIssueCompletes :
    (let s := testCore fun k => { k with shadow := { tag := some 0 }, tcstride := 512, x := [(1, 4096)] }
     let k := s.dev.core 0
     Issues s 0 4 s ∧ k.tqueue.length < 8 ∧
     (let op : TensOp := { tlw := false, ticket := 0, a := (k.getX 0).toNat, scale := fld (k.getX 0) 31 10, acc := (k.getX 1).toNat,
                           m := fld (k.getX 0) 8 0 + 1, z := true, swap := true }
      k.tmmaFault (tmmaWord 0 0 1 0 true true 0 false) ((0 : Fin 4).val != 0 || false) op
        (decide (2 ^ 22 ≤ op.a ∨ 2 ^ 22 ≤ op.acc)) = none) ∧
     (let op : TensOp := { tlw := true, ticket := 0, a := (k.getX 0).toNat, scale := (k.getX 0).toNat }
      k.tlwFault (rTypeWord 0 0 0 0 0x2B) op
        (decide (2 ^ 22 ≤ op.a) || (isMx (fld k.tctl 7 4) && decide (2 ^ 22 ≤ op.scale))) = none)) :=
  ⟨issues_of (by decide +kernel), by decide +kernel⟩

theorem witness_VectorIssueCompletes :
    let k := testUp.dev.core 0
    Issues testUp 0 4 testUp ∧ k.vqueue.length < 16 ∧ fld k.vctl 1 0 ≠ 3 ∧ vecUnary .rsum = true ∧ (0 : RegNum).val = 0 ∧
    (let k := (testCore fun k => { k with x := [(1, 4190208 - 512)] }).dev.core 0
     let x := (k.getX 1).toNat
     vecCode 0x11 = true ∧ x % 32 = 0 ∧ x < 2 ^ 22 ∧ x + vecBytes 0x11 = k.scratch) ∧
    (isMx 6 = true ∧ vecBytes 6 ≤ k.scratch ∧ (k.getX 1).toNat + 4 ≤ k.scratch) :=
  ⟨issues_of (by decide +kernel), by decide +kernel⟩

theorem witness_UnitWaitsComplete :
    (let k := testUp.dev.core 0
     Issues testUp 0 4 testUp ∧ waitOver k.tdone k.tissued (waitTicket k.tissued 0) = true ∧ k.tunrep.find? (coversTicket none) = none ∧
     k.tdone = k.tissued ∧ k.tunrep = [] ∧ k.vqueue = [] ∧ k.vunrep = [] ∧
     waitOver k.vdone k.vissued (waitTicket k.vissued 0) = true ∧ k.vdone = k.vissued) ∧
    (let s := testCore fun k => { k with tissued := 32768, x := [(1, 32768)] }
     let k := s.dev.core 0
     Issues s 0 4 s ∧ waitOver k.tdone k.tissued (waitTicket k.tissued ((k.getX 1).toNat % 65536)) = false) ∧
    (testUp.dev.partUp (corePart 0) = true ∧ ((testCore fun k => { k with tqueue := [{ tlw := true, ticket := 1 }] }).dev.core 0).tqueue =
      [{ tlw := true, ticket := 1 }] ∧
      ((testCore fun k => { k with vqueue := [{ ticket := 65535, act := .splat 31 0 }] }).dev.core 0).vqueue =
      [{ ticket := 65535, act := .splat 31 0 }]) :=
  ⟨⟨issues_of (by decide +kernel), by decide +kernel⟩, ⟨issues_of (by decide +kernel), by decide +kernel⟩, by decide +kernel⟩

-- words written out from the RISC-V encodings the manual names (R92)
theorem witness_BaseInstructionsComplete :
    Issues testUp 0 (wordLen 0x000010B7) testUp ∧ Issues testUp 0 (wordLen 0) testUp ∧
    decodeOf 0x000010B7 = .lui 1 0x1000 ∧ decodeOf 0xFFF00093 = .opImm 0 false 1 0 (-1) ∧ decodeOf 0x402081B3 = .op 0 true 3 1 2 ∧
    decodeOf 0x022081B3 = .mul 0 3 1 2 ∧ decodeOf 0x004000EF = .jal 1 4 ∧ decodeOf 0xFE208EE3 = .branch 0 1 2 (-4) ∧
    decodeOf 0 = .illegal :=
  ⟨issues_of (by decide +kernel), issues_of (by decide +kernel), by decide +kernel⟩

/-- A core whose x2 holds an address, with a task in address space 3 and a writable page at 0. -/
def testAddr (a : Word) : State :=
  (testCore fun k => { k with x := [(2, a)], task := some { part := 0, queue := 0, asid := 3, group := 0, words := [] } }).onDev fun d =>
    d.setTlb 0 0 (some { asid := 3, vpn := 0, pteAt := 0, pte := 0x8D00000000000000 })

/-- The same with x2 at an offset of the local window that has been written. -/
def testWindow (off : Nat) : State :=
  (testAddr (BitVec.ofNat 64 (windowBase + off))).onDev fun d => d.modCore 0 fun k =>
    { k with sram := ({} : Memory).poke off (List.replicate 8 0) }

theorem witness_LoadsAndStoresComplete :
    Issues (testWindow 8) 0 (wordLen 0x00013083) (testWindow 8) ∧ Issues (testAddr 8) 0 (wordLen 0x00113023) (testAddr 8) ∧
    decodeOf 0x00013083 = .load 3 false 1 2 0 ∧ decodeOf 0x00113023 = .store 3 false 2 1 0 ∧
    (let s := testWindow (4190208 - 8)
     let va := ((s.dev.core 0).getX 2 + 0).toNat
     inWindow va = true ∧ (s.dev.core 0).windowBad false (va - windowBase) (accSize 3) = none ∧
     (s.dev.core 0).windowBad true (va - windowBase) (accSize 3) = none ∧ va - windowBase ≠ submitPort ∧ va - windowBase ≠ endPort ∧
     (s.dev.core 0).area (va - windowBase) = .scratch ∧ (s.dev.sramView s.now 0 (va - windowBase) (accSize 3) .none).1.bad = []) ∧
    (let s := testAddr 8
     let va := ((s.dev.core 0).getX 2 + 0).toNat
     va < windowBase ∧ va % accSize 3 = 0 ∧ (s.dev.core 0).asid = some 3 ∧ (s.xlate (coreCluster 0) 3 va .load).1 = .ok 8 ∧
     (s.xlate (coreCluster 0) 3 va .store).1 = .ok 8) :=
  ⟨issues_of (by decide +kernel), issues_of (by decide +kernel), by decide +kernel⟩

theorem witness_AtomicsComplete :
    decodeOf 0x001131AF = .amo 0 true 3 2 1 ∧ decodeOf 0x100130AF = .lr true 1 2 ∧ decodeOf 0x181121AF = .sc false 3 2 1 ∧
    Issues (testWindow 8) 0 (wordLen 0x001131AF) (testWindow 8) ∧ Issues (testAddr 8) 0 (wordLen 0x001131AF) (testAddr 8) ∧
    (let s := testWindow 8
     let va := ((s.dev.core 0).getX 2).toNat
     va % 8 = 0 ∧ inWindow va = true ∧ (s.dev.core 0).windowBad true (va - windowBase) 8 = none ∧
     (s.dev.core 0).windowBad false (va - windowBase) 8 = none ∧ (s.dev.sramView s.now 0 (va - windowBase) 8 .none).1.bad = []) ∧
    (let s := testAddr 8
     let va := ((s.dev.core 0).getX 2).toNat
     va % 8 = 0 ∧ va < windowBase ∧ (s.dev.core 0).asid = some 3 ∧ (s.xlate (coreCluster 0) 3 va .load).1 = .ok 8 ∧
     (s.xlate (coreCluster 0) 3 va .store).1 = .ok 8) :=
  ⟨by decide +kernel, by decide +kernel, by decide +kernel, issues_of (by decide +kernel), issues_of (by decide +kernel), by decide +kernel⟩

theorem witness_OrderingAndTimersComplete :
    decodeOf 0x0FF0000F = .fence ∧ decodeOf 0x0000100F = .fenceI ∧ Issues testUp 0 (wordLen 0x0FF0000F) testUp ∧
    testUp.dev.storesOut 0 = false ∧
    (let s := testUp.onDev fun d => { d with reqs := [(0, some { core := 0, op := .write, va := 0, addr := 0, size := 8 })] }
     Issues s 0 (wordLen 0x0FF0000F) s ∧ s.dev.storesOut 0 = true) ∧
    (let s := testReq .read (.done (.ok 7))
     ∃ q, s.dev.reqs.get none 0 = some q ∧ q.st = .done (.ok 7) ∧ q.op = .read ∧ q.core = 0 ∧
       (s.dev.core 0).stall = .load 0 1 3 false ∧ (1 : RegNum).val ≠ 0 ∧ 3 < 8) ∧
    (((testCore fun k => { k with timecmp := 0 }).dev.core 0).timecmp.toNat ≤ (testCore fun k => { k with timecmp := 0 }).now) := by
  exact ⟨by decide +kernel, by decide +kernel, issues_of (by decide +kernel), by decide +kernel,
    ⟨issues_of (by decide +kernel), by decide +kernel⟩,
    ⟨{ core := 0, op := .read, va := 0, addr := 0, size := 8, st := .done (.ok 7) }, by decide +kernel⟩, by decide +kernel⟩

theorem witness_TrapsAreTaken :
    Issues testUp 0 4 testUp ∧ bit (2 : Word) 63 = false ∧
    (let s := testCore fun k => { k with mach := false, mie := 0x80, mtip := true }
     s.interrupt 0 = some 7 ∧ s.coreUp 0 = true ∧ (s.dev.core 0).stall = .none) :=
  ⟨issues_of (by decide +kernel), by decide +kernel⟩

/-- Queue 63 of partition 7 enabled and stopped, of size 1, with `n` waiting tasks. -/
def testQueue (n : Nat) : State :=
  testUp.onDev fun d => (d.setReg (.resQcfg 7 63) (setBit 0 63 true)).setReg (.resQstat 7 63) (setBit (fput 12 0 n) 60 true)

theorem witness_TaskSubmissionCompletes :
    (testUp.mayWrite .fn0 (.resSubmit 7 63 7) ∧ testUp.nv.part.enabled 7 = true ∧ testUp.dev.partUp 7 = true) ∧
    ((testQueue 0).mayWrite .fn0 (.resSubmit 7 63 7) ∧ (testQueue 0).dev.queueOn 7 63 = true ∧
      (testQueue 0).dev.waiting 7 63 < (testQueue 0).dev.ringSize 7 63 ∧ (testQueue 0).dev.waiting 7 63 < 8191 ∧
      (testQueue 0).dev.stopped 7 63 = true) ∧
    ((testQueue 1).dev.queueOn 7 63 = true ∧ (testQueue 1).dev.ringSize 7 63 ≤ (testQueue 1).dev.waiting 7 63) ∧
    (Issues testUp 0 4 testUp ∧ (testUp.dev.core 0).mach = true) := by
  unfold State.mayWrite
  exact ⟨by decide +kernel, by decide +kernel, by decide +kernel, issues_of (by decide +kernel), by decide +kernel⟩

/-- A task descriptor with three buffer slots in use, all naming handle 1. -/
def testDesc : List Word := [0, 0, 0, 0, 0, 0x0100000101000001, 0x01000001, 0]

theorem witness_HeadSlotsComplete :
    (let s := testWords 16
       [0x4000000000000000, 0] (testUp.onDev fun d => d.modQueue 0 63 fun x => { x with stage := .slots 2, desc := testDesc })
     s.dev.partUp 0 = true ∧ (s.dev.queue 0 63).stage = .slots 2 ∧
     descSlot (s.dev.queue 0 63).desc 2 = some (1, false, false) ∧ (s.bufPeek 1).map Buf.state = some 1) ∧
    (let s := testUp.onDev fun d => d.modQueue 0 63 fun x => { x with space := true }
     s.dev.partUp 0 = true ∧ (s.dev.queue 0 63).space = true ∧ fld (s.dev.reg (.resQfail 0 63)) 47 40 = 0) ∧
    (let r : Recomp := { handle := 1, part := 0, queue := 63, asid := 0, group := 0, depth := 0, desc := [], space := true }
     let s := testUp.onDev fun d => { d with disp := [(0, { recomp := [r] })] }
     (s.dev.dispOf 0).recomp[0]? = some r ∧ r.space = true) := by decide +kernel

theorem witness_TaskAssignCompletes :
    let s := testUp.onDev fun d => ((d.setReg (.resQcfg 0 63) (setBit 0 63 true)).setReg (.resQstat 0 63) 1).modQueue 0 63
      fun x => { x with stage := .eligible, desc := [0, 0, 0, 0, 0, 0, 0, 0] }
    s.coreFree 0 = true ∧ s.pick 0 = some (.head 0 63, 0) := by decide +kernel

theorem witness_TaskEndCompletes :
    Issues testUp 0 4 testUp ∧ (testUp.dev.core 0).mach = true ∧ (testUp.dev.core 0).rtStatus = none ∧
    (∀ v : Word, v = 0 ∨ v = 1 →
      let tk : Task := { part := 0, queue := 63, asid := 0, group := 0, words := [] }
      let s := testCore fun k => { k with endReq := some v, task := some tk }
      (s.dev.core 0).endReq = some v ∧ (s.dev.core 0).task = some tk ∧ s.coreUp 0 = true ∧ (s.dev.core 0).tqueue = [] ∧
      (s.dev.core 0).vqueue = [] ∧ (∀ n < 4, ((s.dev.core 0).chan n).phase = .idle) ∧ tk.abort = none ∧ tk.recompute = none ∧
      fld (s.dev.reg (.resQfail 0 63)) 47 40 = 0) := by
  refine ⟨issues_of (by decide +kernel), by decide +kernel, by decide +kernel, fun v h => ?_⟩
  rcases h with rfl | rfl <;> decide +kernel

theorem witness_QueueCommandsComplete :
    testUp.mayWrite .fn1 (.resQstat 7 63) ∧ testUp.dev.waiting 7 63 = 0 ∧
    (let tk : Task := { part := 7, queue := 63, asid := 0, group := 0, words := [] }
     let s := testCore fun k => { k with task := some tk }
     s.mayWrite .fn1 (.resQstat 7 63) ∧ (s.dev.core 0).task = some tk ∧ tk.recompute = none ∧ (s.dev.core 1).task = none) ∧
    (testUp.mayWrite .fn1 (.resQcfg 7 63) ∧ bit (testUp.dev.reg (.resQcfg 7 63)) 63 = false ∧ bit 0 63 = false) ∧
    ((testQueue 0).mayWrite .fn1 (.resQcfg 7 63) ∧ bit ((testQueue 0).dev.reg (.resQcfg 7 63)) 63 = true) ∧
    testUp.mayRead .fn0 (.resQstat 7 63) := by unfold State.mayWrite State.mayRead; decide +kernel

theorem witness_ResourceConfigurationCompletes :
    testUp.mayWrite .fn1 (.resRoot 15) ∧ (∀ p q, bit (testUp.dev.reg (.resQcfg p q)) 63 = true →
      fld (testUp.dev.reg (.resQcfg p q)) 61 58 ≠ 15) ∧
    testUp.dev.allocOn 7 = false ∧ testUp.mayWrite .fn1 (.resApool 7 3) ∧ testUp.mayWrite .fn1 (.resBuft 7) ∧
    testUp.mayWrite .fn1 (.resCtl 7) ∧ testUp.dev.poolsBad testUp.nv.part 7 = false ∧ bit 1 7 = false ∧ bit 1 8 = false ∧
    testUp.mayWrite .fn1 (.resPpool 7) ∧
    bit (storeTyped (.resPpool 7) (testUp.dev.reg (.resPpool 7)) 0x80010000) 31 = true ∧
    testUp.dev.poolBad testUp.nv.part 7 (storeTyped (.resPpool 7) (testUp.dev.reg (.resPpool 7)) 0x80010000) = false := by
  unfold State.mayWrite; decide +kernel

/-- Page tables of address space 0 at 0x10000, 0x20000 and 0x30000, with one page entry. -/
def testTables (pte : Word) : State :=
  testWords 0x30000 [pte, 0, 0, 0] (testWords 0x20000 [0x8000000000030000, 0, 0, 0] (testWords 0x10000 [0x8000000000020000, 0, 0, 0]
    (testReg (.resRoot 0) 0x8000000000010000)))

/-- A walk of core 0 at a level. -/
def testWalk (level table : Nat) : Walk := { who := .core 0, asid := 0, va := 0, acc := .load, level := level, table := table }

theorem witness_TranslationCompletes :
    (let s := (testTables 0).onDev fun d => d.modCore 0 fun k =>
       { k with stall := .xlate 0 .load, task := some { part := 0, queue := 0, asid := 0, group := 0, words := [] } }
     s.needs (.core 0) 0 (⟨.load, none⟩ : Lookup).acc = true ∧ s.dev.walking (.core 0) = false ∧ (s.dev.core (reqCore (.core 0))).asid = some 0 ∧
     bit (s.dev.reg (.resRoot (Fin.ofNat 16 0))) 63 = true) ∧
    (let s := (testTables 0).onDev fun d => { d with walks := [testWalk 2 0x10000] }
     s.dev.calm = true ∧
     (s.dev.walks.find? fun w => coreCluster (reqCore w.who) == 0 && decide (w.level ≤ 2)) = some (testWalk 2 0x10000) ∧
     ((if s.tablePlace 0x10000 then s.applyUpset 0x10000 .none else s).walkStep 0 2 0x10000).1 = .next 0x20000) ∧
    (let s := (testTables 0).onDev fun d => { d with walks := [testWalk 3 0x30000] }
     (s.dev.walks.find? fun w => w.who == .core 0 && w.va == 0 && w.acc == .load && w.level == 3) = some (testWalk 3 0x30000)) ∧
    (testUp.mayWrite .fn1 .resInval ∧ bit 0x8000000000000000 63 = true ∧ testUp.dev.inval = none) ∧
    (let i : Inval := {}
     let s := testUp.onDev fun d => { d with inval := some i }
     s.dev.inval = some i ∧ i.merged = false ∧ i.waits.any s.dev.reqOpen = false ∧
     (i.chans.any fun e => s.dev.chanRemotes e.1 e.2) = false) := by unfold State.mayWrite; decide +kernel

/-- A hint at the front of the pager of partition 0. -/
def testHint (op : Nat) (pte : Word) : State :=
  (testTables pte).onDev fun d => d.modPager 0 fun g => { g with hints := [(op * 2 ^ 60, 0)] }

theorem witness_PagerCompletes :
    (let x : Demand := { who := .core 0, asid := 0, va := 0, pteAt := 0x30000, acc := .load }
     let s := (testTables 0xD000000000000000).onDev fun d => (d.setReg (.resPpool 0) 0x80010000).modPager 0 fun g => { g with demands := [x] }
     (s.dev.pager 0).demands = [x] ∧ s.dev.partUp 0 = true ∧ s.dev.mayMove 0 = true ∧ pteRes (s.pte x.pteAt) = .far ∧
     s.dev.freeFrame 0 = some 0) ∧
    (let m : Move := { inward := true, why := .demand, asid := 0, va := 0, pteAt := 0x30000, old := 0, frame := 0 }
     let s := testUp.onDev fun d => (((d.setReg .farCtl 0x8000000000000000).setReg (.farDec 0) (setBit (fput 44 32 1) 63 true)).setReg
       (.farPort 0) (fput 63 62 2)).modPager 0 fun g => { g with moves := [m, m] }
     (s.dev.pager 0).moves[(1 : Fin 2).val]? = some m ∧ s.dev.partUp 0 = true ∧ s.dev.calm = true ∧ s.dev.frameBusy m.frame = false ∧ m.inward = true ∧
     s.dev.farBroken (fld m.old 52 32 * 2 ^ 21) = none) ∧
    (let h := ((testUp.dev.hintStage.get 0 (hintKey 0 .fn0)).toNat + (0 : Word).toNat * 2 ^ 64)
     let s := testUp.onDev fun d => { d with hintStage := [(hintKey 0 .fn0, 0x4000000000000000)] }
     let h := h + (s.dev.hintStage.get 0 (hintKey 0 .fn0)).toNat
     s.mayWrite .fn0 (.resHint 0 1) ∧ s.nv.part.enabled (Fin.ofNat 8 (nbits h 50 48)) = true ∧ s.dev.partUp 0 = true ∧
     (s.dev.pager 0).hints = [] ∧ 1 ≤ hintOp h ∧ hintOp h ≤ 4) ∧
    (Issues testUp 0 4 testUp ∧ (testUp.dev.core 0).mach = true) ∧
    (∀ op ∈ [1, 2, 3, 4], ∃ h u, (testHint op 0xC000000000000000).hintPage 0 op = (true, some h, u) ∧ fld h.pte 61 60 = 0) ∧
    (∀ h u, (testHint 2 0xC000000000000000).hintPage 0 2 = (true, some h, u) → u.unmovable h.at' = false ∧ u.dev.mayMove 0 = true) ∧
    testUp.mayRead .fn0 (.resPstat 7) := by
  unfold State.mayWrite State.mayRead
  refine ⟨by decide +kernel, by decide +kernel, by decide +kernel, ⟨issues_of (by decide +kernel), by decide +kernel⟩, ?_, ?_,
    by decide +kernel⟩
  · intro op h
    have key : ∀ op ∈ [1, 2, 3, 4], (((testHint op 0xC000000000000000).hintPage 0 op).2.1.map fun h => fld h.pte 61 60) = some 0 ∧
      ((testHint op 0xC000000000000000).hintPage 0 op).1 = true := by decide +kernel
    obtain ⟨k1, k2⟩ := key op h
    rcases e : (testHint op 0xC000000000000000).hintPage 0 op with ⟨b, o, u⟩
    rw [e] at k1 k2
    rcases o with _ | x
    · cases k1
    · cases k2; exact ⟨x, u, rfl, by simpa using k1⟩
  · intro h u e
    have key : (fun r : Bool × Option HintPage × State => r.2.1.any fun h => r.2.2.unmovable h.at' == false && r.2.2.dev.mayMove 0)
      ((testHint 2 0xC000000000000000).hintPage 0 2) = true := by decide +kernel
    rw [e] at key
    simpa using key

/-- Channel 3 of core 0 in a phase, running a descriptor. -/
def testDma (ph : DmaPhase) (desc : List Word) (moved : Bool) (pend : Option Nat) : State :=
  testCore fun k => k.modChan 3 fun x => { x with phase := ph, desc := desc, moved := moved, pend := pend }

theorem witness_DmaControlCompletes :
    (Issues testUp 0 4 testUp ∧ ((testUp.dev.core 0).chan 3).phase = .idle) ∧
    (let s := testDma .running [] false none
     Issues s 0 4 s ∧ ((s.dev.core 0).chan 3).phase ≠ .idle ∧ ((s.dev.core 0).chan 3).pend = none) ∧
    (let s := testDma .running [] false (some 65535)
     Issues s 0 4 s ∧ ((s.dev.core 0).chan 3).phase ≠ .idle ∧ ((s.dev.core 0).chan 3).pend.isSome = true) ∧
    (let s := testDma .halted [] false none
     Issues s 0 4 s ∧ ((s.dev.core 0).chan 3).phase = .halted ∧ ((s.dev.core 0).chan 3).pend = none) ∧
    (let s := testDma .halted [] false (some 7)
     Issues s 0 4 s ∧ ((s.dev.core 0).chan 3).phase = .halted ∧ ((s.dev.core 0).chan 3).pend = some 7) ∧
    (∀ l : List Word, l = List.replicate 8 0 ∨ l = [0, 0, 0, 0, 0, 0x20000, 0, 0] →
      let s := testDma .running l true none
      let y := (s.dev.core 0).chan 3
      s.coreUp 0 = true ∧ y.phase = .running ∧ y.moved = true ∧ s.dev.chanRemotes 0 3 = false ∧ dmaSig y.desc = none ∧ y.pend = none ∧
      dmaLast y.desc = decide (l ≠ List.replicate 8 0)) ∧
    (∀ w : Word, w = 0 ∨ w = 0xF000000000000000 →
      let s := (testDma .begin [] false none).onDev fun d => d.modCore 0 fun k =>
        { k with sram := k.sram.poke 0 (leBytes 8 w.toNat ++ List.replicate 56 0) }
      let x := (s.dev.core 0).chan 3
      let r := s.dev.sramRead s.now 0 (64 * x.cur) 64 .none
      let l := natWords 8 (ofLe r.1.bytes)
      s.coreUp 0 = true ∧ x.phase = .begin ∧ s.dev.chanRemotes 0 3 = false ∧ 64 * x.cur + 64 ≤ (s.dev.core 0).scratch ∧ r.1.bad = [] ∧
      (w = 0 → s.dev.dmaCheck 0 l = none ∧ dmaSig l = none) ∧ (w ≠ 0 → s.dev.dmaCheck 0 l = some 1)) := by
  refine ⟨⟨issues_of (by decide +kernel), by decide +kernel⟩, ⟨issues_of (by decide +kernel), by decide +kernel⟩,
    ⟨issues_of (by decide +kernel), by decide +kernel⟩, ⟨issues_of (by decide +kernel), by decide +kernel⟩,
    ⟨issues_of (by decide +kernel), by decide +kernel⟩, fun l h => ?_, fun w h => ?_⟩ <;>
    rcases h with rfl | rfl <;> decide +kernel

theorem witness_DmaTransfersComplete :
    let l : List Word := [0x40000000000000FF, 0, 0xFFFFFFFC00000, 4, 0, 0, 0, 0]
    let s := testDma .running l false none
    let srcs := (dmaSrcs l).flatMap linePieces
    let r := s.dmaResolve 0 3 l
    let rd := State.dmaReads 0 3 [] (dmaSfar l) srcs r.2.2
    s.coreUp 0 = true ∧ s.dev.coreClosed 0 = false ∧ ((s.dev.core 0).chan 3).phase = .running ∧ ((s.dev.core 0).chan 3).moved = false ∧
    dmaMode l = (4 : Fin 6).val ∧ r.1 = some [] ∧ srcs = [] ∧ r.2.2.dev.calm = true ∧ r.2.2.dev.chanRemotes 0 3 = false ∧
    rd.1 = [] ∧ rd.2.1 = [] ∧ rd.2.2.1 = [] ∧ rd.2.2.2.dmaContribution l [] rd.1 = none ∧
    (State.dmaWrites 0 3 l [] (fun _ => true) 0 ((dmaData l rd.1).flatMap fun e => (rd.2.2.2.dmaOut l [] e).map (·.2)) rd.2.2.2).1 = [] := by
  decide +kernel

theorem witness_DmaDataArranged :
    dmaMode [0, 0, 0, 0, 0, 0, 0, 0] = 0 ∧ dmaMode [0x5000000000000000, 0, 0, 0, 0, 0, 0, 0] = 5 ∧
    (let l : List Word := [0x3000000200000003, 0, 0, 0, 0, 0, 0, 0]
     dmaIsTr l = true ∧ (List.replicate 24 (0 : Byte)).length = dmaRows l * dmaCols l * dmaElem l) ∧
    (let l : List Word := [0x4000000000000000, 0, 0, 8, 0, 0, 0, 0]
     dmaMode l = 4 ∧ dmaLen l % 4 = 0 ∧ dmaLen l = 8) := by decide

theorem witness_SliceRequestsComplete :
    (let q : Req := { core := 0, op := .read, va := 0, addr := 0, size := 8 }
     let s := testReq .read .mesh
     s.dev.reqs.get none 0 = some q ∧ s.dev.chanServes 0 3 = true ∧ (s.dev.slice 0 3).attempt = 0 ∧ q.st = .mesh ∧ q.aim = .none ∧
     s.behind 0 q = false ∧ q.seq = 0 ∧ s.place q.addr = .mem 0 3 true ∧ s.dev.calm = true ∧
     s.dev.inSlice (q.addr / 128) = false) ∧
    (let q : Req := { core := 0, op := .read, va := 0, addr := 0, size := 8, st := .dram }
     let s := testWords 0 [1, 2, 3, 4] (testReq .read .dram)
     s.dev.reqs.get none 0 = some q ∧ s.dev.lineWaits q = false ∧ s.place q.addr = .mem 0 3 true ∧ s.dev.reissues 0 3 = [] ∧
     ((s.memRead q.addr q.size).1.map fun r => r.bad) = some []) ∧
    (let q : Req := { core := 0, op := .write, va := 0, addr := 0, size := 8, st := .dram }
     let s := testReq .write .dram
     s.dev.reqs.get none 0 = some q ∧ s.dev.lineWaits q = false ∧ (s.memWrite q.addr (leBytes q.size q.data)).1 = true) ∧
    (let q : Req := { core := 0, op := .amo 0, va := 0, addr := 0, size := 8, st := .adder }
     let s := testWords 0 [1, 2, 3, 4] (testReq (.amo 0) .adder)
     s.dev.reqs.get none 0 = some q ∧ s.dev.lineWaits q = false ∧ s.roConflict q.addr q.size = false ∧
     (s.adder q.addr 0 14 false false (leBytes q.size q.data)).1 = .done (leBytes 8 1) false false) ∧
    ((testUp.onDev fun d => d.modSlice 7 31 fun x => { x with wb := [5] }).dev.slice 7 31).wb = [5] := by decide +kernel

theorem witness_SliceConfigurationCompletes :
    (testUp.mayWrite .fn1 (.sliceCfg 7) ∧ fld 8 3 0 ≠ fld (testUp.dev.reg (.sliceCfg 7)) 3 0 ∧ testUp.dev.quiesced 7 = true ∧ fld 8 3 0 ≤ 8) ∧
    (let s := testCore fun k => { k with task := some { part := 0, queue := 0, asid := 0, group := 0, words := [] } }
     s.mayWrite .fn1 (.sliceCfg 0) ∧ fld 8 3 0 ≠ fld (s.dev.reg (.sliceCfg 0)) 3 0 ∧ s.dev.quiesced 0 = false) ∧
    testUp.mayWrite .fn1 (.sliceLive 7 389) ∧
    (let s := testUp.onDev fun d => (d.setReg (.sliceScrub 7) 1).setReg (.sliceLive 7 0) 1
     s.dev.partUp 7 = true ∧ bit (s.dev.reg (.sliceScrub 7)) 0 = true ∧ (31 : ChanIx).val ∉ (s.dev.lap 7).slicesDone ∧ s.sliceIdle 7 31 = true ∧
     (s.dev.scrubNext 7 31 (s.dev.slice 7 31).scrubAt).map (·.1) = some 0) ∧
    (let s := testUp.onDev fun d => ((d.setReg (.sliceScrub 7) 1).modSlice 7 31 fun x => { x with scrubAt := 512 * liveBlocks }).modLap 7
       fun x => { x with slicesDone := List.range 31 }
     s.dev.partUp 7 = true ∧ bit (s.dev.reg (.sliceScrub 7)) 0 = true ∧ (31 : ChanIx).val ∉ (s.dev.lap 7).slicesDone ∧ s.sliceIdle 7 31 = true ∧
     s.dev.scrubNext 7 31 (s.dev.slice 7 31).scrubAt = none ∧ (s.dev.lap 7).slicesDone.length = 31) ∧
    (let s : State := { testUp.onDev fun d => (d.setReg (.sliceScrub 7) 0x10001).modLap 7 fun x => { x with start := some 0 } with
       clk := { ps := 1000000001000 } }
     (s.dev.lap 7).start = some 0 ∧ (s.dev.lap 7).overdue = false ∧ fld (s.dev.reg (.sliceScrub 7)) 31 16 ≠ 0 ∧
     0 + 1000000000 * fld (s.dev.reg (.sliceScrub 7)) 31 16 < s.now) ∧
    (let s := testUp.onDev fun d => d.modSlice 7 31 fun x => { x with copying := some (7, 0) }
     (8 * (31 : ChanIx).val + 7 < 256) ∧ 7 < 8 ∧ (s.dev.slice 7 31).copying = some (7, 0) ∧ (s.dev.slice 7 31).cands = [] ∧
     s.dev.waits = []) := by unfold State.mayWrite; decide +kernel

/-- A channel in a retrain of an attempt, which has held a request since 1 ns or none; 1 ms and more have passed. -/
def testRetrain (n since : Nat) : State :=
  { testUp.onDev fun d => d.modSlice 7 31 fun x => { x with attempt := n, heldAt := since } with clk := { ps := 1000000000 } }

theorem witness_StackChannelsComplete :
    ((testUp.dev.slice 7 31).attempt = 0 ∧ testUp.mayWrite .fn1 (.stackChctl 7 31) ∧ testUp.dev.partUp 7 = true ∧
      (6 : Fin 7).val ≤ testUp.nv.part.layers ∧ bit (testUp.dev.reg (.stackChstat 7 31)) 7 = false) ∧
    (let s := testRetrain 1 0
     let x := s.dev.slice 7 31
     x.attempt ≠ 0 ∧ (if x.heldAt = 0 then 0 else s.now + 1 - x.heldAt) ≤ holdLimit ∧ ¬(0 ∈ x.refBad ∧ 1 ∈ x.refBad) ∧ s.dev.coupling = [] ∧
     s.dev.waits = []) ∧
    (let s := testRetrain 1 (1000001 - holdLimit)
     (s.dev.slice 7 31).heldAt ≠ 0 ∧ s.now + 1 - (s.dev.slice 7 31).heldAt = holdLimit) ∧
    (∀ e ∈ [(1, true), (2, true), (3, false)],
      let s := testRetrain e.1 (1000001 - holdLimit)
      let x := s.dev.slice 7 31
      x.attempt ≠ 0 ∧ x.heldAt ≠ 0 ∧ x.heldAt + holdLimit ≤ s.now + 1 ∧ decide (x.attempt < 3) = e.2) ∧
    bit 4 0 = false ∧ testUp.mayRead .fn1 (.stackChstat 7 31) ∧ (5 : Fin 6).val < testUp.nv.part.layers ∧
    (let s : State := { testUp with clk := { ps := 10 ^ 12 } }
     (s.dev.slice 7 31).attempt = 0 ∧ s.dev.partUp 7 = true ∧
     (s.dev.slice 7 31).dueAt.get 0 95 + s.dev.refreshInterval 7 5 ≤ s.now) ∧
    (let s := testUp.onDev fun d => d.modSlice 7 31 fun x => { x with deferral := [(95, 8)] }
     8 ≤ (s.dev.slice 7 31).deferral.get 0 95) := by
  unfold State.mayWrite State.mayRead; decide +kernel

/-- A coupling link in a condition. -/
def testLink (f : Coupling → Coupling) : State := testUp.onDev fun d => d.modLink 7 223 f

theorem witness_CouplingTestsComplete :
    crc12 500 0 0 = 0 % 4096 ∧ crc12 500 1 0 = 0x80F ∧ crc12 500 1 0 ≠ 0 % 4096 ∧ testUp.dev.partUp 7 = true ∧
    testUp.nv.part.hasLink 223 = true ∧ (15 : Fin 64).val < linkLanes (testUp.dev.link 7 223) 223 ∧ testUp.mayTest 7 223 = true ∧
    testUp.nextSlot 7 = 0 ∧ (testUp.onDev fun d => { d with testAt := [(7, 223)] }).nextSlot 7 = 223 ∧
    testUp.dev.refreshWaits 7 (linkChan 223) = false ∧
    ((testLink fun x => { x with suspect := true }).dev.link 7 223).suspect = true ∧
    ((testLink fun x => { x with suspect := true }).dev.link 7 223).onVias = false ∧
    (testLink fun x => { x with suspect := true }).mayTest 7 223 = true ∧ (testUp.dev.slice 7 (linkChan 223)).attempt = 0 ∧
    testUp.mayWrite .fn1 (.stackMctl 7) ∧
    (let w := storeTyped (.stackMctl 7) (testUp.dev.reg (.stackMctl 7)) (setBit 0 63 true)
     testUp.dev.sweepRefused 7 w = true) ∧
    (let s := testUp.onDev fun d => (d.setReg (.stackMrange 7) 0x0100000001000000).setReg (.stackChstat 7 0) 0x40
     let w := storeTyped (.stackMctl 7) (s.dev.reg (.stackMctl 7)) (setBit (fput 37 32 12) 63 true)
     s.mayWrite .fn1 (.stackMctl 7) ∧ s.dev.sweepRefused 7 w = false) ∧
    (let s := testUp.onDev fun d => { d.setReg (.stackMctl 7) 0x4000000000000000 with sweeps := [(7, 0x0100000001000000)] }
     bit (s.dev.reg (.stackMctl 7)) 62 = true ∧ sweepGrid (s.dev.sweeps.get 0 7) = some (1, 1) ∧
     [(0 : Word32)].length = 1 * 1) := by
  unfold State.mayWrite; decide +kernel

/-- No link of a device without coupling faults has a move pending. -/
theorem witness_no_moves (u : Nat) : ((testRetrain 1 0).dev.link 7 u).moves = false := rfl

/-- The Anchor of partition 0 enabled and in a state, one SGDM rule over 32 elements, one Relay entry in a state. -/
def testAnchor (st entry : Nat) (f : Anchor → Anchor) : State :=
  testWords 0x40000 [0xE00000000, fput 63 48 1 ||| fput 47 46 entry ||| 32, 0, 0]
    (testWords 0x50000 ((fput 55 42 1 ||| fput 41 28 32 ||| fput 23 12 1) :: List.replicate 11 0)
      (testUp.onDev fun d => (((((d.setReg (.sliceCfg 0) 0x100000001).setReg (.anchCtl 0) 0x1001).setReg (.anchRules 0) 0x50000).setReg
        (.anchRelay 0) 0x40000).setReg (.anchStat 0) (fput 63 61 st)).modAnchor 0 f))

theorem witness_AnchorRegistersComplete :
    (testUp.mayWrite .fn1 (.anchCtl 7) ∧ testUp.dev.anchState 7 = 0 ∧ bit (testUp.dev.reg (.anchStat 7)) 59 = false) ∧
    ((testAnchor 1 0 id).mayWrite .fn1 (.anchCtl 0) ∧ (testAnchor 1 0 id).dev.anchState 0 ≠ 0) ∧
    (Reg.ofAnch 7 6136 = some (.anchHp 7 15 15) ∧ testUp.mayWrite .fn1 (.anchHp 7 15 15) ∧
      (testAnchor 1 0 id).mayWrite .fn1 (.anchHp 0 15 15)) ∧
    (Reg.ofAnch 7 56 = some (.anchSeed 7) ∧ testUp.mayWrite .fn1 (.anchSeed 7)) ∧
    (testUp.mayWrite .fn1 .trainLs ∧ testUp.mayWrite .fn1 .trainStep ∧ (∀ q, testUp.dev.anchState q = 0) ∧
      (testAnchor 6 0 id).mayWrite .fn1 .trainLs) ∧
    (testUp.mayRead .fn1 (.anchStat 7) ∧ testUp.mayRead .fn1 (.anchClamp 7)) ∧
    (testUp.mayWrite .fn0 (.anchCmd 7) ∧ fld 0 63 60 = 0 ∧ 4 < fld 0x5000000000000000 63 60) ∧
    ((testAnchor 4 0 id).mayWrite .fn0 (.anchCmd 0) ∧ (testAnchor 4 0 id).dev.anchState 0 = 4 ∧
      (testAnchor 6 0 id).dev.anchState 0 = 6 ∧ bit ((testAnchor 4 0 id).dev.reg (.anchStat 0)) 59 = false) := by
  unfold State.mayWrite State.mayRead; decide +kernel

theorem witness_AnchorFoldCompletes :
    (let s := testAnchor 0 0 fun a => { a with trigs := 1 }
     s.mayWrite .fn0 (.anchCmd 0) ∧ (s.dev.anchor 0).trigs ≠ 0 ∧ s.dev.partUp 0 = true ∧ bit (s.dev.reg (.anchCtl 0)) 12 = true ∧
     s.dev.anchState 0 = 0 ∧ bit (s.dev.reg (.anchCtl 0)) 13 = false ∧ s.tablesOk 0 = true ∧ bit (s.dev.reg (.anchRules 0)) 0 = false) ∧
    ((testAnchor 1 0 id).dev.anchState 0 ≠ 0 ∧ bit ((testAnchor 1 0 id).dev.reg (.anchStat 0)) 59 = false ∧
      bit (testUp.dev.reg (.anchCtl 7)) 12 = false ∧ testUp.mayWrite .fn0 (.anchCmd 7)) ∧
    (let s := testAnchor 1 1 fun a => { a with armed := true }
     s.dev.anchState 0 = 1 ∧ (s.dev.anchor 0).armed = true ∧ (s.dev.anchor 0).ready = false ∧ s.dev.calm = true) ∧
    (let s := testAnchor 1 0 fun a => { a with armed := true }
     (s.relayOf 0xE00000000).map (fun e => (e.1, e.2.state)) = some (0, 0)) ∧
    (let s := testWords 0xE00000000 (List.replicate 4 0) (testAnchor 1 1 fun a => { a with armed := true, ready := true })
     (s.relayOf 0xE00000000).map (fun e => (e.1, e.2.state, e.2.fmt, e.2.got, e.2.expect * e.2.nelem, e.2.base)) =
       some (0, 1, 8, 0, 32, 0xE00000000) ∧
     (s.adder 0xE00000000 0 12 false false (widen 8 [0, 0])).1 = .done [0, 0, 0, 0] false false) ∧
    (let s := testAnchor 1 2 fun a => { a with armed := true, ready := true }
     (s.rule 0 (s.relayEntry 0 0).rule).isSome = true ∧ s.dev.anchState 0 = 1 ∧ s.dev.partClosed 0 = false ∧ s.dev.calm = true ∧
     (s.dev.anchor 0).ready = true ∧ 0 < s.dev.relayCount 0 ∧ (s.relayEntry 0 0).state = 2) ∧
    (let s := testAnchor 1 3 fun a => { a with armed := true, ready := true }
     (s.rule 0 0).map Rule.matrix = some false ∧ s.dev.anchState 0 = 1 ∧ s.dev.partClosed 0 = false ∧ s.dev.calm = true ∧ (s.dev.anchor 0).ready = true ∧
     0 < s.dev.ruleCount 0 ∧ 0 ∉ (s.dev.anchor 0).folded ∧ s.ruleReady 0 0 = true ∧
     (s.dev.anchor 0).folded.length + 1 = s.dev.ruleCount 0 ∧ fld (s.dev.reg (.anchCtl 0)) 5 0 ≠ 0) := by
  unfold State.mayWrite
  refine ⟨?_, ?_, ?_, ?_, ?_, ?_, ?_⟩ <;> decide +kernel

/-- The Anchors of partitions 0 and 7 in a state, with the outcome of a vote. -/
def testVote (st : Nat) (out : Option (Option Bool)) : State :=
  (testAnchor st 3 fun a => { a with outcome := out }).onDev fun d =>
    (d.setReg (.anchStat 7) (fput 63 61 st)).modAnchor 7 fun a => { a with outcome := out }

theorem witness_AnchorVoteCompletes :
    ((testVote 2 (some (some false))).dev.decidedAnchors (some false) [2, 5] = [0, 7] ∧
      fld ((testVote 2 (some (some false))).dev.reg .trainStep) 31 0 = ((testVote 2 (some (some false))).dev.anchor 0).step) ∧
    ((testVote 5 (some (some true))).dev.decidedAnchors (some true) [2, 5] = [0, 7] ∧
      ∀ q, bit ((testVote 5 (some (some true))).dev.reg (.anchStat q)) 59 = false) ∧
    ((testAnchor 1 3 fun a => { a with outcome := some none }).dev.decidedAnchors none [1, 2] = [0]) ∧
    ((testVote 2 none).dev.anchState 0 = 2 ∧ ((testVote 2 none).dev.anchor 0).outcome = none) ∧
    ((testVote 5 none).mayWrite .fn0 (.anchCmd 0) ∧ (testVote 5 none).dev.anchState 0 = 5 ∧
      fld 0 31 0 = ((testVote 5 none).dev.anchor 0).step ∧ fld 1 31 0 ≠ ((testVote 5 none).dev.anchor 0).step ∧
      bit ((testVote 5 none).dev.reg (.anchStat 0)) 59 = false ∧ (testVote 2 none).dev.anchState 0 ≠ 5) ∧
    ((testVote 3 none).dev.anchState 0 = 3 ∧ (testVote 3 none).dev.partClosed 0 = false ∧ (testVote 3 none).dev.calm = true ∧
      bit ((testVote 3 none).dev.reg (.anchStat 0)) 59 = false) := by unfold State.mayWrite; decide +kernel

theorem witness_TrainFollowsDecision :
    (testVote 2 (some (some false))).dev.decidedAnchors (some false) [2, 5] = 0 :: [7] ∧
    (testVote 2 (some (some true))).dev.decidedAnchors (some true) [2, 5] = 0 :: [7] ∧
    fld ((testVote 2 (some (some true))).dev.reg .trainStep) 31 0 = ((testVote 2 (some (some true))).dev.anchor 0).step := by
  decide +kernel

/-- A vote with GROW_N 1 and the CLEAN given. -/
def testGrow (clean : Nat) : State :=
  (testVote 2 (some (some false))).onDev fun d => d.modReg .trainLs fun w => setFld (setFld w 62 48 1) 47 32 clean

/-- The clauses of TRAIN's statement and of the vote's: counts with room, CLEAN one short of GROW_N and beyond it. -/
theorem witness_train_counts : ((testGrow 0).dev.decidedAnchors (some false) [2, 5] = 0 :: [7] ∧
    fld ((testGrow 0).dev.reg .trainStep) 31 0 = ((testGrow 0).dev.anchor 0).step ∧
    fld ((testGrow 0).dev.reg .trainLs) 62 48 ≠ 0 ∧
    fld ((testGrow 0).dev.reg .trainLs) 47 32 + 1 = fld ((testGrow 0).dev.reg .trainLs) 62 48 ∧
    fld ((testGrow 0).dev.reg .trainStep) 31 0 + 1 < 2 ^ 32 ∧ fld ((testGrow 0).dev.reg .trainStep) 63 32 + 1 < 2 ^ 32) ∧
    fld ((testVote 2 (some (some false))).dev.reg .trainLs) 62 48 = 0 ∧
    ((testGrow 3).dev.decidedAnchors (some false) [2, 5] = 0 :: [7] ∧
      fld ((testGrow 3).dev.reg .trainStep) 31 0 = ((testGrow 3).dev.anchor 0).step ∧
      fld ((testGrow 3).dev.reg .trainLs) 62 48 ≠ 0 ∧
      fld ((testGrow 3).dev.reg .trainLs) 62 48 ≤ fld ((testGrow 3).dev.reg .trainLs) 47 32) := by decide +kernel

/-- A device whose Hurdle 0 is as given. -/
def testHurdle (x : Hurdle) : State := testUp.onDev fun d => { d with hurdles := [(0, x)] }

/-- An armed counting Hurdle with TARGET 2. -/
def testCount : Hurdle := { cfg := fput 63 60 1 ||| fput 31 16 2, state := 1 }

theorem witness_CoreHurdleOperationsComplete :
    (let s := testHurdle testCount
     let x := s.dev.hurdle 0
     Issues s 0 4 s ∧ s.hurdleHome 0 = .bank ∧ x.mode = 1 ∧ x.state = 1 ∧ x.span = false ∧ s.dev.storesOut 0 = false ∧
     x.count + 1 < x.target ∧ x.target ≤ x.count + 2 ∧ x.rearm = false ∧ x.waitNow none = none ∧ s.dev.notes 0 < 4 ∧
     s.dev.coreHolds 0 < 11 ∧ (s.dev.core 0).mach = true) ∧
    (let s := testReq .write .mesh
     let t := s.onDev fun d => d.modCore 0 fun k => { k with stall := .none }
     Issues t 0 4 t ∧ t.hurdleHome 0 = .bank ∧ t.dev.storesOut 0 = true) ∧
    (let x := (testHurdle { testCount with state := 2 }).dev.hurdle 0
     x.mode ≠ 3 ∧ x.waitNow none = some 0 ∧ x.state ≠ 1 ∧ x.mode ≠ 0 ∧ x.span = false) ∧
    (let x := (testHurdle { cfg := fput 63 60 3 ||| fput 31 16 5, state := 1, count := 5 }).dev.hurdle 0
     x.mode = 3 ∧ x.state = 1 ∧ x.acqs = [] ∧ 5 ≤ x.count ∧ x.count < 6) ∧
    (let s := testCore fun k => { k with hrdCfgw := fput 63 60 1 ||| fput 31 16 2 }
     Issues s 0 4 s ∧ (s.dev.writeCfg s.now 0 (s.dev.core 0).hrdCfgw).isSome = true) ∧
    (let t : Task := { part := 0, queue := 0, asid := 0, group := 0, words := [] }
     let s := testCore fun k =>
       { k with sram := k.sram.poke 0 (List.replicate 8 0), mach := false, pc := 0xFFFFFFFC00000, regions := [{ base := 0xFFFFFFFC00000, length := 4096 }], task := some t }
     Issues s 0 4 (s.fetch 0 4).2 ∧ ((s.fetch 0 4).2.dev.core 0).mach = false) := by
  refine ⟨⟨issues_of (by decide +kernel), by decide +kernel⟩, ⟨issues_of (by decide +kernel), by decide +kernel⟩, by decide +kernel,
    by decide +kernel, ⟨issues_of (by decide +kernel), by decide +kernel⟩, ⟨issues_fetched (by decide +kernel), by decide +kernel⟩⟩

theorem witness_HurdleRegistersComplete :
    testUp.mayWrite .fn0 .hrdHop ∧ HOp.privileged .fail = true ∧ HOp.privileged .wait = false ∧ testUp.hurdleHome 65535 = .bank ∧
    HOp.ofCode (fld 0xA000000000000000 63 60) = none ∧
    testUp.mayWrite .fn1 (.hrdCfg 0) ∧ ((testHurdle testCount).dev.hurdle 0).state = 1 ∧
    (testUp.dev.hurdle 0).state ≠ 1 ∧ (testUp.dev.hurdle 0).holderCount = 0 ∧ testUp.dev.cfgAllowed 0 (fput 63 60 5 ||| fput 31 16 1) = true ∧
    testUp.dev.cfgAllowed 0 (fput 63 60 6) = false ∧
    testUp.mayWrite .fn1 (.span 255 1) ∧ testUp.dev.hurdles = [] ∧
    (let s := testHurdle { cfg := fput 63 60 2 ||| fput 58 58 1 ||| fput 55 48 255 }
     s.mayWrite .fn1 (.span 255 1) ∧ ∃ e ∈ s.dev.hurdles, e.2.span = true ∧ e.2.slot = 255) ∧
    Issues testUp 0 4 testUp := by
  unfold State.mayWrite
  exact ⟨by decide +kernel, by decide +kernel, by decide +kernel, by decide +kernel, by decide +kernel, by decide +kernel,
    by decide +kernel, by decide +kernel, by decide +kernel, by decide +kernel, by decide +kernel, by decide +kernel, by decide +kernel,
    by decide +kernel, issues_of (by decide +kernel)⟩

/-- A spanning Hurdle 0 in span entry 0, with a message of Hurdle kind for generation 0 received on port 1. -/
def testSpan (kind : Nat) (lo : Word) (x : Hurdle) : State :=
  (testRx { src := 9, dst := 1, op := 0x10, len := 0, data := [0, 0, 0, 0, BitVec.ofNat 8 kind, 0, 0, 0] } id).onDev fun d =>
    { (d.setReg (.span 0 0) lo).setReg (.span 0 1) 2 with hurdles := [(0, x)] }

/-- An armed spanning Hurdle with a flag. -/
def testTree : Hurdle := { cfg := fput 63 60 4 ||| fput 58 58 1, state := 1 }

theorem witness_SpanMessagesComplete :
    (let s := testSpan 0 (fput 46 40 64 ||| fput 27 16 1) testTree
     let m := ((s.dev.port 1).oldest 3).map (·.msg)
     let x := s.dev.hurdle 0
     m.map (·.op) = some 0x10 ∧ m.map (·.half 0) = some 0 ∧ m.map (·.byte 4) = some 0 ∧ s.hurdleHome 0 = .bank ∧ x.decided = none ∧
     x.span = true ∧ bit (s.dev.spanHi x.slot) (1 : PortIx).val = true ∧ x.state = 1 ∧ m.map (·.half 2) = some (x.gen + 0) ∧
     x.passed = false ∧ (∀ k ∈ x.kids, k.2 ≠ 9) ∧ x.kids.length < fld (s.dev.spanLo x.slot) 27 16) ∧
    ((testSpan 0 0 testCount).dev.hurdle 0).span = false ∧
    (let s := testSpan 1 (fput 46 40 64) testTree
     let x := s.dev.hurdle 0
     ((s.dev.port 1).oldest 3).map (·.msg.byte 4) = some 1 ∧ x.span = true ∧ x.sent = false ∧ portIx (fld (s.dev.spanLo x.slot) 46 40) = none) ∧
    (∀ kind ∈ [2, 3],
     let s := testSpan kind (fput 46 40 1) testTree
     let x := s.dev.hurdle 0
     ((s.dev.port 1).oldest 3).map (·.msg.byte 4) = some kind ∧ x.span = true ∧ fld (s.dev.spanLo x.slot) 46 40 = (1 : PortIx).val ∧ x.state = 1 ∧
     ((s.dev.port 1).oldest 3).map (·.msg.half 2) = some x.gen ∧ x.mode ≠ 1) := by
  refine ⟨?_, ?_, ?_, ?_⟩ <;> decide +kernel

/-- Core 0 with a message of zeros at the start of its scratchpad; its channel 31 bound and full or not. -/
def testMail (id : Nat) (full : Bool) : State :=
  (testCore fun k => { k with sram := k.sram.poke 0 (List.replicate 64 0) }).onDev fun d =>
    d.setChan 0 31 { bind := some id, full := full }

theorem witness_MailboxesComplete :
    (let s := testMail (testUp.stampId 0) false
     let k := s.dev.core 0
     let v : Word := fput 28 24 31
     Issues s 0 4 s ∧ mbxSendBad v = false ∧ 64 * fld v 21 6 + 64 ≤ k.scratch ∧
     ((k.raceView s.dev.freeCtr).read wordGran (s.dev.freeCtr + k.raceUsed) (64 * fld v 21 6) 64).bad = [] ∧ bit v 47 = false ∧
     s.hasReceiver (fld v 43 32) = true ∧ s.dev.bindOf 0 31 = s.stampId 0 ∧ (s.dev.chan 0 31).full = false) ∧
    ((testMail (testUp.stampId 0) true).dev.bindOf 0 31 = (testMail (testUp.stampId 0) true).stampId 0 ∧
      ((testMail (testUp.stampId 0) true).dev.chan 0 31).full = true ∧ testUp.dev.bindOf 0 31 ≠ testUp.stampId 0) ∧
    ((fput 28 24 31 : Word) &&& 0xFFFFFFFFE0C0003F = 0 ∧ (testMail 0 true).mailbox 0 = 0) ∧
    (fld (fput 43 32 1023) 43 32 < 1024 ∧ bit (fput 43 32 1023) 47 = false ∧ bit (fput 43 32 1023) 23 = false) ∧
    (testUp.dev.hubUp = true ∧ testUp.dev.bindOf (0x3F8 + (0 : Fin 4).val) 0 = idHost testUp.dev.devId (0 : Fin 2).val ∧
      (testUp.dev.chan (0x3F8 + (0 : Fin 4).val) 0).full = false) ∧
    (testUp.dev.firmwareTakes 3 31 = true ∧ receives .firmware 3 = true ∧ receives .fn0 3 = false ∧
      ((testUp.onDev fun d => d.setChan 0x3FB 31 { full := true }).dev.chan (0x3F8 + 3) 31).full = true ∧
      (testReg .strtStatus 10).dev.ready = false) ∧
    (receives .fn1 7 = true ∧ ((testUp.onDev fun d => d.setChan 0x3FF 31 { full := true }).dev.chan (0x3F8 + 7) 31).full = true) ∧
    (testUp.mayWrite .fn1 (.mbxCh 1023 31) ∧ Origin.fn1 ≠ .fn0 ∧ (testUp.dev.chan 1023 31).full = false) ∧
    ((testMail 0 true).mayWrite .fn1 (.mbxCh 0 31) ∧ fld 0x100000000 63 32 ≠ (testMail 0 true).dev.bindOf 0 31) ∧
    testUp.dev.answers .fn0 (.mbxCh 1023 31) = true := by
  unfold State.mayWrite
  refine ⟨⟨issues_of (by decide +kernel), by decide +kernel⟩, ?_, ?_, ?_, ?_, ?_, ?_, ?_, ?_, ?_⟩ <;> decide +kernel

/-- Port 1 in a state. -/
def testPort (st : Nat) (f : Port → Port) : State :=
  testUp.onDev fun d => (d.setReg (.linkPstat 1) (fput 63 60 st ||| fput 47 32 0xFFFF)).modPort 1 f

/-- A read message of 32 bytes, sent through a port. -/
def testMsg (op : Nat) : Msg := { src := 9, dst := 1, op := op, tag := 7, data := List.replicate 32 0 }

theorem witness_LinkFlitsComplete :
    ((testPort 5 id).dev.portState 1 = 5 ∧ ((testPort 5 id).dev.port 1).replaysRow < 7 ∧ ((testPort 5 id).dev.port 1).resend = [] ∧
      ((testPort 5 id).dev.port 1).nextVc = none ∧ ((testPort 5 id).dev.port 1).txCtr < keyLimit ∧
      (Flit.parse ({} : Flit).clear).kind = .idle ∧ (Flit.parse ({} : Flit).clear).nak = false) ∧
    (let g : Flit := { kind := .header, trans := some (testMsg 1) }
     let f := Flit.parse g.clear
     let s := testPort 5 fun p => { p with ackRx := 4095 }
     let p := s.dev.port 1
     f.kind = .header ∧ f.trans.isSome = true ∧ f.lastf = false ∧ f.nak = false ∧ f.seq = (p.ackRx + 1) % 4096 ∧
     p.open'.get none f.vc = none ∧ s.dev.rxHeld 1 f.vc < s.dev.rxSize 1 f.vc ∧ p.replaysRow < 8) ∧
    (let p := (testPort 5 fun p => { p with resend := [{ seq := 3 }] }).dev.port 1
     p.resend = [{ seq := 3 }] ∧ p.unpaid.contains 3 = false ∧ p.txCtr < keyLimit) ∧
    (let p := (testPort 5 fun p => { p with resend := [{ seq := 3 }], unpaid := [3], batons := [(0, 1)] }).dev.port 1
     p.unpaid.contains 3 = true ∧ 0 < p.batons.get 0 0) ∧
    (((testPort 5 id).dev.port 1).updating = false ∧ ((testPort 5 id).dev.port 1).oldest 3 = none ∧
      ((testPort 5 fun p => { p with updating := true }).dev.port 1).updating = true) ∧
    ((((testRx { src := 9, dst := 1, op := 0x12, data := [4] } id).dev.port 1).oldest 3).map fun m => (m.msg.op, m.msg.byte 0)) =
      some (0x12, 4) ∧
    (let x : TxMsg := { vc := 0, src := 8, msg := testMsg 1, flits := [{ kind := .header, lastf := true }] }
     let p := (testPort 5 fun p => { p with txq := [x], batons := [(0, 1)] }).dev.port 1
     p.resend = [] ∧ p.nextVc = some 0 ∧ p.nextTx 0 = some 0 ∧ p.txq[0]? = some x ∧ x.flits = { kind := .header, lastf := true } :: [] ∧
     x.src < 16) ∧
    (let p := (testPort 5 fun p => { p with replay := [{ seq := 3 }], replaysRow := 7 }).dev.port 1
     p.replay ≠ [] ∧ 7 ≤ p.replaysRow) ∧
    (let x : TxMsg := { vc := 2, src := 8, msg := testMsg 1, flits := [{}] }
     ((testPort 5 fun p => { p with txq := [x] }).dev.port 1).starved (2 : Fin 4).val = true) ∧
    (((testPort 5 fun p => { p with await := true }).dev.port 1).await = true) ∧
    (let s := (testRx { src := 9, dst := 1, op := 0x14, data := [1, 0] } id).onDev fun d => d.setChan 0 0
       { bind := some 0x10009000, full := true }
     ((s.dev.port 1).oldest 3).map (·.msg.op) = some 0x14 ∧ (s.dev.chans.get {} 0).full = true ∧ (s.dev.chans.get {} 0).bind = some 0x10009000 ∧
     nbits 0x10009000 31 28 = 1 ∧ idDevice 0x10009000 = 9 ∧ Msg.byte { src := 9, dst := 1, op := 0x14, data := [1, 0] } 0 = 1) := by
  refine ⟨?_, ?_, ?_, ?_, ?_, ?_, ?_, ?_, ?_, ?_, ?_⟩ <;> decide +kernel

/-- A public key and a signature of the empty message that it verifies: r is the digest divided by 4, a point R of the curve has it as
its x, s is r, and the key is R − 4 G. -/
def testKey : List Byte :=
  beBytes 48 0xcdbccf13ccf5fb909e739d65ea65d8d9d13303659633fc4273a77b839ef89c3dd9201fb25cbda82c0b941e9a32bcc210 ++
    beBytes 48 0xb689d6808008568e95efa34512ba63143989ec170c5785a3af2b40be0b15851614f91735ac4cabff18a0f7836c9f7d28

@[inherit_doc testKey]
def testSig : List Byte :=
  beBytes 48 0xce2c1829d46b258e13364c9fac6c78da887f6dc4452f81d0a88dac1150271ade0be741f5b060571b26f7c7cc6bba0d6d ++
    beBytes 48 0xce2c1829d46b258e13364c9fac6c78da887f6dc4452f81d0a88dac1150271ade0be741f5b060571b26f7c7cc6bba0d6d

/-- The certificate of a Partner with the key above, signed by a trust anchor with the same key. -/
def testCert : Certificate := { subject := 9, serial := 5, key := testKey, signed := [], sig := testSig }

/-- Port 1 at the VERIFY of a Partner whose certificate is the one above, with the trust anchor in slot 1; the Partner's share of the
secret is the base point. -/
def testVerify : State :=
  let hs : Handshake := { secret := 1, key := curveG.bytes, cert := { certs := [testCert], anchor := 1 } }
  { testPort 4 fun p => { p with holdsTurn := true, auth := .cert, serial := 9, hs := hs } with
    nv := { testUp.nv with vault := { anchors := [testCert] } } }

set_option maxRecDepth 100000 in
theorem witness_signature : ecdsaOk testKey [] testSig = true := by decide +kernel

set_option maxRecDepth 100000 in
theorem witness_LinkAuthVerify :
    testVerify.dev.authAt 1 .cert = true ∧ testVerify.tooLate 1 35 = false ∧
    (let p := testVerify.dev.port 1
     (ecdhSecret p.hs.secret p.hs.key).isSome = true ∧ testVerify.nv.chainOk p.serial p.hs.cert = true ∧
     p.hs.cert.certs = [testCert] ∧ p.hs.heard = [] ∧ (p.hs.cert.certs.head?.any fun c => ecdsaOk c.key p.hs.heard testSig) = true) := by
  have hc : (testVerify.dev.port 1).hs.cert.certs = [testCert] := rfl
  have hh : (testVerify.dev.port 1).hs.heard = [] := rfl
  refine ⟨by decide +kernel, by decide +kernel, by decide +kernel, ?_, hc, hh, ?_⟩
  · have h : testVerify.nv.chainOk 9 { certs := [testCert], anchor := 1 } = ecdsaOk testKey [] testSig := by
      simp [Nv.chainOk, Vault.issuers, Vault.anchor, testVerify, testCert]
    exact h.trans witness_signature
  · rw [hc, hh]
    simp only [List.head?_cons, Option.any_some]
    exact witness_signature

/-- No signature, no chain: the VERIFY that fails. -/
theorem witness_LinkAuthFails : testUp.nv.chainOk 0 { certs := [], anchor := 0 } = false := by decide +kernel

theorem witness_LinkTrainingCompletes :
    (testPort 1 fun p => { p with turn := some 0 }).dev.nextTurn 1 = true ∧
    (((testPort 3 fun p => { p with holdsTurn := true }).dev.port 1).holdsTurn = true ∧
      ((testPort 3 fun p => { p with holdsTurn := true }).dev.port 1).auth = .none ∧
      ((testPort 3 fun p => { p with holdsTurn := true }).dev.port 1).fails < 2) ∧
    (((testPort 6 fun p => { p with holdsTurn := true }).dev.port 1).holdsTurn = true ∧
      ((testPort 6 fun p => { p with holdsTurn := true }).dev.port 1).auth = .none ∧
      (testPort 6 fun p => { p with holdsTurn := true }).dev.portState 1 = 6 ∧
      (testPort 6 fun p => { p with holdsTurn := true, auth := .finished, known := true }).dev.authAt 1 .finished = true) ∧
    (((testPort 2 id).dev.port 1).turn = none ∧ (testPort 2 id).dev.portState 1 = 2 ∧ (testPort 7 id).dev.portState 1 = 7 ∧
      ((testPort 7 fun p => { p with downOk := true }).dev.port 1).downOk = true) ∧
    (∀ a ∈ [AuthStep.none, .hello, .cert, .verify, .finished],
      let s := testPort 4 fun p => { p with holdsTurn := true, auth := a }
      s.dev.authAt 1 a = true ∧ s.tooLate 1 35 = false ∧ s.tooLate 1 38 = false ∧ s.tooLate 1 40 = false) ∧
    (let s := testPort 3 fun p => { p with holdsTurn := true, auth := .hello, authFails := [0, 0] }
     s.dev.authAt 1 .hello = true ∧
     2 ≤ ((s.dev.port 1).authFails.filter fun f => decide (s.now < f + 600000000000)).length) ∧
    (((testPort 4 fun p => { p with known := true }).dev.port 1).known = true ∧ (testPort 4 id).dev.reg (.linkPeer 1) = 0) ∧
    (2 ≤ ((testPort 3 fun p => { p with holdsTurn := true, fails := 2 }).dev.port 1).fails) ∧
    ((testPort 7 fun p => { p with looping := true }).dev.port 1).looping = true ∧
    ((testReg (.linkPstat 1) 0x5800000000000000).dev.portState 1 = 5 ∧
      (testReg (.linkPstat 1) 0x5800000000000000).dev.leads 1 = true) := by
  refine ⟨?_, ?_, ?_, ?_, ?_, ?_, ?_, ?_, ?_, ?_, ?_⟩ <;> decide +kernel

theorem witness_LinkCommandsComplete :
    (testUp.mayWrite .fn1 (.linkPcmd 1) ∧ (testPort 6 id).dev.portState 1 = 6 ∧ (testPort 5 id).dev.portState 1 = 5 ∧
      (testPort 5 id).dev.leads 1 = false ∧ (testReg (.linkPstat 1) 0x5800000000000000).dev.leads 1 = true ∧
      (testPort 8 id).dev.portState 1 = 8 ∧ (testPort 7 id).dev.portState 1 = 7 ∧ testUp.dev.portState 1 = 0 ∧
      ((testPort 5 id).dev.port 1).calib = false ∧ ((testPort 5 id).dev.port 1).swapOut = false ∧
      ((testPort 5 fun p => { p with swapOut := true }).dev.port 1).swapOut = true ∧ fld 0 63 60 = 0 ∧
      5 ≤ fld 0x5000000000000000 63 60) ∧
    (∀ sub : Nat, sub ∈ [1, 2, 3, 4] →
      let m : Msg := { src := 9, dst := 1, op := 0x12, data := [BitVec.ofNat 8 sub] }
      (((testRx m id).dev.port 1).oldest 3).map (·.msg) = some m ∧ m.byte 0 = sub ∧
      ((testRx m fun p => { p with swapOut := true }).dev.port 1).swapOut = true) ∧
    (testUp.mayWrite .fn1 (.linkPcfg 63) ∧ bit 1 0 = true ∧ bit 0 0 = false ∧ testUp.dev.portState 63 ≠ 8) ∧
    (testUp.mayWrite .fn1 .linkGcfg ∧ fld 0 63 48 ≠ fld (testUp.dev.reg .linkGcfg) 63 48 ∧ testUp.dev.devidFree = true ∧
      (testPort 5 id).dev.devidFree = false ∧ (testPort 5 id).mayWrite .fn1 .linkGcfg) ∧
    (testUp.mayWrite .fn1 (.linkVcbuf 63) ∧ 64 ≤ fld 0x0B4000400040 47 32 ∧
      fld 0x0B4000400040 47 32 + fld 0x0B4000400040 31 16 + fld 0x0B4000400040 15 0 = 3008) ∧
    testUp.mayWrite .firmware (.linkWin 63 1) ∧
    (testUp.mayWrite .firmware (.linkSlot 4095) ∧ testUp.dev.slotUsers 4095 = ([], []) ∧
      (testUp.onDev fun d => { d with hostWait := [.slot 4095 0 [] []] }).dev.hostWait ≠ [] ∧ (0 : Fin 4096).val = 0 ∧
      (4095 : Fin 4096).val ≠ 0 ∧ testUp.dev.hostWait = []) ∧
    testUp.mayRead .fn0 (.linkPerr 63) ∧ testUp.mayRead .fn0 (.linkPfec 63) := by
  unfold State.mayWrite State.mayRead
  refine ⟨?_, ?_, ?_, ?_, ?_, ?_, ?_, ?_, ?_⟩ <;> decide +kernel

/-- A state whose port 1 has received a request, with window 0 open to every source for all of device memory's first 4 KiB. -/
def testWin (m : Msg) : State :=
  testWords 0 (List.replicate 32 5) <| (testRx m id).onDev fun d =>
    (d.setReg (.linkWin 0 0) 0xF800000000000000).setReg (.linkWin 0 1) 12

/-- A message of device 9 to this one. -/
def testFrom (op : Nat) : Msg := { src := 9, dst := 1, op := op, tag := 7, param := if op = 3 then 0xC0 else if op = 4 then 0x1D0 else 0, data := List.replicate 32 0 }

theorem witness_RemoteRequestsBarred :
    ∀ e ∈ [(1, 62, 32), (2, 61, 32), (3, 60, 32), (4, 59, 4)],
      let m := testFrom e.1
      let s := testRx m id
      ((s.dev.port 1).oldest (opVc m.op)).map (·.msg) = some m ∧ s.dev.calm = true ∧ m.op = e.1 ∧ s.dev.windows m.src e.2.1 m.addr e.2.2 = [] ∧
        s.addRange m = 32 := by decide +kernel

theorem witness_RemoteRequestsAdmitted :
    (∀ e ∈ [(1, 62, 32), (2, 61, 32), (3, 60, 32), (4, 59, 4)],
      let m := testFrom e.1
      let s := testWin m
      ((s.dev.port 1).oldest (opVc m.op)).map (·.msg) = some m ∧ s.dev.calm = true ∧ s.dev.windows m.src e.2.1 m.addr e.2.2 = [0]) ∧
    (let s := (testWin (testFrom 1)).onDev fun d => d.modPort 1 fun p => p.take (opVc 1)
     ((s.remapCheck 0).readSpan 0 32).1 = some (((List.replicate 4 (leBytes 8 5)).flatten), false)) ∧
    (let s := (testWin (testFrom 3)).onDev fun d => d.modPort 1 fun p => p.take (opVc 3)
     (s.addSpan (testFrom 3)).1 = some false) ∧
    (let s := (testWin (testFrom 4)).onDev fun d => d.modPort 1 fun p => p.take (opVc 4)
     (s.relayBlocks 0 4).1 = false ∧ (match (s.adder 0 1 13 false false (List.replicate 4 0)).1 with | .done _ _ _ => true | _ => false) = true) := by
  refine ⟨?_, ?_, ?_, ?_⟩ <;> decide +kernel

theorem witness_RemoteRequestsOther :
    (let m : Msg := { testFrom 5 with data := leBytes 8 0x10009000 }
     let s := testUp.onDev fun d => (d.setReg (.linkPstat 1) (fput 63 60 5)).setChan 0 0 { bind := some 0x10009000 }
     fld ((natWords 8 (ofLe m.data)).headD 0) 31 0 = 0x10009000 ∧ idDevice 0x10009000 = m.src ∧ s.hasReceiver 0 = true ∧
       s.dev.bindOf 0 0 = 0x10009000 ∧ (s.dev.chan 0 0).full = false) ∧
    (((testRx (testFrom 6) id).dev.port 1).oldest 0).map (·.msg.op) = some 6 ∧
    ((testRx (testFrom 8) id).dev.sent 7).isNone = true ∧
    (let q : Remote := { who := .core 0, msg := testFrom 1, via := some 1 }
     let s := (testReq .read .away).onDev fun d => { d with remotes := [(7, some q)] }
     s.dev.sent (7 % 65536) = some 7 ∧ s.dev.remote 7 = some q ∧ q.who = .core 0 ∧ (s.dev.reqs.get none 0).isSome = true ∧
     ∀ e ∈ s.dev.remotes, (e.2.all fun r => decide (r.via ≠ none)) = true) := by
  refine ⟨?_, ?_, ?_, ?_⟩ <;> decide +kernel

theorem witness_CanServicesComplete :
    testUp.dev.canUp = true ∧ testUp.dev.nmt ≠ .preop ∧ (testUp.onDev fun d => { d with nmt := .stopped }).dev.canUp = true ∧
    testUp.dev.ready = true ∧ testUp.dev.commVal 0x1017 0 ≠ 0 ∧
    (let s := testReg .strtStatus 3
     s.dev.canUp = true ∧ s.dev.ready = false ∧ s.dev.seqs = []) ∧
    (testUp.dev.nmt = .oper ∧ testUp.dev.commVal 0x1800 1 < 2 ^ 31 ∧ testUp.dev.commVal 0x1800 5 ≠ 0 ∧ testUp.dev.mapping 0x1A00 ≠ [] ∧
      testUp.dev.tpdoAt.get 0 0 = 0) ∧
    (let s := testUp.onDev fun d => d.setComm 0x1400 1 0x205
     s.dev.nmt = .oper ∧ s.dev.commVal 0x1400 1 < 2 ^ 31 ∧ ((s.dev.mapping 0x1600).map fun v => v % 256 / 8).sum ≤ ([] : List Byte).length) ∧
    (let s := testUp.onDev fun d => { d with emcy := [{ code := 0xFF00, bytes := [] }] }
     s.dev.canUp = true ∧ s.dev.emcy ≠ [] ∧ s.dev.nmt = .oper ∧ s.dev.nodeId ≠ 0 ∧ s.dev.emcyAt = 0) := by
  refine ⟨?_, ?_, ?_, ?_, ?_, ?_, ?_, ?_, ?_⟩ <;> decide +kernel

/-- A segmented transfer of CAN client 2. -/
def testTransfer (upload : Bool) (size : Nat) : State :=
  testUp.onDev fun d => { d with usdo := [{ client := 2, index := 0x1018, sub := 1, upload := upload, data := [1, 2], size := size }] }

theorem witness_UsdoTransfersComplete :
    (testUp.dev.usdoOn = true ∧ testUp.dev.usdoFull 2 = false ∧ (testUp.dictGet (.can 2) 0x5000 0).1 ≠ 0 ∧
      (testUp.dictGet (.can 2) 0x1018 1).1 = 0 ∧ (testUp.dictGet (.can 2) 0x1018 1).2.length ≤ 56) ∧
    (∀ e ∈ [(true, 100), (false, 4), (false, 2)],
      let s := testTransfer e.1 e.2
      s.dev.usdoOn = true ∧ s.dev.usdoFull 2 = false ∧ (s.dev.transfer 2).map (·.upload) = some e.1 ∧
        (s.dev.transfer 2).map (·.index) = some 0x1018 ∧ (s.dev.transfer 2).map (fun x => x.data.length) = some 2 ∧
        (s.dev.transfer 2).map (·.size) = some e.2) := by
  refine ⟨?_, ?_⟩ <;> decide +kernel

/-- The Host's request stands in answer channel 0 of the dictionary mailbox. -/
def testDict (op : Nat) : State :=
  testUp.onDev fun d => (d.setChan 0x3F8 16
    { full := true, words := [BitVec.ofNat 64 (idHost 0xFFFF 1), fput 63 56 op ||| fput 47 32 0x1018 ||| fput 55 48 1] }).setChan 0x3FE 0
    { bind := some (idFirmware 0xFFFF) }

theorem witness_DictionaryPathsComplete :
    (∀ op ∈ [1, 2, 3],
      let s := (testDict op)
      s.dev.firmwareTakes 0 16 = true ∧ (s.dev.chan 0x3F8 16).full = true ∧ (s.dev.chan 0x3FE 0).full = false ∧
        fld ((s.dev.chan 0x3F8 16).words.getD 0 0) 31 0 = idHost s.dev.devId 1 ∧
        fld ((s.dev.chan 0x3F8 16).words.getD 1 0) 63 56 = op ∧ s.dev.bindOf 0x3FE 0 = idFirmware s.dev.devId) ∧
    (let m : Msg := { src := 9, dst := 1, op := 0x13, data := [0x18, 0x10, 1, 0] }
     let s := testRx m id
     ((s.dev.port 1).oldest 3).map (·.msg) = some m ∧ m.byte 3 = 0 ∧ s.dev.portState 1 = 5 ∧
       ((if (s.dev.port 1).dictMs = s.now / 1000000 then (s.dev.port 1).dictN else 0) < 16) ∧
       16 ≤ ((testRx m fun p => { p with dictN := 16 }).dev.port 1).dictN ∧ s.now / 1000000 = 0) ∧
    (let m : Msg := { src := 9, dst := 1, op := 0x13, data := [0x18, 0x10, 1, 1] }
     (((testRx m id).dev.port 1).oldest 3).map (·.msg) = some m ∧ m.byte 3 = 1) := by
  refine ⟨?_, ?_, ?_⟩ <;> decide +kernel

theorem witness_DictRd : Issues testUp 0 4 testUp ∧ (1 : RegNum).val ≠ 0 := ⟨issues_of (by decide +kernel), by decide⟩

theorem witness_PersistenceCompletes :
    (∀ k, DictOrigin.host ≠ .can k) ∧ testUp.dev.dictUp = true ∧ testUp.nv.journal.full = false ∧ testUp.dev.usdoOn = true ∧
      testUp.dev.powered = true ∧ (testUp.onDev fun d => { d with dirty := [8] }).dev.dirty ≠ [] :=
  ⟨by simp, by decide +kernel, by decide +kernel, by decide +kernel, by decide +kernel, by simp [State.onDev]⟩

theorem witness_PacerCommandsComplete :
    testUp.dev.hubUp = true ∧ testUp.nv.part.enabled 0 = true ∧ 700 + 35 < testUp.dev.vset (clusterPart 0) ∧
    (0 : ClusterIx).val ∉ (testUp.dev.paceOf (clusterPart 0)).closed ∧ testUp.dev.vset (clusterPart 0) < 740 + 25 ∧
    testUp.dev.partUp 0 = true ∧ testUp.mayRead .fn0 .paceGstat ∧ testUp.mayRead .fn0 (.pacePstat 7) ∧
    bit (testUp.dev.reg (.paceMargin 0)) 47 = false := by unfold State.mayRead; decide +kernel

theorem witness_ThermalCommandsComplete :
    (let l := [Sense.temp 800, .temp 810, .temp 790]
     testUp.dev.hubUp = true ∧ testUp.nv.part.enabled 0 = true ∧
     (List.range 3).map (fun j => senseRead (-40) 150 (l.getD j .opened)) = [.temp 800, .temp 810, .temp 790]) ∧
    (List.range 4).map (fun j => senseRead (-20) 125 (([.temp 400, .temp 1, .temp 2, .temp 3] : List Sense).getD j .opened)) =
      [.temp 400, .temp 1, .temp 2, .temp 3] ∧
    (let hot (t d : Int) : State := testUp.onDev fun x => x.modPace 0 fun y => { y with tj := t, tdram := d, restTherm := 8 }
     let y (s : State) : Pace := s.dev.paceOf 0
     1600 < (y (hot 1601 0)).tj ∧ 1760 ≤ (y (hot 1760 0)).tj ∧
     (y (hot 1600 0)).tj ≤ 1600 ∧ testUp.dev.tTarget < (y (hot 1600 0)).tj ∧ (y (hot 1600 0)).tdram ≤ 1520 ∧
     (hot 1600 0).dev.vfloor 0 < (hot 1600 0).dev.vset 0 ∧
     (y (hot 0 0)).tj < testUp.dev.tTarget - 48 ∧ (y (hot 0 0)).tdram < testUp.dev.dramTarget - 48 ∧ 0 < (y (hot 0 0)).restTherm) := by
  refine ⟨?_, ?_, ?_⟩ <;> decide +kernel

theorem witness_ErrorRecordUpdates :
    (let s := testUp.onDev fun d => { d with updates := [(0, .vias 0 223)] }
     s.dev.dictUp = true ∧ s.dev.updates = [(0, .vias 0 223)] ∧ bit (s.nv.entry 0 (145 + 223)) 40 = false) ∧
    State.reset.genEven ∧ (match step State.reset with | .next _ => true | _ => false) = true := by
  unfold State.genEven
  refine ⟨?_, ?_, ?_⟩ <;> decide +kernel

theorem witness_VectorSumIsFixedTree : (List.replicate 128 (1 : Word32)).length = 128 := List.length_replicate

theorem witness_PcieResetsComplete : testUp.dev.powered = true := rfl

end
end

section
/-! The registers of BAR0 by offset (R413): every register is found at its own offset. -/

namespace Sys2Proof.Machine.Reg

/-- A register of an array is found by its index. -/
theorem ix_map_eq {α : Type} {n k : Nat} {f : Fin n → α} {i : Fin n} (h : k = i.val) : (ix n k).map f = some (f i) := by
  subst h
  simp [ix]

/-- A block of an array of blocks is found by its index. -/
theorem ix_bind_eq {α : Type} {n k : Nat} {f : Fin n → Option α} {i : Fin n} (h : k = i.val) : (ix n k).bind f = f i := by
  subst h
  simp [ix]

-- `ofOffset` asks for the blocks in rising order: those that end below an offset are passed over, down to the one it lies in

theorem ite_range_below {α : Type} {a b lo k : Nat} {x y : α} (hb : b ≤ lo) :
    (if a ≤ lo + k ∧ lo + k < b then x else y) = y :=
  if_neg (by omega)

theorem ite_eq_below {α : Type} {c lo k : Nat} {x y : α} (hc : c < lo) : (if lo + k = c then x else y) = y :=
  if_neg (by omega)

theorem ite_range_within {α : Type} {a b lo k : Nat} {x y : α} (hb : lo + k < b) (ha : a ≤ lo) :
    (if a ≤ lo + k ∧ lo + k < b then x else y) = x :=
  if_pos (by omega)

theorem ite_array_within {α : Type} {a b lo c n : Nat} {i : Fin n} {x y : α} (hb : lo + c * (n - 1) < b) (ha : a ≤ lo) :
    (if a ≤ lo + c * i.val ∧ lo + c * i.val < b then x else y) = x := by
  have hi : c * i.val ≤ c * (n - 1) := Nat.mul_le_mul_left c (by omega)
  exact ite_range_within (by omega) ha

-- what a block holds at its offset `k` is found where the block of its partition or port lies

theorem ofOffset_stack {r : Reg} (p : PartIx) (k : Nat) (hr : ofStack p k = some r)
    (ho : r.offset = 0x30000 + (0x8000 * p.val + k) := by simp only [offset]; omega)
    (hk : k < 0x8000 ∧ k % 8 = 0 := by omega) : ofOffset r.offset = some r := by
  rw [ho, ofOffset, if_neg (by omega)]
  simp (disch := omega) only [↓ite_range_below, ↓ite_range_within, ↓ite_eq_below]
  rw [ix_bind_eq (i := p) (by omega), show (0x30000 + (0x8000 * p.val + k) - 0x30000) % 0x8000 = k by omega, hr]

theorem ofOffset_slice {r : Reg} (p : PartIx) (k : Nat) (hr : ofSlice p k = some r)
    (ho : r.offset = 0x80000 + (0x10000 * p.val + k) := by simp only [offset]; omega)
    (hk : k < 0x10000 ∧ k % 8 = 0 := by omega) : ofOffset r.offset = some r := by
  rw [ho, ofOffset, if_neg (by omega)]
  simp (disch := omega) only [↓ite_range_below, ↓ite_range_within, ↓ite_eq_below]
  rw [ix_bind_eq (i := p) (by omega), show (0x80000 + (0x10000 * p.val + k)) % 0x10000 = k by omega, hr]

theorem ofOffset_res {r : Reg} (p : PartIx) (k : Nat) (hr : ofRes p k = some r)
    (ho : r.offset = 0x140000 + (0x10000 * p.val + k) := by simp only [offset]; omega)
    (hk : k < 0x10000 ∧ k % 8 = 0 := by omega) : ofOffset r.offset = some r := by
  rw [ho, ofOffset, if_neg (by omega)]
  simp (disch := omega) only [↓ite_range_below, ↓ite_range_within, ↓ite_eq_below]
  rw [ix_bind_eq (i := p) (by omega), show (0x140000 + (0x10000 * p.val + k)) % 0x10000 = k by omega, hr]

theorem ofOffset_anch {r : Reg} (p : PartIx) (k : Nat) (hr : ofAnch p k = some r)
    (ho : r.offset = 0x200000 + (0x10000 * p.val + k) := by simp only [offset]; omega)
    (hk : k < 0x10000 ∧ k % 8 = 0 := by omega) : ofOffset r.offset = some r := by
  rw [ho, ofOffset, if_neg (by omega)]
  simp (disch := omega) only [↓ite_range_below, ↓ite_range_within, ↓ite_eq_below]
  rw [ix_bind_eq (i := p) (by omega), show (0x200000 + (0x10000 * p.val + k)) % 0x10000 = k by omega, hr]

theorem ofOffset_port {r : Reg} (n : PortIx) (k : Nat) (hr : ofPort n k = r)
    (ho : r.offset = 0x500000 + (0x40 * n.val + k) := by simp only [offset]; omega)
    (hk : k < 0x40 ∧ k % 8 = 0 := by omega) : ofOffset r.offset = some r := by
  rw [ho, ofOffset, if_neg (by omega)]
  simp (disch := omega) only [↓ite_range_below, ↓ite_range_within, ↓ite_eq_below]
  rw [ix_map_eq (i := n) (by omega), show (0x500000 + (0x40 * n.val + k)) % 0x40 = k by omega, hr]

/-- Every register is found at its own offset. -/
theorem ofOffset_offset (r : Reg) : ofOffset r.offset = some r := by
  cases r with
  -- the registers that stand alone
  | timingNow | timingStatus | resInval | trainStep | trainLs | hrdHop | hrdHcfg | hrdHstat | linkGcfg | errSummary | errEmcyen
  | errIrqen | health | strtStatus | strtCmd | strtCstat | strtReadyNs | paceGcfg | paceGstat | thermCfg | thermHub | mapFarwin
  | hostStat | farCtl | vaultCmd | vaultStat | msixPba => rfl
  -- the arrays of registers
  | desc i | timingRate i | resRoot i | resGroup i | linkSlot i | strtPart i | pacePhrd i | thermRead i | thermPart i | b2map i
  | farPort i | farDec i | msixTable i | staging i =>
    rw [offset, ofOffset, if_neg (by omega)]
    simp (disch := decide) only [↓ite_range_below, ↓ite_array_within, ↓ite_eq_below]
    exact ix_map_eq (by omega)
  -- the arrays whose entries are arrays of words
  | mbxCh i w | span i w | linkRoute i w | linkWin i w =>
    rw [offset, ofOffset, if_neg (by omega)]
    simp (disch := omega) only [↓ite_range_below, ↓ite_range_within, ↓ite_eq_below]
    exact (ix_bind_eq (i := i) (by omega)).trans (ix_map_eq (by omega))
  -- the arrays whose entries are registers with names
  | errStat i | errAddr i | errId i | errTime i | pacePcfg i | pacePstat i | paceMargin i | paceSlack i =>
    rw [offset, ofOffset, if_neg (by omega)]
    simp (disch := decide) only [↓ite_range_below, ↓ite_array_within, ↓ite_eq_below]
    refine (ix_map_eq (i := i) (by omega)).trans ?_
    simp (disch := omega) only [if_neg, if_pos]
  | hrdCfg h | hrdState h =>
    rw [offset, ofOffset, if_neg (by omega)]
    simp (disch := omega) only [↓ite_range_below, ↓ite_range_within, ↓ite_eq_below]
    refine (ix_map_eq (i := h) (by omega)).trans ?_
    simp (disch := omega) only [if_neg, if_pos]
  -- STACK
  | stackStptr p => exact ofOffset_stack p 0x400 rfl
  | stackMctl p => exact ofOffset_stack p 0x800 rfl
  | stackMrange p => exact ofOffset_stack p 0x808 rfl
  | stackMstat p => exact ofOffset_stack p 0x810 rfl
  | stackStest p i =>
    refine ofOffset_stack p (8 * i.val) ?_
    simp (disch := omega) only [ofStack, if_neg, if_pos]
    exact ix_map_eq (by omega)
  | stackChctl p c =>
    refine ofOffset_stack p (0xC00 + 8 * c.val) ?_
    simp (disch := omega) only [ofStack, if_neg, if_pos]
    exact ix_map_eq (by omega)
  | stackChstat p c =>
    refine ofOffset_stack p (0xD00 + 8 * c.val) ?_
    simp (disch := omega) only [ofStack, if_neg, if_pos]
    exact ix_map_eq (by omega)
  | stackEye p i =>
    refine ofOffset_stack p (0x4000 + 8 * i.val) ?_
    simp (disch := omega) only [ofStack, if_neg, if_pos]
    exact ix_map_eq (by omega)
  -- SLICE
  | sliceCfg p => exact ofOffset_slice p 0 rfl
  | sliceWrr p => exact ofOffset_slice p 8 rfl
  | sliceRmctl p => exact ofOffset_slice p 0x10 rfl
  | sliceScrub p => exact ofOffset_slice p 0x18 rfl
  | sliceLap p => exact ofOffset_slice p 0x20 rfl
  | sliceRemap p i =>
    refine ofOffset_slice p (0x800 + 8 * i.val) ?_
    simp (disch := omega) only [ofSlice, if_neg, if_pos]
    exact ix_map_eq (by omega)
  | sliceLive p i =>
    refine ofOffset_slice p (0x1000 + 8 * i.val) ?_
    simp (disch := omega) only [ofSlice, if_neg, if_pos]
    exact ix_map_eq (by omega)
  -- RES
  | resCtl p => exact ofOffset_res p 0x600 rfl
  | resBuft p => exact ofOffset_res p 0x608 rfl
  | resPpool p => exact ofOffset_res p 0x640 rfl
  | resPstat p => exact ofOffset_res p 0x648 rfl
  | resQcfg p q =>
    refine ofOffset_res p (8 * q.val) ?_
    simp (disch := omega) only [ofRes, if_neg, if_pos]
    exact ix_map_eq (by omega)
  | resQstat p q =>
    refine ofOffset_res p (0x200 + 8 * q.val) ?_
    simp (disch := omega) only [ofRes, if_neg, if_pos]
    exact ix_map_eq (by omega)
  | resQfail p q =>
    refine ofOffset_res p (0x400 + 8 * q.val) ?_
    simp (disch := omega) only [ofRes, if_neg, if_pos]
    exact ix_map_eq (by omega)
  | resApool p i =>
    refine ofOffset_res p (0x620 + 8 * i.val) ?_
    simp (disch := omega) only [ofRes, if_neg, if_pos]
    exact ix_map_eq (by omega)
  | resSubmit p q w =>
    refine ofOffset_res p (0x1000 + 64 * q.val + 8 * w.val) ?_
    simp (disch := omega) only [ofRes, if_neg, if_pos]
    exact (ix_bind_eq (i := q) (by omega)).trans (ix_map_eq (by omega))
  | resHint p w =>
    refine ofOffset_res p (0x2000 + 8 * w.val) ?_
    simp (disch := omega) only [ofRes, if_neg, if_pos]
    exact ix_map_eq (by omega)
  -- ANCH
  | anchCtl p => exact ofOffset_anch p 0 rfl
  | anchCmd p => exact ofOffset_anch p 8 rfl
  | anchStat p => exact ofOffset_anch p 0x10 rfl
  | anchClamp p => exact ofOffset_anch p 0x18 rfl
  | anchRules p => exact ofOffset_anch p 0x20 rfl
  | anchRelay p => exact ofOffset_anch p 0x28 rfl
  | anchVote p => exact ofOffset_anch p 0x30 rfl
  | anchSeed p => exact ofOffset_anch p 0x38 rfl
  | anchHp p e w =>
    refine ofOffset_anch p (0x1000 + 0x80 * e.val + 8 * w.val) ?_
    simp (disch := omega) only [ofAnch, if_neg, if_pos]
    exact (ix_bind_eq (i := e) (by omega)).trans (ix_map_eq (by omega))
  -- LINK, the registers of a port
  | linkPcfg n => exact ofOffset_port n 0 rfl
  | linkPcmd n => exact ofOffset_port n 8 rfl
  | linkPstat n => exact ofOffset_port n 0x10 rfl
  | linkPeer n => exact ofOffset_port n 0x18 rfl
  | linkPerr n => exact ofOffset_port n 0x20 rfl
  | linkPfec n => exact ofOffset_port n 0x28 rfl
  | linkRcap n => exact ofOffset_port n 0x30 rfl
  | linkVcbuf n => exact ofOffset_port n 0x38 rfl

end Sys2Proof.Machine.Reg
end

section
/-! REGISTER_WRITE of a register whose write has no effect of its own: the word is stored by the type of its bits (R8). -/

namespace Sys2Proof.Machine

/-- A changed route marks the requests under way (R321); no register changes. -/
theorem Dev.markEgress_reg (d : Dev) (r : Reg) : d.markEgress.reg r = d.reg r := rfl

/-- A write without an effect of its own changes the volatile part of the device alone, and of the registers the one written, by
the type of its bits. -/
theorem State.regEffect_plain {r : Reg} (h : plainReg r = true) (s : State) (o : Origin) (v : Word) :
    VolatileOnly s (State.regEffect o r v s) ∧
      ∀ x, (State.regEffect o r v s).dev.reg x = (s.dev.setReg r (storeTyped r (s.dev.reg r) v)).reg x := by
  cases r with
  | stackMctl | stackChctl | sliceCfg | sliceRmctl | sliceLive | resRoot | resInval | resQcfg | resQstat | resCtl | resBuft | resApool
  | resPpool | resSubmit | resHint | trainStep | trainLs | anchCtl | anchCmd | anchRules | anchRelay | anchSeed | anchHp | hrdCfg
  | mbxCh | span | hrdHop | linkPcfg | linkPcmd | linkVcbuf | linkGcfg | linkSlot | errStat | strtCmd | pacePcfg | mapFarwin | farCtl
  | farDec | vaultCmd | msixTable => exact absurd h Bool.false_ne_true
  | linkRoute i half => exact ⟨VolatileOnly.onDev s _, fun x => Dev.markEgress_reg _ x⟩
  | _ => exact ⟨VolatileOnly.onDev s _, fun _ => rfl⟩

/-- Every write but that of STRT_CMD takes the common course. -/
theorem State.writeReg_eq_regWriteV {r : Reg} (h : r ≠ .strtCmd) (s : State) (o : Origin) (v : Word) :
    s.writeReg o r v = s.regWriteV o r v (State.regEffect o r v) := by
  unfold State.writeReg
  split
  · exact absurd rfl h
  · rfl

theorem exec_registerWrite_of_some {off : Nat} {r : Reg} (h : Reg.ofOffset off = some r) (o : Origin) (v : Word) (s : State) :
    exec (.registerWrite o off v) s = .next (s.writeReg o r v) := by
  show execRegisterWrite o off v s = _
  rw [execRegisterWrite, h]

theorem exec_registerWrite_of_none {off : Nat} (h : Reg.ofOffset off = none) (o : Origin) (v : Word) (s : State) :
    exec (.registerWrite o off v) s = .next s := by
  show execRegisterWrite o off v s = _
  rw [execRegisterWrite, h]

end Sys2Proof.Machine
end

section
/-! The statements of the scope, settled. -/

namespace Sys2Proof.Machine

/-- Settles O15, block by block of the register map. -/
theorem registerOffsetsRoundTrip : Obligations.RegisterOffsetsRoundTrip := Reg.ofOffset_offset

/-- Settles O16: the write is its effect, noted in the journal, and the effect is a store by type. -/
theorem registerWriteCompletes : Obligations.RegisterWriteCompletes := by
  intro s o off v
  refine ⟨fun r hr hp hm => ⟨_, exec_registerWrite_of_some hr o v s, ?_⟩, fun h => exec_registerWrite_of_none h o v s⟩
  have hcmd : r ≠ .strtCmd := by
    rintro rfl
    exact Bool.false_ne_true hp
  rw [State.writeReg_eq_regWriteV hcmd]
  obtain ⟨⟨hpend, hclk, hmem, -⟩, hstore⟩ := State.regEffect_plain hp s o v
  have hnoted := State.regWriteV_may hm v (State.regEffect o r v)
  obtain ⟨npend, nclk, nmem⟩ := hnoted.1
  refine ⟨?_, ⟨npend.trans hpend, nclk.trans hclk, nmem.trans hmem⟩, fun x hx => ?_⟩
  · rw [hnoted.reg, hstore, Dev.reg_setReg]
  · rw [hnoted.reg, hstore, Dev.reg_setReg_ne _ _ _ _ (hx r List.mem_cons_self)]

/-- Settles O59: with nothing stored, every table of the state reads its default. -/
theorem resetState : Obligations.ResetState := by
  have hmem : State.reset.memOk := ⟨Memory.wf_empty, fun _ h => absurd h List.not_mem_nil⟩
  exact ⟨rfl, rfl, rfl, fun _ => rfl, fun _ => rfl, rfl, hmem, rfl, rfl⟩

end Sys2Proof.Machine
end

section
/-! Device time (R50 … R57): what slewing takes off at an edge of the reference, TIMING_STATUS beside the error record, and the
TIME flit at the front of a port's management channel. -/

namespace Sys2Proof.Machine

-- device time between and at the edges of the reference

theorem Clock.tick_of_lt {c : Clock} (h : c.sub < 9) : c.tick = { c with sub := c.sub + 1 } := if_pos h

theorem Clock.tick_of_le {c : Clock} (h : 9 ≤ c.sub) : c.tick = c.edge := if_neg (by omega)

theorem clampI_bounds {lo hi : Int} (h : lo ≤ hi) (v : Int) : lo ≤ clampI lo hi v ∧ clampI lo hi v ≤ hi := by
  unfold clampI
  omega

/-- Time advances at an edge by 10 ns and the slewing of both corrections together; it never falls below zero. -/
theorem Clock.edge_ps (c : Clock) :
    (c.edge.ps : Int) = c.ps + 10000 + clampI (-5) 5 (clampI (-5) 5 c.refSlew + c.slew) := by
  have := clampI_bounds (lo := -5) (hi := 5) (by decide) (clampI (-5) 5 c.refSlew + c.slew)
  unfold Clock.edge
  dsimp only
  omega

theorem Clock.edge_ps_bounds (c : Clock) : c.ps + 9995 ≤ c.edge.ps ∧ c.edge.ps ≤ c.ps + 10005 := by
  have := c.edge_ps
  have := clampI_bounds (lo := -5) (hi := 5) (by decide) (clampI (-5) 5 c.refSlew + c.slew)
  omega

/-- What an edge adds to time beside its 10 ns it takes off the corrections still to be slewed away. -/
theorem Clock.edge_sum (c : Clock) :
    (c.edge.ps : Int) + c.edge.slew + c.edge.refSlew = c.ps + 10000 + c.slew + c.refSlew := by
  rw [c.edge_ps]
  unfold Clock.edge
  dsimp only
  omega

theorem Clock.edge_refSlew_natAbs (c : Clock) : c.edge.refSlew.natAbs = c.refSlew.natAbs - 5 := by
  unfold Clock.edge clampI
  dsimp only
  omega

-- TIMING_STATUS and the error record

theorem Reg.timingStatus_offset_ne_errRegs (src : Src) : ∀ x ∈ errRegs src, Reg.timingStatus.offset ≠ x.offset := by
  simp only [errRegs, List.mem_cons, List.not_mem_nil, or_false, forall_eq_or_imp, forall_eq, Reg.offset]
  omega

@[simp] theorem State.record_timingStatus (s : State) (src : Src) (a b c : Nat) :
    (s.record src a b c).dev.reg .timingStatus = s.dev.reg .timingStatus :=
  Dev.record_reg_out _ _ _ _ _ _ _ (Reg.timingStatus_offset_ne_errRegs src)

theorem State.record_regsKept (s : State) (src : Src) (a b c : Nat) : RegsKept s (s.record src a b c) (errRegs src) :=
  fun r hr => Dev.record_reg_out s.dev s.now src a b c r hr

/-- An event recorded after TIMING_STATUS alone has changed is an event recorded, and nothing else has changed. -/
theorem State.record_after_timingStatus {s u : State} (h : RegsKept s u [.timingStatus]) (src : Src) (a b c : Nat) :
    Recorded s (u.record src a b c) src ∧ RegsKept s (u.record src a b c) (.timingStatus :: errRegs src) := by
  have hstat : u.dev.reg (.errStat src.code) = s.dev.reg (.errStat src.code) :=
    h _ fun x hx => by
      rw [List.mem_singleton.1 hx]
      exact (Reg.timingStatus_offset_ne_errRegs src _ List.mem_cons_self).symm
  obtain ⟨hv, hcount⟩ := u.record_recorded src a b c
  refine ⟨⟨hv, hstat ▸ hcount⟩, RegsKept.trans (h.mono ?_) ((u.record_regsKept src a b c).mono ?_)⟩
  · exact fun x hx => List.mem_singleton.1 hx ▸ List.mem_cons_self
  · exact fun x hx => List.mem_cons_of_mem _ hx

theorem Dev.timeMaster_timingStatus (d : Dev) :
    d.timeMaster.reg .timingStatus = setBit (setFld (d.reg .timingStatus) 47 32 0) 4 true := Dev.reg_modReg ..

/-- A measurement sets SYNC and clears HOLDOVER. -/
theorem Dev.timeSynced_sync (d : Dev) (offset : Int) (hops : Nat) :
    bit ((d.timeSynced offset hops).reg .timingStatus) 4 = true ∧
      bit ((d.timeSynced offset hops).reg .timingStatus) 5 = false := by
  simp (disch := omega) only [Dev.timeSynced, Dev.reg_modReg, bit_setBit_ne, bit_setBit_self, and_self]

theorem Dev.msix_parent (d : Dev) (fn v : Nat) : (d.msix fn v).parent = d.parent := by
  unfold Dev.msix
  dsimp only
  split <;> rfl

theorem Dev.pushEmcy_parent (d : Dev) (e : Emcy) : (d.pushEmcy e).parent = d.parent := by
  unfold Dev.pushEmcy
  split <;> rfl

/-- Neither an event's registers nor its EMCY and interrupt touch the way to the time master. -/
theorem State.record_parent (s : State) (src : Src) (a b c : Nat) : (s.record src a b c).dev.parent = s.dev.parent := by
  unfold State.record Dev.record
  dsimp only [State.onDev_dev]
  split
  · rfl
  · split <;> split <;> simp only [Dev.msix_parent, Dev.pushEmcy_parent, Dev.setReg_parent]

-- the election and the correction

theorem State.elect_cases (s : State) (n : PortIx) (hops : Nat) (master : Word) :
    s.elect n hops master = s.onDev (fun d => { d with parent := some n, master := some master }) ∨
      s.elect n hops master = s :=
  (State.when_cases ..).imp And.right And.right

theorem State.elect_of_lower {s : State} {hops : Nat} {master : Word} (hh : hops < 0xFFFF)
    (hm : master.toNat < (s.dev.master.getD s.nv.part.serial).toNat) (n : PortIx) :
    s.elect n hops master = s.onDev fun d => { d with parent := some n, master := some master } := by
  rw [State.elect, decide_eq_true hh, decide_eq_true hm]
  rfl

/-- The first offset after a boot is stepped, a later one slewed (R55). -/
theorem State.timeCorrect_clk (s : State) (offset : Int) (hops : Nat) :
    (s.timeCorrect offset hops).clk = if s.dev.locked then { s.clk with slew := 1000 * offset }
      else { s.clk with ps := ((s.clk.ps : Int) + 1000 * offset).toNat, slew := 0 } := by
  unfold State.timeCorrect
  dsimp only
  split <;> rfl

/-- Only a step of time is journalled. -/
theorem State.timeCorrect_nv_of_locked {s : State} (h : s.dev.locked = true) (offset : Int) (hops : Nat) :
    (s.timeCorrect offset hops).nv = s.nv := by
  rw [State.timeCorrect, if_pos h]
  rfl

theorem State.timeCorrect_keeps (s : State) (offset : Int) (hops : Nat) :
    (s.timeCorrect offset hops).mem = s.mem ∧ (s.timeCorrect offset hops).dev.parent = s.dev.parent ∧
      (s.timeCorrect offset hops).dev.master = s.dev.master := by
  unfold State.timeCorrect
  dsimp only
  split <;> exact ⟨rfl, rfl, rfl⟩

theorem State.timeCorrect_dev_of_locked {s : State} (h : s.dev.locked = true) (offset : Int) (hops : Nat) :
    (s.timeCorrect offset hops).dev = s.dev.timeSynced offset hops := by
  rw [State.timeCorrect, if_pos h]
  rfl

theorem State.timeCorrect_dev_of_not_locked {s : State} (h : s.dev.locked = false) (offset : Int) (hops : Nat) :
    (s.timeCorrect offset hops).dev =
      ({ s.dev with locked := true, timeCopy := [] }.timeSynced offset hops).modReg .timingStatus fun w => setBit w 7 true := by
  rw [State.timeCorrect, if_neg (by rw [h]; decide)]
  rfl

-- the message at the front of a channel

theorem Port.oldestCame_of_oldest {p : Port} {vc : Nat} {m : RxMsg} (h : p.oldest vc = some m) : p.oldestCame vc = m.came := by
  rw [Port.oldestCame, h]
  rfl

theorem State.withMsg_of_oldest {s : State} {n : PortIx} {vc : Nat} {m : RxMsg} (h : (s.dev.port n).oldest vc = some m)
    {p : Msg → Bool} (hp : p m.msg = true) (f : Msg → State → State) :
    s.withMsg n vc p f = f m.msg (s.onDev fun d => d.modPort n fun x => x.take vc) := by
  rw [State.withMsg, h]
  exact if_pos hp

end Sys2Proof.Machine
end

section
/-! The commands of device time (R52 … R56, R43), each by the condition under which it has its effect. -/

namespace Sys2Proof.Machine

/-- The state REF_LOSS_SWITCH records its event in: time at most 10 ns further, on the fall-back oscillator (R52). -/
def State.onFallback (s : State) : State :=
  ({ s with clk := { s.clk with ps := s.clk.ps + s.dev.free.toNat % 10001 } } : State).onDev fun d =>
    d.spend.modReg .timingStatus fun w => setBit (setBit w 2 true) 3 true

theorem exec_refLossSwitch_of {s : State} (hp : s.dev.powered = true) (hf : bit (s.dev.reg .timingStatus) 3 = false) :
    exec .refLossSwitch s = .next (s.onFallback.record .refLost 0 0 (idHub s.onFallback.dev.devId)) := by
  show execRefLossSwitch s = _
  rw [execRefLossSwitch, hp, hf]
  rfl

theorem State.onFallback_regsKept (s : State) : RegsKept s s.onFallback [.timingStatus] :=
  fun r hr => Dev.reg_modReg_ne s.dev.spend _ r _ (hr _ List.mem_cons_self)

theorem State.onFallback_timingStatus (s : State) :
    s.onFallback.dev.reg .timingStatus = setBit (setBit (s.dev.reg .timingStatus) 2 true) 3 true := Dev.reg_modReg ..

theorem State.onFallback_ps (s : State) : s.clk.ps ≤ s.onFallback.clk.ps ∧ s.onFallback.clk.ps ≤ s.clk.ps + 10000 := by
  show s.clk.ps ≤ s.clk.ps + s.dev.free.toNat % 10001 ∧ s.clk.ps + s.dev.free.toNat % 10001 ≤ s.clk.ps + 10000
  omega

/-- The reference is back: the difference joins what is slewed away, FB_ACTIVE is clear (R53). -/
def State.onReference (s : State) (diff : Int) : State :=
  ({ s with clk := { s.clk with refSlew := s.clk.refSlew + 1000 * diff } } : State).onDev fun d =>
    d.modReg .timingStatus fun w => setBit w 3 false

theorem exec_refReturn_of {s : State} (hp : s.dev.powered = true) (hf : bit (s.dev.reg .timingStatus) 3 = true) (diff : Int) :
    exec (.refReturn diff) s = .next (s.onReference diff) := by
  show execRefReturn diff s = _
  rw [execRefReturn, hp, hf]
  rfl

theorem State.onReference_timingStatus (s : State) (diff : Int) :
    (s.onReference diff).dev.reg .timingStatus = setBit (s.dev.reg .timingStatus) 3 false := Dev.reg_modReg ..

theorem State.onReference_regsKept (s : State) (diff : Int) : RegsKept s (s.onReference diff) [.timingStatus] :=
  fun r hr => Dev.reg_modReg_ne s.dev _ r _ (hr _ List.mem_cons_self)

theorem exec_timeExchange_of_parent {s : State} {n : PortIx} (h : s.dev.parent = some n) :
    exec .timeExchange s = .next (s.onDev fun d => d.manage n 0x11 []) := by
  show execTimeExchange s = _
  rw [execTimeExchange, h]
  rfl

theorem exec_timeExchange_of_master {s : State} (h : s.dev.parent = none) (hu : s.dev.hubUp = true) :
    exec .timeExchange s = .next (s.onDev Dev.timeMaster) := by
  show execTimeExchange s = _
  rw [execTimeExchange, h, hu]
  rfl

/-- The state PARENT_LOST records its event in: frequency held, on the way the election names (R56). -/
def State.inHoldover (s : State) (path : Option (PortIx × Word)) : State :=
  ({ s with clk := { s.clk with slew := 0 } } : State).onDev fun d =>
    ({ d with parent := path.map Prod.fst, master := path.map Prod.snd }).modReg .timingStatus fun w =>
      setBit (setBit (setFld w 47 32 (if path.isNone then 0 else 0xFFFF)) 4 path.isNone) 5 true

theorem exec_parentLost_of {s : State} (h : s.dev.parent.isSome = true) (path : Option (PortIx × Word)) :
    exec (.parentLost path) s =
      .next ((s.inHoldover path).record .timeHoldover 0 0 (idHub (s.inHoldover path).dev.devId)) := by
  show execParentLost path s = _
  rw [execParentLost, h]
  rfl

theorem State.inHoldover_regsKept (s : State) (path : Option (PortIx × Word)) :
    RegsKept s (s.inHoldover path) [.timingStatus] :=
  fun r hr => Dev.reg_modReg_ne _ _ r _ (hr _ List.mem_cons_self)

theorem State.inHoldover_timingStatus (s : State) (path : Option (PortIx × Word)) :
    (s.inHoldover path).dev.reg .timingStatus =
      setBit (setBit (setFld (s.dev.reg .timingStatus) 47 32 (if path.isNone then 0 else 0xFFFF)) 4 path.isNone) 5 true :=
  Dev.reg_modReg ..

/-- T3 of a TIME flit (R300): when this device sent the flit answered, 0 where none is answered. -/
def RxMsg.timeT3 (m : RxMsg) : Nat := ofLe ((m.msg.data.drop 16).take 8)

/-- The offset a TIME flit from the parent measures: half the sum of both ways (R328, log entry 84). -/
def RxMsg.timeOffset (m : RxMsg) : Int :=
  (((ofLe ((m.msg.data.drop 8).take 8) : Int) - m.timeT3) + ((ofLe (m.msg.data.take 8) : Int) - m.came)) / 2

/-- The TIME flit is consumed and the election is made. -/
def State.timeTaken (s : State) (n : PortIx) (path : TimePath) : State :=
  (s.onDev fun d => d.modPort n fun x => x.take 3).elect n path.hops path.master

theorem exec_timeFlitReceive_of {s : State} {n : PortIx} {m : RxMsg} {path : TimePath} (hm : (s.dev.port n).oldest 3 = some m)
    (hop : m.msg.op = 0x11) (hp : (s.timeTaken n path).dev.parent = some n) :
    exec (.timeFlitReceive n path) s = .next (if m.timeT3 = 0 then s.timeTaken n path
      else (s.timeTaken n path).timeCorrect m.timeOffset (min path.hops 0xFFFF)) := by
  show execTimeFlitReceive n path s = _
  rw [execTimeFlitReceive, Port.oldestCame_of_oldest hm]
  dsimp only
  rw [State.withMsg_of_oldest (p := fun m => m.op == 0x11) hm (beq_iff_eq.2 hop)]
  exact congrArg Host.Outcome.next (if_pos hp)

theorem State.timeTaken_keeps (s : State) (n : PortIx) (path : TimePath) :
    (s.timeTaken n path).clk = s.clk ∧ (s.timeTaken n path).mem = s.mem ∧ (s.timeTaken n path).nv = s.nv ∧
      (s.timeTaken n path).dev.locked = s.dev.locked := by
  unfold State.timeTaken
  rcases State.elect_cases (s.onDev fun d => d.modPort n fun x => x.take 3) n path.hops path.master with h | h
  all_goals rw [h]; exact ⟨rfl, rfl, rfl, rfl⟩

theorem State.timeTaken_parent {s : State} {n : PortIx} (h : s.dev.parent = some n) (path : TimePath) :
    (s.timeTaken n path).dev.parent = some n := by
  unfold State.timeTaken
  rcases State.elect_cases (s.onDev fun d => d.modPort n fun x => x.take 3) n path.hops path.master with he | he
  · rw [he]
    rfl
  · rw [he]
    exact h

theorem State.timeTaken_of_lower {s : State} {path : TimePath} (hh : path.hops < 0xFFFF)
    (hm : path.master.toNat < (s.dev.master.getD s.nv.part.serial).toNat) (n : PortIx) :
    (s.timeTaken n path).dev.parent = some n ∧ (s.timeTaken n path).dev.master = some path.master := by
  rw [State.timeTaken, State.elect_of_lower (s := s.onDev fun d => d.modPort n fun x => x.take 3) hh hm]
  exact ⟨rfl, rfl⟩

end Sys2Proof.Machine
end

section
/-! The statements of device time, settled. -/

namespace Sys2Proof.Machine

/-- Settles O6: the command by its effect, the passing of time by what an edge of the reference does. -/
theorem referenceReturnSlews : Obligations.ReferenceReturnSlews := by
  refine ⟨fun s diff hp hf => ⟨_, exec_refReturn_of hp hf diff, ?_, fun i hi => ?_, rfl, rfl, rfl, rfl, rfl, rfl,
    s.onReference_regsKept diff⟩, fun c => ⟨Clock.tick_of_lt, fun h => ?_⟩⟩
  · rw [State.onReference_timingStatus, bit_setBit_self _ _ _ (by decide)]
  · rw [State.onReference_timingStatus, bit_setBit_ne _ _ (by decide) hi]
  · rw [Clock.tick_of_le h]
    exact ⟨rfl, c.edge_ps_bounds.1, c.edge_ps_bounds.2, c.edge_sum, c.edge_refSlew_natAbs⟩

theorem refLossSwitch_completes {s : State} (hp : s.dev.powered = true) (hf : bit (s.dev.reg .timingStatus) 3 = false) :
    Completes .refLossSwitch s fun t =>
      s.clk.ps ≤ t.clk.ps ∧ t.clk.ps ≤ s.clk.ps + 10000 ∧ bit (t.dev.reg .timingStatus) 2 = true ∧
      bit (t.dev.reg .timingStatus) 3 = true ∧ Recorded s t .refLost ∧ t.mem = s.mem ∧ t.nv = s.nv ∧
      RegsKept s t (.timingStatus :: errRegs .refLost) := by
  obtain ⟨hlo, hhi⟩ := s.onFallback_ps
  obtain ⟨hrec, hkept⟩ := State.record_after_timingStatus s.onFallback_regsKept .refLost 0 0 (idHub s.onFallback.dev.devId)
  refine ⟨_, exec_refLossSwitch_of hp hf, hlo, hhi, ?_, ?_, hrec, rfl, rfl, hkept⟩ <;>
    simp (disch := omega) only [State.record_timingStatus, State.onFallback_timingStatus, bit_setBit_ne, bit_setBit_self]

theorem timeExchange_completes_of_master {s : State} (h : s.dev.parent = none) (hu : s.dev.hubUp = true) :
    Completes .timeExchange s fun t => t.dev.parent = none ∧ fld (t.dev.reg .timingStatus) 47 32 = 0 ∧
      bit (t.dev.reg .timingStatus) 4 = true ∧ VolatileOnly s t ∧ RegsKept s t [.timingStatus] := by
  refine ⟨_, exec_timeExchange_of_master h hu, rfl, ?_, ?_, VolatileOnly.onDev .., fun r hr => ?_⟩
  · rw [State.onDev_dev, Dev.timeMaster_timingStatus, fld_setBit_out _ _ (by decide) (by decide),
      fld_setFld_self _ _ _ _ (by decide) (by decide), Nat.zero_mod]
  · rw [State.onDev_dev, Dev.timeMaster_timingStatus, bit_setBit_self _ _ _ (by decide)]
  · exact Dev.reg_modReg_ne _ _ r _ (hr _ List.mem_cons_self)

theorem parentLost_completes {s : State} (h : s.dev.parent.isSome = true) (path : Option (PortIx × Word)) :
    Completes (.parentLost path) s fun t => t.dev.parent = path.map Prod.fst ∧ t.clk = { s.clk with slew := 0 } ∧
      bit (t.dev.reg .timingStatus) 5 = true ∧ bit (t.dev.reg .timingStatus) 4 = path.isNone ∧ Recorded s t .timeHoldover ∧
      t.mem = s.mem ∧ t.nv = s.nv ∧ RegsKept s t (.timingStatus :: errRegs .timeHoldover) := by
  obtain ⟨hrec, hkept⟩ := State.record_after_timingStatus (s.inHoldover_regsKept path) .timeHoldover 0 0
    (idHub (s.inHoldover path).dev.devId)
  refine ⟨_, exec_parentLost_of h path, State.record_parent .., rfl, ?_, ?_, hrec, rfl, rfl, hkept⟩ <;>
    simp (disch := omega) only [State.record_timingStatus, State.inHoldover_timingStatus, bit_setBit_ne, bit_setBit_self]

theorem timingRateRead_completes {s : State} {o : Origin} {p : PartIx} (h : s.mayRead o (.timingRate p)) :
    Completes (.timingRateRead o p) s fun t =>
      t.dev.out = s.dev.out ++ [.read (originFn o) (Reg.timingRate p).offset (s.dev.reg (.timingRate p))] ∧
      t.dev.reg (.timingRate p) = ((s.dev.reg (.timingRate p) &&& ~~~(Reg.timingRate p).rc) |||
        ((Reg.timingRate p).reset &&& (Reg.timingRate p).rc)) ∧ VolatileOnly s t ∧ RegsKept s t [.timingRate p] :=
  ⟨_, congrArg Host.Outcome.next (State.readClear_may h _), rfl, (Dev.emit_reg ..).trans (Dev.reg_modReg ..),
    VolatileOnly.onDev .., fun r hr => (Dev.emit_reg ..).trans (Dev.reg_modReg_ne _ _ r _ (hr _ List.mem_cons_self))⟩

/-- The answer of the parent corrects time, with nothing but the flit and the election before it. -/
theorem exec_timeFlitReceive_of_parent {s : State} {n : PortIx} {m : RxMsg} (hm : (s.dev.port n).oldest 3 = some m)
    (hop : m.msg.op = 0x11) (hp : s.dev.parent = some n) (h3 : m.timeT3 ≠ 0) (path : TimePath) :
    exec (.timeFlitReceive n path) s =
      .next ((s.timeTaken n path).timeCorrect m.timeOffset (min path.hops 0xFFFF)) := by
  rw [exec_timeFlitReceive_of hm hop (State.timeTaken_parent hp path), if_neg h3]

theorem timeFlitReceive_slews {s : State} {n : PortIx} {m : RxMsg} (hm : (s.dev.port n).oldest 3 = some m)
    (hop : m.msg.op = 0x11) (hp : s.dev.parent = some n) (h3 : m.timeT3 ≠ 0) (hl : s.dev.locked = true) (path : TimePath) :
    Completes (.timeFlitReceive n path) s fun t => t.clk = { s.clk with slew := 1000 * m.timeOffset } ∧
      t.mem = s.mem ∧ t.nv = s.nv ∧ bit (t.dev.reg .timingStatus) 4 = true ∧ bit (t.dev.reg .timingStatus) 5 = false := by
  obtain ⟨kclk, kmem, knv, klocked⟩ := s.timeTaken_keeps n path
  have hl' : (s.timeTaken n path).dev.locked = true := klocked.trans hl
  refine ⟨_, exec_timeFlitReceive_of_parent hm hop hp h3 path, ?_, (State.timeCorrect_keeps ..).1.trans kmem,
    (State.timeCorrect_nv_of_locked hl' ..).trans knv, ?_⟩
  · rw [State.timeCorrect_clk, if_pos hl', kclk]
  · rw [State.timeCorrect_dev_of_locked hl']
    exact Dev.timeSynced_sync ..

theorem timeFlitReceive_steps {s : State} {n : PortIx} {m : RxMsg} (hm : (s.dev.port n).oldest 3 = some m)
    (hop : m.msg.op = 0x11) (hp : s.dev.parent = some n) (h3 : m.timeT3 ≠ 0) (hl : s.dev.locked = false) (path : TimePath) :
    Completes (.timeFlitReceive n path) s fun t =>
      t.clk = { s.clk with ps := ((s.clk.ps : Int) + 1000 * m.timeOffset).toNat, slew := 0 } ∧ t.mem = s.mem ∧
      t.dev.locked = true ∧ bit (t.dev.reg .timingStatus) 4 = true ∧ bit (t.dev.reg .timingStatus) 7 = true := by
  obtain ⟨kclk, kmem, -, klocked⟩ := s.timeTaken_keeps n path
  have hl' : (s.timeTaken n path).dev.locked = false := klocked.trans hl
  have hdev := State.timeCorrect_dev_of_not_locked hl' m.timeOffset (min path.hops 0xFFFF)
  refine ⟨_, exec_timeFlitReceive_of_parent hm hop hp h3 path, ?_, (State.timeCorrect_keeps ..).1.trans kmem, ?_, ?_, ?_⟩
  · rw [State.timeCorrect_clk, if_neg (by rw [hl']; decide), kclk]
  · rw [hdev]
    rfl
  · rw [hdev, Dev.reg_modReg, bit_setBit_ne _ _ (by decide) (by decide)]
    exact (Dev.timeSynced_sync ..).1
  · rw [hdev, Dev.reg_modReg, bit_setBit_self _ _ _ (by decide)]

/-- The election stands whether or not the flit measures an offset. -/
theorem timeFlitReceive_elects {s : State} {n : PortIx} {m : RxMsg} {path : TimePath}
    (hm : (s.dev.port n).oldest 3 = some m) (hop : m.msg.op = 0x11) (hh : path.hops < 0xFFFF)
    (hs : path.master.toNat < (s.dev.master.getD s.nv.part.serial).toNat) :
    Completes (.timeFlitReceive n path) s fun t =>
      t.dev.parent = some n ∧ t.dev.master = some path.master ∧ t.mem = s.mem := by
  obtain ⟨-, kmem, -, -⟩ := s.timeTaken_keeps n path
  obtain ⟨hparent, hmaster⟩ := State.timeTaken_of_lower hh hs n
  refine ⟨_, exec_timeFlitReceive_of hm hop hparent, ?_⟩
  split
  · exact ⟨hparent, hmaster, kmem⟩
  · obtain ⟨cmem, cparent, cmaster⟩ := (s.timeTaken n path).timeCorrect_keeps m.timeOffset (min path.hops 0xFFFF)
    exact ⟨cparent.trans hparent, cmaster.trans hmaster, cmem.trans kmem⟩

/-- Settles O7, command by command. -/
theorem timeCommandsComplete : Obligations.TimeCommandsComplete :=
  ⟨fun _ _ path _ _ => ⟨refLossSwitch_completes, exec_timeExchange_of_parent, timeExchange_completes_of_master,
      fun h => parentLost_completes h path, timingRateRead_completes⟩,
    fun _ _ _ path hm hop hp h3 =>
      ⟨fun hl => timeFlitReceive_slews hm hop hp h3 hl path, fun hl => timeFlitReceive_steps hm hop hp h3 hl path⟩,
    fun _ _ _ _ hm hop hh hs => timeFlitReceive_elects hm hop hh hs⟩

end Sys2Proof.Machine
end

section
/-! The tensor and vector units (R61, R70 … R76, R88, R119 … R121): what issue queues, when a wait on a ticket ends, and what the
completion of the oldest instruction leaves of the cores. -/

namespace Sys2Proof.Machine

theorem OnlyCore.modCore (u : State) (c : CoreIx) (f : Core → Core) :
    OnlyCore u (u.onDev fun d => d.modCore c f) c (f (u.dev.core c)) := State.onDev_congr rfl

-- issue to the tensor unit

@[simp] theorem Core.setX_pc (k : Core) (r : RegNum) (v : Word) : (k.setX r v).pc = k.pc := by
  unfold Core.setX
  split <;> rfl

@[simp] theorem Core.setX_sram (k : Core) (r : RegNum) (v : Word) : (k.setX r v).sram = k.sram := by
  unfold Core.setX
  split <;> rfl

@[simp] theorem Core.setX_active (k : Core) (r : RegNum) (v : Word) : (k.setX r v).active = k.active := by
  unfold Core.setX
  split <;> rfl

@[simp] theorem Core.setX_shadow (k : Core) (r : RegNum) (v : Word) : (k.setX r v).shadow = k.shadow := by
  unfold Core.setX
  split <;> rfl

@[simp] theorem Core.setX_tdone (k : Core) (r : RegNum) (v : Word) : (k.setX r v).tdone = k.tdone := by
  unfold Core.setX
  split <;> rfl

/-- `k'` is `k` after it has issued a tensor instruction: the next ticket is taken and returned in `rd`, the instruction stands last
in the queue with the CSRs and local SRAM as it sampled them, and neither bank, local SRAM nor DONE has changed. -/
def Core.TensQueued (k : Core) (rd : RegNum) (op : TensOp) (k' : Core) : Prop :=
  let t := (k.tissued + 1) % 65536
  k'.tissued = t ∧ k'.pc = k.pc + 4 ∧
    k'.tqueue = k.tqueue ++ [{ op with ticket := t, ctl := k.tctl, astride := k.tastride.toNat, wstride := k.twstride.toNat,
                                       cstride := k.tcstride.toNat, snap := k.sram }] ∧
    (∀ r : RegNum, k'.getX r = if r.val = 0 then 0 else if r = rd then BitVec.ofNat 64 t else k.getX r) ∧
    k'.sram = k.sram ∧ k'.active = k.active ∧ k'.shadow = k.shadow ∧ k'.tdone = k.tdone

theorem Core.tensIssue_queued (k : Core) (rd : RegNum) (op : TensOp) : k.TensQueued rd op (k.tensIssue rd op) :=
  ⟨rfl, congrArg (· + 4) (k.setX_pc ..), rfl, fun r => k.getX_setX rd r _, k.setX_sram .., k.setX_active .., k.setX_shadow ..,
    k.setX_tdone ..⟩

/-- With room in the queue and no fault the instruction is issued. -/
theorem State.tensIssue_of {s : State} {c : CoreIx} {fault : Option (Nat × Nat)} (hroom : (s.dev.core c).tqueue.length < 8)
    (hf : fault = none) (rd : RegNum) (op : TensOp) :
    OnlyCore s (s.tensIssue c rd op fault) c ((s.dev.core c).tensIssue rd op) := by
  subst hf
  exact (if_neg (by omega)).trans (OnlyCore.modCore ..)

-- waits on tickets

/-- A wait that has nothing to report retires. -/
theorem Dev.waitEnds_of {d : Dev} {c : CoreIx} {tens : Bool} {t : Option Nat}
    (h : (if tens then (d.core c).tunrep else (d.core c).vunrep).find? (coversTicket t) = none) (now : Nat) :
    d.waitEnds now c tens t = d.setCore c { (d.core c).retire with stall := .none } := by
  unfold Dev.waitEnds
  dsimp only
  rw [h]

theorem Dev.tensWait_of_over {d : Dev} {c : CoreIx} {t : Option Nat}
    (ho : waitOver (d.core c).tdone (d.core c).tissued t = true) (hr : (d.core c).tunrep.find? (coversTicket t) = none)
    (now : Nat) : d.tensWait now c t = d.setCore c { (d.core c).retire with stall := .none } :=
  (if_pos ho).trans (Dev.waitEnds_of (tens := true) hr now)

theorem Dev.tensWait_of_not_over {d : Dev} {c : CoreIx} {t : Option Nat}
    (ho : waitOver (d.core c).tdone (d.core c).tissued t = false) (now : Nat) :
    d.tensWait now c t = d.setCore c { d.core c with stall := .twait t } :=
  if_neg (by rw [ho]; decide)

theorem Dev.vecWait_of_over {d : Dev} {c : CoreIx} {t : Option Nat}
    (ho : waitOver (d.core c).vdone (d.core c).vissued t = true) (hr : (d.core c).vunrep.find? (coversTicket t) = none)
    (now : Nat) : d.vecWait now c t = d.setCore c { (d.core c).retire with stall := .none } :=
  (if_pos ho).trans (Dev.waitEnds_of (tens := false) hr now)

theorem waitOver_none {done issued : Nat} (h : done = issued) : waitOver done issued none = true := beq_iff_eq.2 h

-- what leaves the queues of the units and their DONE as they were

/-- The queues of a core's units and their DONE are as before. -/
def Core.UnitsKept (k k' : Core) : Prop :=
  k'.tdone = k.tdone ∧ k'.tqueue = k.tqueue ∧ k'.vdone = k.vdone ∧ k'.vqueue = k.vqueue

/-- The units of a core and every other core are as before. -/
def Dev.UnitsKept (d d' : Dev) (c : CoreIx) : Prop :=
  (d.core c).UnitsKept (d'.core c) ∧ ∀ x, x ≠ c → d'.core x = d.core x

theorem Core.UnitsKept.refl (k : Core) : k.UnitsKept k := ⟨rfl, rfl, rfl, rfl⟩

theorem Core.breakLocal_units (k : Core) (a n : Nat) : k.UnitsKept (k.breakLocal a n) := by
  unfold Core.breakLocal
  split <;> exact Core.UnitsKept.refl k

/-- The frame is written to local SRAM; the units run on. -/
theorem Core.trap_units (k : Core) (now : Nat) (cause tval : Word) (deferred : Bool) (fr : Word) :
    k.UnitsKept (k.trap now cause tval deferred fr) := k.breakLocal_units ..

theorem Dev.UnitsKept.of_cores {d d' : Dev} (h : d'.cores = d.cores) (c : CoreIx) : d.UnitsKept d' c := by
  have hcore (x : CoreIx) : d'.core x = d.core x := congrArg (fun l => Tbl.get ({} : Core) l x.val) h
  exact ⟨hcore c ▸ Core.UnitsKept.refl _, fun x _ => hcore x⟩

theorem Dev.UnitsKept.trans {d e f : Dev} {c : CoreIx} (h : d.UnitsKept e c) (k : e.UnitsKept f c) : d.UnitsKept f c := by
  obtain ⟨⟨htd, htq, hvd, hvq⟩, hx⟩ := h
  obtain ⟨⟨ktd, ktq, kvd, kvq⟩, kx⟩ := k
  exact ⟨⟨ktd.trans htd, ktq.trans htq, kvd.trans hvd, kvq.trans hvq⟩, fun x hne => (kx x hne).trans (hx x hne)⟩

theorem Dev.UnitsKept.setCore {d : Dev} {c : CoreIx} {k : Core} (h : (d.core c).UnitsKept k) : d.UnitsKept (d.setCore c k) c :=
  ⟨(d.core_setCore c k).symm ▸ h, fun x hx => d.core_setCore_ne c x k hx⟩

theorem Dev.trap_units (d : Dev) (now : Nat) (c : CoreIx) (cause tval : Word) (deferred : Bool) :
    d.UnitsKept (d.trap now c cause tval deferred) c := by
  unfold Dev.trap
  dsimp only
  split
  · exact .trans (.of_cores (d.spend_cores 1) c) (.setCore (Core.trap_units ..))
  · exact .setCore (Core.trap_units ..)

theorem Dev.waitEnds_units (d : Dev) (now : Nat) (c : CoreIx) (tens : Bool) (t : Option Nat) :
    d.UnitsKept (d.waitEnds now c tens t) c := by
  unfold Dev.waitEnds
  dsimp only
  split
  · refine .trans (.setCore ?_) (Dev.trap_units ..)
    split <;> exact Core.UnitsKept.refl _
  · exact .setCore (Core.UnitsKept.refl _)

/-- The processor that a completed ticket wakes leaves the units as they are. -/
theorem Dev.unitWake_units (d : Dev) (now : Nat) (c : CoreIx) : d.UnitsKept (d.unitWake now c) c := by
  have hself : d.UnitsKept d c := .of_cores rfl c
  have hfree : d.UnitsKept (d.setCore c { d.core c with stall := .none }) c := .setCore (Core.UnitsKept.refl _)
  unfold Dev.unitWake
  dsimp only
  split
  case h_1 | h_2 =>
    split
    · exact hfree
    · exact hself
  case h_3 | h_4 =>
    split
    · exact Dev.waitEnds_units ..
    · exact hself
  case h_5 =>
    split
    · exact hself
    · exact hfree
  case h_6 => exact hself

theorem Dev.msix_cores (d : Dev) (fn v : Nat) : (d.msix fn v).cores = d.cores := by
  unfold Dev.msix
  dsimp only
  split <;> rfl

theorem Dev.pushEmcy_cores (d : Dev) (e : Emcy) : (d.pushEmcy e).cores = d.cores := by
  unfold Dev.pushEmcy
  split <;> rfl

/-- An event recorded touches no core. -/
theorem Dev.record_cores (d : Dev) (now : Nat) (src : Src) (a b c : Nat) : (d.record now src a b c).cores = d.cores := by
  unfold Dev.record
  dsimp only
  split
  · rfl
  · split <;> split <;> simp only [Dev.msix_cores, Dev.pushEmcy_cores, Dev.setReg_cores]

theorem Dev.recordSramUe_cores (d : Dev) (now : Nat) (c : CoreIx) (r : Read) : (d.recordSramUe now c r).cores = d.cores :=
  foldl_keep Dev.cores _ (fun _ _ => Dev.record_cores ..) _ _

theorem Dev.countCells_cores (d : Dev) (p : PartIx) (op : TensOp) (b : Bank) (zeros : List (List Bool)) :
    (d.countCells p op b zeros).cores = d.cores := by
  unfold Dev.countCells
  split <;> rfl

-- the completion of the oldest instruction

/-- `t` is reached from `d` by storing `k` for the core, then recording what was uncorrectable and waking the processor. -/
def Dev.Landed (d : Dev) (c : CoreIx) (k : Core) (t : Dev) : Prop :=
  ∃ (now : Nat) (e : Dev) (r : Read), e.cores = (d.setCore c k).cores ∧ t = (e.recordSramUe now c r).unitWake now c

/-- The units of the core are those of the core stored; every other core is as before. -/
theorem Dev.Landed.units {d t : Dev} {c : CoreIx} {k : Core} (h : d.Landed c k t) :
    k.UnitsKept (t.core c) ∧ ∀ x, x ≠ c → t.core x = d.core x := by
  obtain ⟨now, e, r, he, rfl⟩ := h
  obtain ⟨hunits, hothers⟩ : (d.setCore c k).UnitsKept ((e.recordSramUe now c r).unitWake now c) c :=
    .trans (.of_cores ((e.recordSramUe_cores now c r).trans he) c) (Dev.unitWake_units ..)
  exact ⟨d.core_setCore c k ▸ hunits, fun x hx => (hothers x hx).trans (d.core_setCore_ne c x k hx)⟩

theorem Dev.tensComplete_landed {d : Dev} {c : CoreIx} {op : TensOp} {r : List TensOp} (h : (d.core c).tqueue = op :: r)
    (now : Nat) : ∃ k, d.Landed c k (d.tensComplete now c) ∧ k.tdone = op.ticket ∧ k.tqueue.length = r.length := by
  unfold Dev.tensComplete
  extract_lets k base
  have hk : k.tqueue = op :: r := h
  rw [hk]
  dsimp -zeta only
  extract_lets view land done broken e
  obtain ⟨hdone, hqueue, -, -⟩ := done.breakLocal_units op.writes.1 op.writes.2
  refine ⟨broken, ⟨now, e, _, Dev.countCells_cores .., rfl⟩, hdone, (congrArg List.length hqueue).trans ?_⟩
  show (if op.tlw then r else r.map _).length = r.length
  split
  · rfl
  · exact List.length_map ..

theorem Dev.vecComplete_landed {d : Dev} {c : CoreIx} {op : VecOp} {r : List VecOp} (h : (d.core c).vqueue = op :: r)
    (now : Nat) : ∃ k, d.Landed c k (d.vecComplete now c) ∧ k.vdone = op.ticket ∧ k.vqueue.length = r.length := by
  unfold Dev.vecComplete
  extract_lets k base
  have hk : k.vqueue = op :: r := h
  rw [hk]
  dsimp -zeta only
  extract_lets view land done e
  exact ⟨done, ⟨now, e, _, rfl, rfl⟩, rfl, List.length_map ..⟩

end Sys2Proof.Machine
end

section
/-! The commands of the tensor and vector units, each by the condition under which it has its effect. -/

namespace Sys2Proof.Machine

/-- A command that takes the common course of an instruction is its effect on the state the fetch leaves. -/
theorem exec_of_issues {i : Instr} {s u : State} {c : CoreIx} {len : Nat} {f : State → State} (h : Issues s c len u)
    (hi : exec i s = .next (s.issue c len f)) : exec i s = .next (f u) :=
  hi.trans (congrArg Host.Outcome.next (State.issue_of h f))

variable {s u : State} {c : CoreIx} {rd a b : RegNum}

theorem exec_twait_of (h : Issues s c 4 u) (hrd : rd.val = 0) (hb : b.val = 0) :
    exec (.twait c rd a b) s = .next (u.onDev fun d =>
      d.tensWait u.now c (waitTicket (d.core c).tissued (((d.core c).getX a).toNat % 65536))) :=
  (exec_of_issues h rfl).trans (congrArg Host.Outcome.next (if_neg (by omega)))

theorem exec_tpoll_of (h : Issues s c 4 u) (hb : b.val = 0) :
    exec (.tpoll c rd a b) s = .next (u.onDev fun d => d.modCore c fun k =>
      (k.setX rd (if ticketDone k.tdone ((k.getX a).toNat % 65536) then 1 else 0)).retire) :=
  (exec_of_issues h rfl).trans (congrArg Host.Outcome.next (if_neg (by omega)))

theorem exec_tfence_of (h : Issues s c 4 u) (hrd : rd.val = 0) (ha : a.val = 0) (hb : b.val = 0) :
    exec (.tfence c rd a b) s = .next (u.onDev fun d => d.tensWait u.now c none) :=
  (exec_of_issues h rfl).trans (congrArg Host.Outcome.next (if_neg (by omega)))

theorem exec_vwait_of (h : Issues s c 4 u) (hrd : rd.val = 0) (hb : b.val = 0) :
    exec (.vwait c rd a b) s = .next (u.onDev fun d =>
      d.vecWait u.now c (waitTicket (d.core c).vissued (((d.core c).getX a).toNat % 65536))) :=
  (exec_of_issues h rfl).trans (congrArg Host.Outcome.next (if_neg (by omega)))

theorem exec_vpoll_of (h : Issues s c 4 u) (hb : b.val = 0) :
    exec (.vpoll c rd a b) s = .next (u.onDev fun d => d.modCore c fun k =>
      (k.setX rd (if ticketDone k.vdone ((k.getX a).toNat % 65536) then 1 else 0)).retire) :=
  (exec_of_issues h rfl).trans (congrArg Host.Outcome.next (if_neg (by omega)))

theorem exec_vfence_of (h : Issues s c 4 u) (hrd : rd.val = 0) (ha : a.val = 0) (hb : b.val = 0) :
    exec (.vfence c rd a b) s = .next (u.onDev fun d => d.vecWait u.now c none) :=
  (exec_of_issues h rfl).trans (congrArg Host.Outcome.next (if_neg (by omega)))

/-- VEXT of a register that no queued instruction writes, and whose value depends on no unreported error, reads lane 0. -/
theorem exec_vext_of (h : Issues s c 4 u) (hb : b.val = 0)
    (hq : ((u.dev.core c).vqueue.any fun op => op.act.dest == some a) = false)
    (hr : (u.dev.core c).vunrep.find? (fun t => ((u.dev.core c).vdep.get [] a.val).contains t) = none) :
    exec (.vext c rd a b) s = .next (u.onDev fun d => d.setCore c
      ((d.core c).setX rd ((((d.core c).getV a).getD 0 0).setWidth 64)).retire) := by
  refine (exec_of_issues h rfl).trans ?_
  refine congrArg Host.Outcome.next ((if_neg (by omega)).trans (State.onDev_congr ?_))
  dsimp only
  rw [hq, hr]
  rfl

theorem exec_vecSeedWrite_of (h : Issues s c 4 u) (v : Word) :
    exec (.vecSeedWrite c v) s = .next (u.onDev fun d => d.modCore c fun k =>
      { k.retire with vseed := if fld v 31 0 = 0 then 1 else fld v 31 0 }) :=
  (exec_of_issues h rfl).trans rfl

theorem exec_tensorTicketComplete_of (hp : s.dev.partUp (corePart c) = true) :
    exec (.tensorTicketComplete c) s = .next (s.onDev fun d => d.tensComplete s.now c) := by
  show execTensorTicketComplete c s = _
  rw [execTensorTicketComplete, hp, State.when_true]

theorem exec_vectorTicketComplete_of (hp : s.dev.partUp (corePart c) = true) :
    exec (.vectorTicketComplete c) s = .next (s.onDev fun d => d.vecComplete s.now c) := by
  show execVectorTicketComplete c s = _
  rw [execVectorTicketComplete, hp, State.when_true]

end Sys2Proof.Machine
end

section
/-! The statements of the tensor and vector units, settled. -/

namespace Sys2Proof.Machine

/-- Settles O17: both instructions reach the issue to the tensor unit, which queues them. -/
theorem tensorIssueCompletes : Obligations.TensorIssueCompletes := by
  intro s u c rd a b e z w f3 f2 hi
  dsimp only
  intro hroom
  exact ⟨fun hf => ⟨_, exec_of_issues hi rfl, _, State.tensIssue_of hroom hf _ _, Core.tensIssue_queued ..⟩,
    fun hf => ⟨_, exec_of_issues hi rfl, _, State.tensIssue_of hroom hf _ _, Core.tensIssue_queued ..⟩⟩

theorem tensorTicketComplete_completes {s : State} {c : CoreIx} (hp : s.dev.partUp (corePart c) = true) {op : TensOp}
    {r : List TensOp} (hq : (s.dev.core c).tqueue = op :: r) :
    Completes (.tensorTicketComplete c) s fun t => (t.dev.core c).tdone = op.ticket ∧
      (t.dev.core c).tqueue.length = r.length ∧ OtherCoresKept s t c ∧ VolatileOnly s t := by
  obtain ⟨k, hland, hdone, hlen⟩ := Dev.tensComplete_landed hq s.now
  obtain ⟨⟨htd, htq, -, -⟩, hothers⟩ := hland.units
  exact ⟨_, exec_tensorTicketComplete_of hp, htd.trans hdone, (congrArg List.length htq).trans hlen, hothers,
    VolatileOnly.onDev ..⟩

theorem vectorTicketComplete_completes {s : State} {c : CoreIx} (hp : s.dev.partUp (corePart c) = true) {op : VecOp}
    {r : List VecOp} (hq : (s.dev.core c).vqueue = op :: r) :
    Completes (.vectorTicketComplete c) s fun t => (t.dev.core c).vdone = op.ticket ∧
      (t.dev.core c).vqueue.length = r.length ∧ OtherCoresKept s t c ∧ VolatileOnly s t := by
  obtain ⟨k, hland, hdone, hlen⟩ := Dev.vecComplete_landed hq s.now
  obtain ⟨⟨-, -, hvd, hvq⟩, hothers⟩ := hland.units
  exact ⟨_, exec_vectorTicketComplete_of hp, hvd.trans hdone, (congrArg List.length hvq).trans hlen, hothers,
    VolatileOnly.onDev ..⟩

/-- Settles O19: waits, polls and fences command by command, then the completion of each unit's oldest instruction. -/
theorem unitWaitsComplete : Obligations.UnitWaitsComplete := by
  refine ⟨fun s u c rd a b hi => ⟨fun hrd hb => ⟨fun ho hr => ?twaitOver, fun ho => ?twaitStalls⟩, fun hb => ?tpoll,
      fun hrd ha hb hd hr => ?tfence⟩,
    fun s u c rd a b v hi => ⟨fun hb hq hr => ?vext, fun hrd hb ho hr => ?vwait, fun hb => ?vpoll,
      fun hrd ha hb hd hr => ?vfence, ?vecSeedWrite⟩,
    fun s c hp => ⟨fun op r hq => tensorTicketComplete_completes hp hq, fun op r hq => vectorTicketComplete_completes hp hq⟩⟩
  case twaitOver => exact ⟨_, exec_twait_of hi hrd hb, State.onDev_congr (Dev.tensWait_of_over ho hr _)⟩
  case twaitStalls => exact ⟨_, exec_twait_of hi hrd hb, State.onDev_congr (Dev.tensWait_of_not_over ho _)⟩
  case tpoll => exact ⟨_, exec_tpoll_of hi hb, OnlyCore.modCore ..⟩
  case tfence =>
    exact ⟨_, exec_tfence_of hi hrd ha hb,
      State.onDev_congr (Dev.tensWait_of_over (waitOver_none hd) (congrArg (List.find? _) hr) _)⟩
  case vext => exact ⟨_, exec_vext_of hi hb hq hr, State.onDev_congr rfl⟩
  case vwait => exact ⟨_, exec_vwait_of hi hrd hb, State.onDev_congr (Dev.vecWait_of_over ho hr _)⟩
  case vpoll => exact ⟨_, exec_vpoll_of hi hb, OnlyCore.modCore ..⟩
  case vfence =>
    exact ⟨_, exec_vfence_of hi hrd ha hb,
      State.onDev_congr (Dev.vecWait_of_over (waitOver_none hd) (congrArg (List.find? _) hr) _)⟩
  case vecSeedWrite => exact ⟨_, exec_vecSeedWrite_of hi v, OnlyCore.modCore ..⟩

end Sys2Proof.Machine
end

section
/-! Vector instructions: what issue queues (R119 … R123), and the tree in which VRSUM adds (R125). -/

namespace Sys2Proof.Machine

-- issue to the vector unit

/-- With room in the queue, a legal rounding mode, legal fields and no operand fault the instruction is issued. -/
theorem State.vecIssue_of {s : State} {c : CoreIx} {bad : Bool} {fault : Option Nat}
    (hroom : (s.dev.core c).vqueue.length < 16) (hrm : fld (s.dev.core c).vctl 1 0 ≠ 3) (hb : bad = false)
    (hf : fault = none) (w : Word32) (act : VecAct) :
    OnlyCore s (s.vecIssue c w bad fault act) c ((s.dev.core c).vecIssue act) := by
  subst hb hf
  have hlegal : ¬(false || fld (s.dev.core c).vctl 1 0 == 3) = true := by simpa using hrm
  exact (if_neg (by omega)).trans ((if_neg hlegal).trans (OnlyCore.modCore ..))

/-- Every arithmetic command issues its function; one with a single operand refuses a register in the vs2 field (R121). -/
theorem exec_vecArithCmd (fn : VecFn) (c : CoreIx) (vd a b : RegNum) (s : State) :
    ∃ w, exec (vecArithCmd fn c vd a b) s = .next (s.issue c 4 fun s =>
      s.vecIssue c w (vecUnary fn && b.val != 0) none (.arith fn vd a b)) := by
  cases fn <;> exact ⟨_, rfl⟩

/-- An aligned extent below the scratchpad bound, with a scale field that lies below it too, meets no operand fault (R123). -/
theorem Core.vmemFault_none {k : Core} {code addr : Nat} {scale : Option Nat} (halign : addr % 32 = 0) (htop : addr < 2 ^ 22)
    (hext : addr + vecBytes code ≤ k.scratch) (hscale : ∀ x ∈ scale, x + 4 ≤ k.scratch) :
    k.vmemFault code addr scale = none := by
  have hs : ¬scale.any (fun x => decide (k.scratch < x + 4)) = true := by
    cases scale with
    | none => exact Bool.false_ne_true
    | some x => simpa using hscale x rfl
  exact (if_neg (by omega)).trans ((if_neg (by omega)).trans (if_neg hs))

-- the fixed tree

/-- One level of the tree, lane by lane. -/
theorem vecHalve_getD (f : Nat → Nat → Nat × Nat) {n i : Nat} (l : List Nat) (h : i < n) :
    (vecHalve f n l).1.getD i 0 = (f (l.getD i 0) (l.getD (i + n) 0)).1 := by
  unfold vecHalve
  rw [List.getD_eq_getElem?_getD, List.getElem?_map, List.getElem?_map, List.getElem?_range h]
  rfl

/-- The reduction over 2^(s+1) elements is lane 0 of a tree: the leaves are the elements, and lane i of level k is made of lanes i
and i + 2^k of the level above. -/
theorem vecReduce_tree (f : Nat → Nat → Nat × Nat) (s : Nat) (l : List Nat) (g : Nat) :
    ∃ lane : Nat → Nat → Nat, (∀ i < 2 ^ (s + 1), lane (s + 1) i = l.getD i 0) ∧
      (∀ k < s + 1, ∀ i < 2 ^ k, lane k i = (f (lane (k + 1) i) (lane (k + 1) (i + 2 ^ k))).1) ∧
      (vecReduce f s l g).1 = lane 0 0 := by
  induction s generalizing l g with
  | zero =>
    refine ⟨fun k i => if k = 0 then (f (l.getD i 0) (l.getD (i + 1) 0)).1 else l.getD i 0, fun i _ => rfl, fun k hk i _ => ?_,
      rfl⟩
    obtain rfl : k = 0 := by omega
    rfl
  | succ s ih =>
    obtain ⟨lane, hleaf, hnode, hroot⟩ := ih (vecHalve f (2 ^ (s + 1)) l).1 (g ||| (vecHalve f (2 ^ (s + 1)) l).2)
    refine ⟨fun k i => if k = s + 2 then l.getD i 0 else lane k i, fun i _ => if_pos rfl, fun k hk i hi => ?node, ?root⟩
    case root => exact hroot.trans (if_neg (by omega)).symm
    case node =>
      dsimp only
      rw [if_neg (by omega : k ≠ s + 2)]
      by_cases hks : k = s + 1
      · subst hks
        rw [if_pos rfl, if_pos rfl, hleaf i hi]
        exact vecHalve_getD f l hi
      · rw [if_neg (by omega : k + 1 ≠ s + 2), if_neg (by omega : k + 1 ≠ s + 2), hnode k (by omega) i hi]

end Sys2Proof.Machine
end

section
/-! The statements of the vector unit, settled. -/

namespace Sys2Proof.Machine

/-- Settles O18: every form reaches the issue to the vector unit with legal fields and no operand fault. -/
theorem vectorIssueCompletes : Obligations.VectorIssueCompletes := by
  intro s u c fn fmt vd a b hi
  dsimp only
  intro hroom hrm
  refine ⟨fun hun => ?arith, fun hb => ?splat, fun hb hcode ha htop hext => ⟨?load, ?store⟩, fun hmx ha htop hext _ hscale => ?mx⟩
  case arith =>
    obtain ⟨w, hw⟩ := exec_vecArithCmd fn c vd a b s
    refine ⟨_, exec_of_issues hi hw, State.vecIssue_of hroom hrm ?_ rfl w _⟩
    cases h : vecUnary fn
    · rfl
    · rw [hun h]; rfl
  case splat => exact ⟨_, exec_of_issues hi rfl, State.vecIssue_of hroom hrm (by rw [hb]; rfl) rfl _ _⟩
  case load | store =>
    exact ⟨_, exec_of_issues hi rfl, State.vecIssue_of hroom hrm (by rw [hb, hcode]; rfl)
      (Core.vmemFault_none ha htop hext (by simp)) _ _⟩
  case mx =>
    exact ⟨_, exec_of_issues hi rfl, State.vecIssue_of hroom hrm (by rw [hmx]; rfl)
      (Core.vmemFault_none ha htop hext (by simpa using hscale)) _ _⟩

/-- Settles O20: the tree of the reduction, over the lanes of the source. -/
theorem vectorSumIsFixedTree : Obligations.VectorSumIsFixedTree := by
  intro ctl ctr d a b _
  refine ⟨?_, fun _ _ _ => rfl⟩
  obtain ⟨lane, hleaf, hnode, hroot⟩ := vecReduce_tree
    (fun x y => vecSum (vecRnd ctl) (Fmt.fp32.decode x) (Fmt.fp32.decode y)) 6 (a.map (·.toNat)) 0
  refine ⟨lane, fun i hi => (hleaf i hi).trans ?_, hnode, ?_⟩
  · rw [List.getD_eq_getElem?_getD, List.getElem?_map, List.getD_eq_getElem?_getD]
    cases a[i]? <;> rfl
  · exact congrArg (fun v => some (w32 v)) hroot

end Sys2Proof.Machine
end

section
/-! The base instructions of a core (R92 … R100): what a command of a base instruction comes to, register results and jumps, and a
core stored twice. -/

namespace Sys2Proof.Machine

-- a core stored twice

theorem Tbl.erase_insert {α : Type} (t : Tbl α) (k : Nat) (v : α) : (t.insert k v).erase k = t.erase k := by
  induction t with
  | nil => simp [Tbl.insert, Tbl.erase]
  | cons e r ih =>
    obtain ⟨n, w⟩ := e
    unfold Tbl.insert
    split
    · simp [Tbl.erase]
    · simp only [Tbl.erase, List.filter_cons] at ih ⊢
      rw [ih]

/-- Of two stores at one number the second alone counts. -/
theorem Tbl.set_set {α : Type} [DecidableEq α] (d : α) (t : Tbl α) (k : Nat) (v w : α) :
    (t.set d k v).set d k w = t.set d k w := by
  have herase : (t.set d k v).erase k = t.erase k := by
    have hself : (t.erase k).erase k = t.erase k := by simp [Tbl.erase]
    unfold Tbl.set
    split
    · exact hself
    · exact (Tbl.erase_insert _ k v).trans hself
  unfold Tbl.set at herase ⊢
  rw [herase]

theorem Dev.setCore_setCore (d : Dev) (c : CoreIx) (k k' : Core) : (d.setCore c k).setCore c k' = d.setCore c k' :=
  congrArg (fun l => { d with cores := l }) (Tbl.set_set {} d.cores c.val k k')

/-- A change of the one core that differs leaves a state in which nothing else differs. -/
theorem OnlyCore.modCore_trans {u t : State} {c : CoreIx} {k : Core} (h : OnlyCore u t c k) (f : Core → Core) :
    OnlyCore u (t.onDev fun d => d.modCore c f) c (f k) := by
  rw [OnlyCore] at h ⊢
  subst h
  show u.onDev (fun d => (d.setCore c k).modCore c f) = _
  exact State.onDev_congr (by rw [Dev.modCore, Dev.core_setCore, Dev.setCore_setCore])

-- registers

@[simp] theorem Core.setX_resv (k : Core) (r : RegNum) (v : Word) : (k.setX r v).resv = k.resv := by
  unfold Core.setX
  split <;> rfl

theorem Core.getX_setX_self (k : Core) {r : RegNum} (v : Word) (h : r.val ≠ 0) : (k.setX r v).getX r = v := by
  rw [Core.getX_setX, if_neg h, if_pos rfl]

theorem Core.jump_pc (k : Core) (rd : RegNum) (len : Nat) (target : Word) :
    (k.jump rd len target).pc = target &&& 0xFFFFFFFFFFFFFFFE := rfl

theorem Core.jump_link (k : Core) {rd : RegNum} (len : Nat) (target : Word) (h : rd.val ≠ 0) :
    (k.jump rd len target).getX rd = k.pc + BitVec.ofNat 64 len := k.getX_setX_self _ h

-- the commands of base instructions

/-- Whether INSTRUCTION carries the word out as a base instruction of the core: it belongs to no unit and accesses no CSR. -/
def Op.isBase : Op → Bool
  | .tensor | .vector | .vmem | .csr _ _ _ _ => false
  | _ => true

theorem execInstruction_base {w : Word32} (h : (decodeOf w).isBase = true) (c : CoreIx) (s : State) :
    execInstruction c w s = .next (s.runBase c w .none) := by
  unfold execInstruction
  split
  case h_1 hd | h_2 hd | h_3 hd | h_4 hd =>
    rw [hd] at h
    exact absurd h Bool.false_ne_true
  case h_5 => rfl

variable {s u : State} {c : CoreIx} {w : Word32} {o : Op}

theorem State.runBase_of (hi : Issues s c (wordLen w) u) (up : Upset) : s.runBase c w up = u.perform c w up :=
  State.issue_of hi fun s => s.perform c w up

/-- INSTRUCTION of a base instruction that issues is its effect. -/
theorem exec_instruction_of (hi : Issues s c (wordLen w) u) (hd : decodeOf w = o) (ho : o.isBase = true) :
    exec (.instruction c w) s = .next (u.perform c w .none) := by
  show execInstruction c w s = _
  rw [execInstruction_base (hd ▸ ho), State.runBase_of hi]

theorem exec_fence_of (hi : Issues s c (wordLen w) u) (hd : decodeOf w = .fence) :
    exec (.fence c w) s = .next (u.perform c w .none) := by
  show execFence c w s = _
  rw [execFence, hd, ← State.runBase_of hi]

theorem exec_fenceI_of (hi : Issues s c (wordLen w) u) (hd : decodeOf w = .fenceI) :
    exec (.fenceI c w) s = .next (u.perform c w .none) := by
  show execFenceI c w s = _
  rw [execFenceI, hd, ← State.runBase_of hi]

-- the effects of base instructions

variable {up : Upset} {f3 : Nat} {alt : Bool} {rd a b : RegNum} {imm : Word}

theorem State.setRd_onlyCore (len : Nat) (rd : RegNum) (v : Word) :
    OnlyCore u (u.setRd c len rd v) c (((u.dev.core c).setX rd v).retire len) := OnlyCore.modCore ..

theorem State.retire_onlyCore (len : Nat) : OnlyCore u (u.retire c len) c ((u.dev.core c).retire len) := OnlyCore.modCore ..

theorem State.perform_lui (h : decodeOf w = .lui rd imm) : u.perform c w up = u.setRd c (wordLen w) rd imm := by
  rw [State.perform, h]

theorem State.perform_opImm (h : decodeOf w = .opImm f3 alt rd a imm) :
    u.perform c w up = u.setRd c (wordLen w) rd (aluOp f3 alt ((u.dev.core c).getX a) imm) := by
  rw [State.perform, h]

theorem State.perform_op (h : decodeOf w = .op f3 alt rd a b) :
    u.perform c w up = u.setRd c (wordLen w) rd (aluOp f3 alt ((u.dev.core c).getX a) ((u.dev.core c).getX b)) := by
  rw [State.perform, h]

theorem State.perform_mul (h : decodeOf w = .mul f3 rd a b) :
    u.perform c w up = u.setRd c (wordLen w) rd (mulOp f3 ((u.dev.core c).getX a) ((u.dev.core c).getX b)) := by
  rw [State.perform, h]

theorem State.perform_jal (h : decodeOf w = .jal rd imm) :
    u.perform c w up = u.onCore c fun k => k.jump rd (wordLen w) (k.pc + imm) := by
  rw [State.perform, h]

theorem State.perform_branch (h : decodeOf w = .branch f3 a b imm) :
    u.perform c w up = if branchTaken f3 ((u.dev.core c).getX a) ((u.dev.core c).getX b)
      then u.onCore c fun k => k.jump x0 (wordLen w) (k.pc + imm) else u.retire c (wordLen w) := by
  rw [State.perform, h]

theorem State.perform_illegal (h : decodeOf w = .illegal) : u.perform c w up = u.trap c 2 (wordBits w) := by
  rw [State.perform, h]

theorem State.perform_fence (h : decodeOf w = .fence) : u.perform c w up = u.fenceOp c := by
  rw [State.perform, h]

theorem State.perform_fenceI (h : decodeOf w = .fenceI) : u.perform c w up = u.retire c := by
  rw [State.perform, h]

theorem State.perform_ecall (h : decodeOf w = .ecall) :
    u.perform c w up = u.trap c (if (u.dev.core c).mach then 11 else 8) 0 := by
  rw [State.perform, h]

theorem State.fenceOp_of_done (h : u.dev.storesOut c = false) : OnlyCore u (u.fenceOp c) c (u.dev.core c).retire := by
  rw [State.fenceOp, h]
  exact State.retire_onlyCore 4

theorem State.fenceOp_of_storesOut (h : u.dev.storesOut c = true) :
    OnlyCore u (u.fenceOp c) c { u.dev.core c with stall := .fence } := by
  rw [State.fenceOp, h]
  exact OnlyCore.modCore ..

end Sys2Proof.Machine
end

section
/-! The statement of the base instructions, settled. -/

namespace Sys2Proof.Machine

/-- A branch goes to its target when taken, past itself when not, and writes no register. -/
theorem State.perform_branch_completes {u : State} {c : CoreIx} {w : Word32} {f3 : Nat} {a b : RegNum} {off : Word} {up : Upset}
    (h : decodeOf w = .branch f3 a b off) : ∃ k', OnlyCore u (u.perform c w up) c k' ∧
      k'.pc = (if branchTaken f3 ((u.dev.core c).getX a) ((u.dev.core c).getX b)
        then ((u.dev.core c).pc + off) &&& 0xFFFFFFFFFFFFFFFE else (u.dev.core c).pc + BitVec.ofNat 64 (wordLen w)) ∧
      k'.x = (u.dev.core c).x := by
  rw [State.perform_branch h]
  split
  · exact ⟨_, OnlyCore.modCore .., Core.jump_pc .., rfl⟩
  · exact ⟨_, State.retire_onlyCore .., rfl, rfl⟩

/-- Settles O21: INSTRUCTION is the effect of its word, form by form. -/
theorem baseInstructionsComplete : Obligations.BaseInstructionsComplete := by
  intro s u c w hi
  refine ⟨fun rd imm h => ⟨_, exec_instruction_of hi h rfl, ?lui⟩, fun f3 alt rd a imm h => ⟨_, exec_instruction_of hi h rfl, ?opImm⟩,
    fun f3 alt rd a b h => ⟨_, exec_instruction_of hi h rfl, ?op⟩, fun f3 rd a b h => ⟨_, exec_instruction_of hi h rfl, ?mul⟩,
    fun rd off h => ⟨_, exec_instruction_of hi h rfl, ?jal⟩, fun f3 a b off h => ⟨_, exec_instruction_of hi h rfl, ?branch⟩,
    fun h => ?illegal⟩
  case lui => exact State.perform_lui h ▸ State.setRd_onlyCore ..
  case opImm => exact State.perform_opImm h ▸ State.setRd_onlyCore ..
  case op => exact State.perform_op h ▸ State.setRd_onlyCore ..
  case mul => exact State.perform_mul h ▸ State.setRd_onlyCore ..
  case jal =>
    exact ⟨_, State.perform_jal h ▸ OnlyCore.modCore .., Core.jump_pc .., fun hrd => Core.jump_link _ _ _ hrd⟩
  case branch => exact State.perform_branch_completes h
  case illegal => exact (exec_instruction_of hi h rfl).trans (congrArg Host.Outcome.next (State.perform_illegal h))

end Sys2Proof.Machine
end

section
/-! Traps (R130 … R132, R450): what taking one leaves of a core, the frame byte by byte, and which interrupt is taken. -/

namespace Sys2Proof.Machine

@[simp] theorem length_leBytes (n v : Nat) : (leBytes n v).length = n := by
  induction n generalizing v with
  | zero => rfl
  | succ n ih => exact congrArg (· + 1) (ih _)

/-- Byte `i` of a number spelt little-endian. -/
theorem leBytes_getD {n i : Nat} (h : i < n) (v : Nat) : (leBytes n v).getD i 0 = BitVec.ofNat 8 (v / 256 ^ i) := by
  induction n generalizing i v with
  | zero => omega
  | succ n ih =>
    cases i with
    | zero => simp [leBytes]
    | succ i =>
      rw [leBytes, List.getD_cons_succ, ih (by omega), Nat.div_div_eq_div_mul, Nat.pow_succ']

-- mstatus on a trap (R131)

theorem Core.trapStatus_mie (k : Core) : bit k.trapStatus 3 = false := by
  rw [Core.trapStatus, bit_setFld_out _ _ (by omega) (by omega) (by omega), bit_setBit_self _ _ _ (by omega)]

theorem Core.trapStatus_mpie (k : Core) : bit k.trapStatus 7 = bit k.mstatus 3 := by
  rw [Core.trapStatus, bit_setFld_out _ _ (by omega) (by omega) (by omega), bit_setBit_ne _ _ (by omega) (by omega),
    bit_setBit_self _ _ _ (by omega)]

theorem Core.trapStatus_mpp (k : Core) : fld k.trapStatus 12 11 = if k.mach then 3 else 0 := by
  rw [Core.trapStatus, fld_setFld_self _ _ _ _ (by omega) (by omega)]
  split <;> rfl

theorem Core.vector_of_exception (k : Core) {cause : Word} (h : bit cause 63 = false) :
    k.vector cause = k.mtvec &&& 0xFFFFFFFFFFFFFFFC := by
  rw [Core.vector, h]
  rfl

-- the frame of R132

section
variable (k : Core) (now : Nat) (cause tval : Word) (deferred : Bool) (fr : Word)

/-- The registers and the task are untouched: the frame's write to local SRAM ends at most the reservation (R100). -/
theorem Core.trap_registers : (k.trap now cause tval deferred fr).x = k.x ∧ (k.trap now cause tval deferred fr).f = k.f ∧
    (k.trap now cause tval deferred fr).fcsr = k.fcsr ∧ (k.trap now cause tval deferred fr).task = k.task := by
  unfold Core.trap Core.sramWrite Core.breakLocal
  dsimp only
  split <;> exact ⟨rfl, rfl, rfl, rfl⟩

theorem Core.trap_sram : (k.trap now cause tval deferred fr).sram =
    k.sram.write wordGran (controlBase + 64 * ((k.trap now cause tval deferred fr).trapSeq % 16))
      (leBytes 64 (k.frame now cause tval (k.trap now cause tval deferred fr).trapSeq fr)) := rfl

theorem Core.trap_sram_out {a : Nat} (h : a < controlBase + 64 * ((k.trap now cause tval deferred fr).trapSeq % 16) ∨
      controlBase + 64 * ((k.trap now cause tval deferred fr).trapSeq % 16) + 64 ≤ a) :
    (k.trap now cause tval deferred fr).sram.cell a = k.sram.cell a :=
  Memory.cell_write_out _ _ _ _ _ (by rwa [length_leBytes])

theorem Core.trap_sram_frame {i : Nat} (h : i < 64) :
    (k.trap now cause tval deferred fr).sram.cell (controlBase + 64 * ((k.trap now cause tval deferred fr).trapSeq % 16) + i) =
      some (BitVec.ofNat 8 (k.frame now cause tval (k.trap now cause tval deferred fr).trapSeq fr / 256 ^ i)) := by
  rw [Core.trap_sram, Memory.cell_write_in _ _ _ _ _ (by rwa [length_leBytes]), leBytes_getD h]

end

-- a trap on the device

/-- The trap is that of the core as it stands: drawing TASK and QUEUE of a frame without a task touches no core. -/
theorem Dev.trap_core (d : Dev) (now : Nat) (c : CoreIx) (cause tval : Word) (deferred : Bool) :
    (d.trap now c cause tval deferred).core c = (d.core c).trap now cause tval deferred d.free := by
  unfold Dev.trap
  dsimp only
  split <;> exact Dev.core_modCore ..

/-- The interrupts of a core are those with the codes 17, 11, 16 and 7 (R131). -/
theorem State.interrupt_mem {s : State} {c : CoreIx} {i : Nat} (h : s.interrupt c = some i) : i ∈ [17, 11, 16, 7] := by
  unfold State.interrupt at h
  dsimp only at h
  split at h
  · exact absurd h (Option.some_ne_none i).symm
  · exact List.mem_of_find?_eq_some h

/-- What waits at no Hurdle withdraws from none. -/
theorem Dev.withdraw_of_stall_none {d : Dev} {c : CoreIx} (h : (d.core c).stall = .none) : d.withdraw c = d := by
  rw [Dev.withdraw, h]

theorem exec_environmentCall_of {s u : State} {c : CoreIx} (h : Issues s c 4 u) :
    exec (.environmentCall c) s = .next (u.trap c (if (u.dev.core c).mach then 11 else 8) 0) := by
  have hlen : wordLen 0x73 = 4 := by decide
  have hecall : decodeOf 0x73 = .ecall := by decide
  show execEnvironmentCall c s = _
  rw [execEnvironmentCall, State.runBase_of (hlen ▸ h), State.perform_ecall hecall]

theorem exec_interruptTake_of {s : State} {c : CoreIx} {i : Nat} (hi : s.interrupt c = some i) (hup : s.coreUp c = true)
    (hs : (s.dev.core c).stall = .none) :
    exec (.interruptTake c) s = .next (s.trap c (BitVec.ofNat 64 (2 ^ 63 + i)) 0) := by
  show execInterruptTake c s = _
  rw [execInterruptTake, hi, hs, hup]
  exact congrArg (fun d : Dev => Host.Outcome.next { s with dev := d.trap s.now c (BitVec.ofNat 64 (2 ^ 63 + i)) 0 })
    (Dev.withdraw_of_stall_none hs)

theorem exec_reservationTimeout (c : CoreIx) (s : State) : exec (.reservationTimeout c) s = .next (s.onCore c fun k =>
    if k.resv.any fun r => decide (r.2 + 1000 < s.now) then { k with resv := none } else k) := rfl

theorem exec_timecmpMatch (c : CoreIx) (s : State) : exec (.timecmpMatch c) s = .next (s.onCore c fun k =>
    if k.timecmp.toNat ≤ s.now then { k with mtip := true } else k) := rfl

end Sys2Proof.Machine
end

section
/-! MEMORY_RESPONSE of a load (R99). -/

namespace Sys2Proof.Machine

/-- The end of a core's stores means nothing to one that stalls on nothing. -/
theorem State.storesDone_of_stall_none {s : State} {c : CoreIx} (h : (s.dev.core c).stall = .none) : s.storesDone c = s := by
  rw [State.storesDone, h]
  exact ite_self s

theorem Dev.slotWake_core_of_ne {d : Dev} {c : CoreIx} (h : (d.core c).stall ≠ .slot) : (d.slotWake c).core c = d.core c := by
  rw [Dev.slotWake, Dev.core_modCore, if_neg h]

/-- The device without a request that has been answered. -/
def Dev.dropReq (d : Dev) (id : Nat) : Dev := { d with reqs := d.reqs.set none id none }

theorem Dev.dropReq_reqs (d : Dev) (id : Nat) : (d.dropReq id).reqs.get none id = none := Tbl.get_set_self none d.reqs id none

/-- The core a load's data reaches. -/
def Core.loadEnds (k : Core) (rd : RegNum) (form : Nat) (fp : Bool) (v : Nat) : Core :=
  { (k.loaded rd (form % 8) fp v).retire (if 8 ≤ form then 2 else 4) with stall := .none }

@[simp] theorem Core.loaded_pc (k : Core) (rd : RegNum) (f3 : Nat) (fp : Bool) (v : Nat) : (k.loaded rd f3 fp v).pc = k.pc := by
  unfold Core.loaded
  split
  · rfl
  · exact k.setX_pc ..

theorem Core.loadEnds_stall (k : Core) (rd : RegNum) (form : Nat) (fp : Bool) (v : Nat) :
    (k.loadEnds rd form fp v).stall = .none := rfl

theorem Core.loadEnds_pc (k : Core) (rd : RegNum) {form : Nat} (fp : Bool) (v : Nat) (h : form < 8) :
    (k.loadEnds rd form fp v).pc = k.pc + 4 := by
  rw [Core.loadEnds, if_neg (by omega)]
  exact congrArg (· + 4) (k.loaded_pc ..)

theorem Core.loadEnds_getX (k : Core) {rd : RegNum} (v : Nat) (h : rd.val ≠ 0) :
    (k.loadEnds rd 3 false v).getX rd = BitVec.ofNat 64 v := k.getX_setX_self _ h

/-- Data that fills no line reaches the register of the load that waits for it. -/
theorem State.answered_of_load {s : State} {id v form : Nat} {q : Req} {rd : RegNum} {fp : Bool} (hop : q.op = .read)
    (hfill : q.fill = none) (hstall : (s.dev.core q.core).stall = .load id rd form fp) :
    s.answered q id (.ok v) = s.onDev fun d => d.modCore q.core fun k => k.loadEnds rd form fp v := by
  have hpart : loadPart q form (.ok v) = .ok v := by
    rw [loadPart, hfill]
    rfl
  unfold State.answered
  rw [hop]
  dsimp only
  rw [hstall]
  dsimp only
  rw [if_pos rfl, hfill, hpart]
  rfl

/-- An answered request is given up and its response goes to its core; what waited for it goes on. -/
theorem exec_memoryResponse_of_done {s : State} {id : Nat} {q : Req} {r : Resp} (hq : s.dev.reqs.get none id = some q)
    (hst : q.st = .done r) : exec (.memoryResponse id) s = .next ((((s.onDev fun d => d.dropReq id).answered q id r).storesDone
      q.core).onDev fun d => d.slotWake q.core) := by
  show execMemoryResponse id s = _
  rw [execMemoryResponse, hq]
  dsimp only
  rw [hst]
  rfl

/-- The response of a load that fills no line is consumed and its data reaches the core. -/
theorem exec_memoryResponse_of_load {s : State} {c : CoreIx} {id v form : Nat} {q : Req} {rd : RegNum} {fp : Bool}
    (hq : s.dev.reqs.get none id = some q) (hst : q.st = .done (.ok v)) (hop : q.op = .read) (hfill : q.fill = none)
    (hcore : q.core = c) (hstall : (s.dev.core c).stall = .load id rd form fp) :
    exec (.memoryResponse id) s = .next (s.onDev fun d =>
      ((d.dropReq id).modCore c fun k => k.loadEnds rd form fp v).slotWake c) := by
  subst hcore
  rw [exec_memoryResponse_of_done hq hst, State.answered_of_load (s := s.onDev fun d => d.dropReq id) hop hfill hstall,
    State.storesDone_of_stall_none (by rw [State.onDev_dev, Dev.core_modCore]; rfl)]
  rfl

end Sys2Proof.Machine
end

section
/-! The statements of ordering, timers and traps, settled. -/

namespace Sys2Proof.Machine

theorem memoryResponse_completes {s : State} {c : CoreIx} {id v form : Nat} {q : Req} {rd : RegNum}
    (hq : s.dev.reqs.get none id = some q) (hst : q.st = .done (.ok v)) (hop : q.op = .read) (hfill : q.fill = none)
    (hcore : q.core = c) (hstall : (s.dev.core c).stall = .load id rd form false) (hrd : rd.val ≠ 0) (hform : form < 8) :
    Completes (.memoryResponse id) s fun t =>
      (t.dev.core c).stall = .none ∧ (t.dev.core c).pc = (s.dev.core c).pc + 4 ∧ t.dev.reqs.get none id = none ∧
      (form = 3 → (t.dev.core c).getX rd = BitVec.ofNat 64 v) ∧ OtherCoresKept s t c ∧ VolatileOnly s t := by
  have hwoken (d : Dev) : ((d.modCore c fun k => k.loadEnds rd form false v).slotWake c).core c =
      (d.core c).loadEnds rd form false v := by
    have hk := d.core_modCore c fun k => k.loadEnds rd form false v
    have hstall := (congrArg Core.stall hk).trans (Core.loadEnds_stall ..)
    exact (Dev.slotWake_core_of_ne (by rw [hstall]; exact Stall.noConfusion)).trans hk
  have hk := hwoken (s.dev.dropReq id)
  refine ⟨_, exec_memoryResponse_of_load hq hst hop hfill hcore hstall, congrArg Core.stall hk,
    (congrArg Core.pc hk).trans (Core.loadEnds_pc _ _ _ _ hform), s.dev.dropReq_reqs id, ?word, fun x hx => ?others,
    VolatileOnly.onDev ..⟩
  case word =>
    rintro rfl
    exact (congrArg (·.getX rd) hk).trans (Core.loadEnds_getX _ v hrd)
  case others => exact (Dev.core_modCore_ne _ _ _ _ hx).trans (Dev.core_modCore_ne _ _ _ _ hx)

/-- Settles O24: the fences by what is under way, the response by the load that waits for it, the timers by the time. -/
theorem orderingAndTimersComplete : Obligations.OrderingAndTimersComplete := by
  intro s u c w
  refine ⟨fun hi hd ho => ⟨_, exec_fence_of hi hd, ?done⟩, fun hi hd ho => ⟨_, exec_fence_of hi hd, ?waits⟩,
    fun hi hd => ⟨_, exec_fenceI_of hi hd, ?fenceI⟩,
    fun id q v rd form hq hst hop hfill hcore hstall hrd hform => memoryResponse_completes hq hst hop hfill hcore hstall hrd hform,
    fun r hr => ⟨fun hlate => ⟨_, exec_reservationTimeout c s, ?ends⟩, fun hsoon => ⟨_, exec_reservationTimeout c s, ?kept⟩⟩,
    fun ht => ⟨_, exec_timecmpMatch c s, ?timer⟩⟩
  case done => exact State.perform_fence hd ▸ State.fenceOp_of_done ho
  case waits => exact State.perform_fence hd ▸ State.fenceOp_of_storesOut ho
  case fenceI => exact State.perform_fenceI hd ▸ State.retire_onlyCore 4
  case ends => exact State.onDev_congr (congrArg (s.dev.setCore c) (if_pos (by simpa [hr] using hlate)))
  case kept => exact State.onDev_congr (congrArg (s.dev.setCore c) (if_neg (by simpa [hr] using hsoon)))
  case timer => exact State.onDev_congr (congrArg (s.dev.setCore c) (if_pos ht))

/-- Settles O25: the trap on a core field by field, then the two commands that take one. -/
theorem trapsAreTaken : Obligations.TrapsAreTaken := by
  refine ⟨fun k now cause tval deferred fr => ?core, fun s u c => ⟨exec_environmentCall_of, fun i hi hup hs => ?interrupt⟩⟩
  case core =>
    obtain ⟨hx, hf, hfcsr, htask⟩ := k.trap_registers now cause tval deferred fr
    exact ⟨rfl, rfl, rfl, rfl, k.trapStatus_mie, k.trapStatus_mpie, k.trapStatus_mpp, rfl, rfl, k.vector_of_exception, rfl,
      hx, hf, hfcsr, htask, fun a ha => k.trap_sram_out _ _ _ _ _ ha, fun i hi => k.trap_sram_frame _ _ _ _ _ hi⟩
  case interrupt =>
    have htrap := s.dev.trap_core s.now c (BitVec.ofNat 64 (2 ^ 63 + i)) 0 false
    refine ⟨_, exec_interruptTake_of hi hup hs, rfl, congrArg Core.mcause htrap, congrArg Core.mepc htrap, ?_⟩
    have hmem := State.interrupt_mem hi
    simp only [List.mem_cons, List.not_mem_nil, or_false] at hmem
    omega

end Sys2Proof.Machine
end

section
/-! Loads, stores and atomic instructions (R96 … R100, R107): the local window, translation, requests to device memory. -/

namespace Sys2Proof.Machine

theorem OnlyCore.reqs {u t : State} {c : CoreIx} {k : Core} (h : OnlyCore u t c k) : t.dev.reqs = u.dev.reqs := by
  rw [OnlyCore] at h
  subst h
  rfl

-- translation and requests

/-- Recording an event touches no core. -/
theorem State.record_core (s : State) (src : Src) (a b n : Nat) : (s.record src a b n).dev.core = s.dev.core := by
  have hcores : (s.record src a b n).dev.cores = s.dev.cores := Dev.record_cores ..
  exact funext fun c => congrArg (fun l => Tbl.get ({} : Core) l c.val) hcores

/-- A translation for a load touches no core. -/
theorem State.xlate_load_core (s : State) (k : ClusterIx) (asid va : Nat) : (s.xlate k asid va .load).2.dev.core = s.dev.core := by
  unfold State.xlate
  split
  · rfl
  · have hload : Access.load ≠ .store := Access.noConfusion
    dsimp only
    rw [if_neg fun h => hload h.1, if_neg fun h => hload h.1]
    split
    · rfl
    · exact State.record_core ..

theorem inWindow_eq_false {va : Nat} (h : va < windowBase) : inWindow va = false := decide_eq_false (by omega)

theorem lt_of_inWindow {va : Nat} (h : inWindow va = true) : va < 2 ^ 52 := (of_decide_eq_true h).2

theorem lt_of_lt_windowBase {va : Nat} (h : va < windowBase) : va < 2 ^ 52 := Nat.lt_trans h (by decide)

-- what an SC on local SRAM leaves of its core (R100)

/-- The core after an SC on local SRAM: it has written only while the reservation on the line was held. -/
def Core.scEnds (k : Core) (now va n x : Nat) (rd : RegNum) : Core :=
  ({ (if k.holdsLine now (va / 128) then k.sramWrite (va - windowBase) (leBytes n x) else k) with resv := none }.setX rd
    (if k.holdsLine now (va / 128) then 0 else 1)).retire

theorem Core.scEnds_resv (k : Core) (now va n x : Nat) (rd : RegNum) : (k.scEnds now va n x rd).resv = none := Core.setX_resv ..

theorem Core.scEnds_getX (k : Core) (now va n x : Nat) {rd : RegNum} (h : rd.val ≠ 0) :
    (k.scEnds now va n x rd).getX rd = if k.holdsLine now (va / 128) then 0 else 1 := Core.getX_setX_self _ _ h

theorem Core.scEnds_sram (k : Core) (now va n x : Nat) (rd : RegNum) : (k.scEnds now va n x rd).sram =
    if k.holdsLine now (va / 128) then (k.sramWrite (va - windowBase) (leBytes n x)).sram else k.sram :=
  (Core.setX_sram ..).trans (apply_ite Core.sram ..)

section
variable {s v : State} {c : CoreIx} {va asid pa : Nat} {acc : Access}

/-- An access that the cluster's translation cache translates goes on at its physical address. -/
theorem State.deviceAccess_of_ok (ha : (s.dev.core c).asid = some asid) (hx : s.xlate (coreCluster c) asid va acc = (.ok pa, v))
    (f : Nat → State → State) : s.deviceAccess c va acc f = f pa v := by
  unfold State.deviceAccess
  rw [ha]
  dsimp only
  rw [hx]

theorem State.request_reqs (s : State) (q : Req) :
    (s.request q).2.dev.reqs.get none s.dev.nextReq = some { q with aim := s.aim q.addr } :=
  Tbl.get_set_self none s.dev.reqs s.dev.nextReq (some { q with aim := s.aim q.addr })

/-- A request of `q` that its core waits for: `t` has it on its way under the number it was given in `s`, and the core's stall names
that number. -/
def State.WaitsFor (s t : State) (q : Req) (st : Nat → Stall) : Prop :=
  t.dev.reqs.get none s.dev.nextReq = some { q with aim := s.aim q.addr } ∧ (t.dev.core q.core).stall = st s.dev.nextReq

theorem State.request_waitsFor (s : State) (q : Req) (st : Nat → Stall) : s.WaitsFor
    ((s.request q).2.onDev fun d => d.modCore q.core fun k => { k with stall := st s.dev.nextReq }) q st :=
  ⟨State.request_reqs .., by rw [State.onDev_dev, Dev.core_modCore]⟩

/-- A read that finds a free slot is on its way. -/
theorem State.requestRead_waitsFor {q : Req} (h : s.dev.slotFree q.core q.crit = true) (st : Nat → Stall) :
    s.WaitsFor (s.requestRead q st) q st := by
  rw [State.requestRead, if_pos h]
  exact s.request_waitsFor q st

-- loads

variable {k : Core} {len f3 : Nat} {fp : Bool} {rd : RegNum} {up : Upset}

/-- A load of the window that meets no uncorrectable word ends at once with the bytes read. -/
theorem State.loadAt_window (hw : inWindow va = true) (hb : (s.dev.core c).windowBad false (va - windowBase) (accSize f3) = none)
    (hp : va - windowBase ≠ submitPort) (hr : (s.dev.sramView s.now c (va - windowBase) (accSize f3) up).1.bad = []) :
    s.loadAt c len f3 fp rd va up =
      (s.onDev fun _ => (s.dev.sramView s.now c (va - windowBase) (accSize f3) up).2).onDev fun d => d.modCore c fun k =>
        (k.loaded rd f3 fp (ofLe (s.dev.sramView s.now c (va - windowBase) (accSize f3) up).1.bytes)).retire len := by
  have hlt := lt_of_inWindow hw
  unfold State.loadAt
  dsimp only
  rw [if_neg (by omega), if_pos hw, hb]
  dsimp only
  rw [if_neg hp, if_neg (not_not_intro hr)]

/-- An aligned load of a translated address below the window is a load of device memory. -/
theorem State.loadAt_device (hva : va < windowBase) (hal : va % accSize f3 = 0) (ha : (s.dev.core c).asid = some asid)
    (hx : s.xlate (coreCluster c) asid va .load = (.ok pa, v)) :
    s.loadAt c len f3 fp rd va up = v.loadDevice c len f3 fp rd va pa up := by
  have hlt := lt_of_lt_windowBase hva
  unfold State.loadAt
  dsimp only
  rw [if_neg (by omega), inWindow_eq_false hva, if_neg Bool.false_ne_true, if_neg (not_not_intro hal)]
  exact State.deviceAccess_of_ok ha hx _

/-- A load of a line that no cache near the core may hold takes a free read slot. -/
theorem State.loadDevice_uncached (hk : s.dev.core c = k) (h : (k.regionAt va).bind k.shareOf = none)
    (hfree : s.dev.slotFree c ((k.regionAt va).any Region.crit) = true) :
    s.WaitsFor (s.loadDevice c len f3 fp rd va pa up) { core := c, op := .read, va := va, addr := pa, size := accSize f3,
                                                        crit := (k.regionAt va).any Region.crit }
      fun id => .load id rd (f3 + if len = 2 then 8 else 0) fp := by
  subst hk
  unfold State.loadDevice
  dsimp only
  rw [h]
  refine State.requestRead_waitsFor ?_ _
  exact hfree

/-- A load of a line held near the core takes its bytes from there. -/
theorem State.loadDevice_near {sh : Share} {b : List Byte} (hk : s.dev.core c = k) (h : (k.regionAt va).bind k.shareOf = some sh)
    (ha : k.asid = some asid) (hn : s.nearRead c sh asid va up = (some b, v)) :
    s.loadDevice c len f3 fp rd va pa up = v.onDev fun d => d.modCore c fun k =>
      (k.loaded rd f3 fp (ofLe ((b.drop (va % 128)).take (accSize f3)))).retire len := by
  subst hk
  unfold State.loadDevice
  dsimp only
  rw [h, ha]
  dsimp only [Option.getD_some]
  rw [hn]

-- stores

variable {n x : Nat}

/-- A store to the scratchpad share writes its bytes at once. -/
theorem State.storeAt_scratch (hw : inWindow va = true) (hb : (s.dev.core c).windowBad true (va - windowBase) n = none)
    (ha : (s.dev.core c).area (va - windowBase) = .scratch) (hp : va - windowBase ≠ endPort) :
    OnlyCore s (s.storeAt c len n x va) c (((s.dev.core c).sramWrite (va - windowBase) (leBytes n x)).retire len) := by
  have hlt := lt_of_inWindow hw
  unfold State.storeAt
  dsimp only
  rw [if_neg (by omega), if_pos hw, hb]
  dsimp only
  rw [if_neg fun h => hp h.1, ha, if_neg Area.noConfusion]
  exact (OnlyCore.modCore ..).modCore_trans fun k => k.retire len

/-- An aligned store to a translated address below the window is posted. -/
theorem State.storeAt_device (hva : va < windowBase) (hal : va % n = 0) (ha : (s.dev.core c).asid = some asid)
    (hx : s.xlate (coreCluster c) asid va .store = (.ok pa, v)) : s.storeAt c len n x va =
      (v.request { core := c, op := .write, va := va, addr := pa, size := n, data := x }).2.retire c len := by
  have hlt := lt_of_lt_windowBase hva
  unfold State.storeAt
  dsimp only
  rw [if_neg (by omega), inWindow_eq_false hva, if_neg Bool.false_ne_true, if_neg (not_not_intro hal)]
  exact State.deviceAccess_of_ok ha hx _

-- atomic instructions

variable {dbl : Bool} (hn : (if dbl then 8 else 4) = n) (hal : va % n = 0)
include hn hal

theorem State.atomicAt_window (store : Bool) (hw : inWindow va = true)
    (hb : (s.dev.core c).windowBad store (va - windowBase) n = none) (loc far : Nat → State → State) :
    s.atomicAt c dbl va store loc far = loc (va - windowBase) s := by
  have hlt := lt_of_inWindow hw
  subst hn
  unfold State.atomicAt
  dsimp only
  rw [if_neg (not_not_intro hal), if_neg (by omega), if_pos hw, hb]

theorem State.atomicAt_device (store : Bool) (hva : va < windowBase) (ha : (s.dev.core c).asid = some asid)
    (hx : s.xlate (coreCluster c) asid va (if store then .store else .load) = (.ok pa, v)) (loc far : Nat → State → State) :
    s.atomicAt c dbl va store loc far = far pa v := by
  have hlt := lt_of_lt_windowBase hva
  subst hn
  unfold State.atomicAt
  dsimp only
  rw [if_neg (not_not_intro hal), if_neg (by omega), inWindow_eq_false hva, if_neg Bool.false_ne_true]
  exact State.deviceAccess_of_ok ha hx far

omit hn hal

/-- A request other than LR's needs no read slot. -/
theorem State.atomicRequest_waitsFor {q : Req} (h : q.op ≠ .lr) (rd : RegNum) (dbl : Bool) :
    s.WaitsFor (s.atomicRequest q rd dbl) q fun id => .atomic id rd dbl := by
  rw [State.atomicRequest, if_neg h]
  exact s.request_waitsFor q fun id => .atomic id rd dbl

theorem State.atomicRequest_lr_waitsFor {q : Req} (hop : q.op = .lr) (h : s.dev.slotFree q.core q.crit = true) (rd : RegNum)
    (dbl : Bool) : s.WaitsFor (s.atomicRequest q rd dbl) q fun id => .atomic id rd dbl := by
  rw [State.atomicRequest, if_pos hop]
  exact State.requestRead_waitsFor h _

variable {f5 : Nat} {a b : RegNum} (hv : ((s.dev.core c).getX a).toNat = va)
  (hd : ((s.dev.core c).getX b).toNat % 2 ^ (8 * n) = x)
include hn hal hv

/-- LR on local SRAM takes a reservation on the line (R100). -/
theorem State.lrAt_window (hw : inWindow va = true) (hb : (s.dev.core c).windowBad false (va - windowBase) n = none)
    (hr : (s.dev.sramRead s.now c (va - windowBase) n up).1.bad = []) :
    s.lrAt c dbl rd a up = (s.onDev fun _ => (s.dev.sramRead s.now c (va - windowBase) n up).2).onDev fun d => d.modCore c fun k =>
      ({ k with resv := some (va / 128, s.now) }.setX rd
        (atomicVal dbl (ofLe (s.dev.sramRead s.now c (va - windowBase) n up).1.bytes))).retire := by
  subst hn hv
  unfold State.lrAt
  dsimp only
  rw [State.atomicAt_window rfl hal false hw hb, if_neg (not_not_intro hr), State.onDev_now]

theorem State.lrAt_device (hva : va < windowBase) (ha : (s.dev.core c).asid = some asid)
    (hx : s.xlate (coreCluster c) asid va .load = (.ok pa, v)) (hfree : v.dev.slotFree c false = true) :
    v.WaitsFor (s.lrAt c dbl rd a up) { core := c, op := .lr, va := va, addr := pa, size := n } fun id => .atomic id rd dbl := by
  subst hn hv
  unfold State.lrAt
  dsimp only
  rw [State.atomicAt_device rfl hal false hva ha hx]
  refine State.atomicRequest_lr_waitsFor rfl ?_ rd dbl
  exact hfree

/-- SC on device memory without a reservation returns 1 before a request is made (log entry 76). -/
theorem State.scAt_device_of_lost (hva : va < windowBase) (ha : (s.dev.core c).asid = some asid)
    (hx : s.xlate (coreCluster c) asid va .store = (.ok pa, v)) (hr : ¬(s.dev.core c).resv.isSome = true) :
    OnlyCore v (s.scAt c dbl rd a b) c ((v.dev.core c).setX rd 1).retire := by
  subst hn hv
  have hnone : (s.dev.core c).resv.isNone = true := by simpa using hr
  unfold State.scAt
  dsimp only
  rw [State.atomicAt_device rfl hal true hva ha hx, if_pos hnone]
  exact OnlyCore.modCore ..

include hd

/-- AMO on local SRAM reads, combines and writes in the core (R169). -/
theorem State.amoAt_window (hw : inWindow va = true) (hb : (s.dev.core c).windowBad true (va - windowBase) n = none)
    (hr : (s.dev.sramRead s.now c (va - windowBase) n up).1.bad = []) :
    s.amoAt c f5 dbl rd a b up = (s.onDev fun _ => (s.dev.sramRead s.now c (va - windowBase) n up).2).onDev fun d => d.modCore c
      fun k => ((k.sramWrite (va - windowBase) (leBytes n (adderInt (amoAdder f5) (8 * n)
        (ofLe (s.dev.sramRead s.now c (va - windowBase) n up).1.bytes) x))).setX rd
          (atomicVal dbl (ofLe (s.dev.sramRead s.now c (va - windowBase) n up).1.bytes))).retire := by
  subst hn hv hd
  unfold State.amoAt
  dsimp only
  rw [State.atomicAt_window rfl hal true hw hb, if_neg (not_not_intro hr)]

/-- AMO on device memory sends one request to the adders and waits. -/
theorem State.amoAt_device (hva : va < windowBase) (ha : (s.dev.core c).asid = some asid)
    (hx : s.xlate (coreCluster c) asid va .store = (.ok pa, v)) :
    v.WaitsFor (s.amoAt c f5 dbl rd a b up) { core := c, op := .amo (amoAdder f5), va := va, addr := pa, size := n, data := x }
      fun id => .atomic id rd dbl := by
  subst hn hv hd
  unfold State.amoAt
  dsimp only
  rw [State.atomicAt_device rfl hal true hva ha hx]
  exact State.atomicRequest_waitsFor (by nofun) rd dbl

/-- SC on local SRAM writes only while the reservation on the line is held, and ends it. -/
theorem State.scAt_window (hw : inWindow va = true) (hb : (s.dev.core c).windowBad true (va - windowBase) n = none) :
    OnlyCore s (s.scAt c dbl rd a b) c ((s.dev.core c).scEnds s.now va n x rd) := by
  subst hn hv hd
  unfold State.scAt
  dsimp only
  rw [State.atomicAt_window rfl hal true hw hb]
  exact OnlyCore.modCore ..

/-- SC on device memory sends one request while it holds a reservation, and waits. -/
theorem State.scAt_device_of_resv (hva : va < windowBase) (ha : (s.dev.core c).asid = some asid)
    (hx : s.xlate (coreCluster c) asid va .store = (.ok pa, v)) (hr : (s.dev.core c).resv.isSome = true) :
    v.WaitsFor (s.scAt c dbl rd a b) { core := c, op := .sc, va := va, addr := pa, size := n, data := x }
      fun id => .atomic id rd dbl := by
  subst hn hv hd
  have hnone : ¬(s.dev.core c).resv.isNone = true := by simpa [Option.isSome_iff_ne_none] using hr
  unfold State.scAt
  dsimp only
  rw [State.atomicAt_device rfl hal true hva ha hx, if_neg hnone]
  exact State.atomicRequest_waitsFor (by nofun) rd dbl

end

-- the commands

section
variable {s u : State} {c : CoreIx} {w : Word32} {up : Upset} {f3 f5 : Nat} {fp dbl : Bool} {rd a b : RegNum} {imm : Word}

theorem exec_load_of (hi : Issues s c (wordLen w) u) (hd : decodeOf w = .load f3 false rd a imm) :
    exec (.load c w up) s = .next (u.loadAt c (wordLen w) f3 false rd ((u.dev.core c).getX a + imm).toNat up) := by
  show execLoad c w up s = _
  rw [execLoad, hd]
  dsimp only
  rw [State.runBase_of hi, State.perform, hd]
  rfl

theorem exec_store_of (hi : Issues s c (wordLen w) u) (hd : decodeOf w = .store f3 false a b imm) :
    exec (.store c w) s = .next (u.storeAt c (wordLen w) (accSize f3) (((u.dev.core c).getX b).toNat % 2 ^ (8 * accSize f3))
      ((u.dev.core c).getX a + imm).toNat) := by
  show execStore c w s = _
  rw [execStore, hd]
  dsimp only
  rw [State.runBase_of hi, State.perform, hd]
  rfl

theorem exec_amo_of (hi : Issues s c (wordLen w) u) (hd : decodeOf w = .amo f5 dbl rd a b) :
    exec (.amo c w up) s = .next (u.amoAt c f5 dbl rd a b up) := by
  show execAmo c w up s = _
  rw [execAmo, hd]
  dsimp only
  rw [State.runBase_of hi, State.perform, hd]

theorem exec_lr_of (hi : Issues s c (wordLen w) u) (hd : decodeOf w = .lr dbl rd a) :
    exec (.lr c w up) s = .next (u.lrAt c dbl rd a up) := by
  show execLr c w up s = _
  rw [execLr, hd]
  dsimp only
  rw [State.runBase_of hi, State.perform, hd]

theorem exec_sc_of (hi : Issues s c (wordLen w) u) (hd : decodeOf w = .sc dbl rd a b) :
    exec (.sc c w) s = .next (u.scAt c dbl rd a b) := by
  show execSc c w s = _
  rw [execSc, hd]
  dsimp only
  rw [State.runBase_of hi, State.perform, hd]

end

end Sys2Proof.Machine
end

section
/-! The statements of loads, stores and atomic instructions, settled. -/

namespace Sys2Proof.Machine

/-- Settles O22: loads and stores, each in the window and on device memory. -/
theorem loadsAndStoresComplete : Obligations.LoadsAndStoresComplete := by
  intro s u c w up hi
  refine ⟨fun f3 rd a imm hd => ⟨fun hw hb hp hr => ?window, fun hva hal asid pa v ha hx => ?device⟩,
    fun f3 a b imm hd => ⟨fun hw hb harea hp => ?scratch, fun hva hal asid pa v ha hx => ?posted⟩⟩
  case window => exact ⟨_, exec_load_of hi hd, State.loadAt_window hw hb hp hr⟩
  case device =>
    have hk : v.dev.core c = u.dev.core c := by
      have hcore := u.xlate_load_core (coreCluster c) asid ((u.dev.core c).getX a + imm).toNat
      rw [hx] at hcore
      exact congrFun hcore c
    have hload : exec (.load c w up) s = _ :=
      (exec_load_of hi hd).trans (congrArg Host.Outcome.next (State.loadAt_device hva hal ha hx))
    refine ⟨fun hsh hfree => ⟨_, hload, ?_⟩, fun sh b x hsh hn => ⟨_, hload, State.loadDevice_near hk hsh ha hn⟩⟩
    obtain ⟨hreq, hstall⟩ := State.loadDevice_uncached hk hsh hfree
    exact ⟨hreq, _, hstall⟩
  case scratch => exact ⟨_, exec_store_of hi hd, State.storeAt_scratch hw hb harea hp⟩
  case posted =>
    refine ⟨_, exec_store_of hi hd, ?_⟩
    rw [State.storeAt_device hva hal ha hx]
    exact ⟨State.request_reqs .., congrArg Core.pc (Dev.core_modCore ..)⟩

/-- Settles O23: AMO, LR and SC in the window, then on device memory. -/
theorem atomicsComplete : Obligations.AtomicsComplete := by
  intro s u c w up dbl rd a b hi
  dsimp only
  intro hal
  refine ⟨fun hw => ⟨fun f5 hd hb hr => ?amoLocal, fun hd hb hr => ?lrLocal, fun hd hb => ?scLocal⟩,
    fun hva asid pa v ha => ⟨fun f5 hd hx => ?amoFar, fun hd hx hfree => ?lrFar, fun hd hx => ?scFar⟩⟩
  case amoLocal => exact ⟨_, exec_amo_of hi hd, State.amoAt_window rfl hal rfl rfl hw hb hr⟩
  case lrLocal =>
    refine ⟨_, (exec_lr_of hi hd).trans (congrArg Host.Outcome.next (State.lrAt_window rfl hal rfl hw hb hr)), ?_⟩
    dsimp only [State.onDev_dev]
    rw [Dev.core_modCore]
    exact ⟨Core.setX_resv .., fun hrd => Core.getX_setX_self _ _ hrd⟩
  case scLocal =>
    exact ⟨_, exec_sc_of hi hd, _, State.scAt_window rfl hal rfl rfl hw hb, Core.scEnds_resv ..,
      fun hrd => Core.scEnds_getX _ _ _ _ _ hrd, Core.scEnds_sram ..⟩
  case amoFar => exact ⟨_, exec_amo_of hi hd, State.amoAt_device rfl hal rfl rfl hva ha hx⟩
  case lrFar =>
    obtain ⟨-, hstall⟩ := State.lrAt_device (rd := rd) (up := up) rfl hal rfl hva ha hx hfree
    exact ⟨_, exec_lr_of hi hd, hstall⟩
  case scFar =>
    refine ⟨_, exec_sc_of hi hd, ?_⟩
    split
    case isTrue hr => exact State.scAt_device_of_resv rfl hal rfl rfl hva ha hx hr
    case isFalse hr =>
      have hlost := State.scAt_device_of_lost (rd := rd) (b := b) rfl hal rfl hva ha hx hr
      refine ⟨hlost.reqs, fun hrd => ?_⟩
      rw [hlost.core]
      exact Core.getX_setX_self _ _ hrd

end Sys2Proof.Machine
end

section
/-! The bonded stack (R133 … R154): what its slices, links and registers read after a change, and what the operations that several of
its commands share can do. -/

namespace Sys2Proof.Machine

@[simp] theorem Tbl.get_modify_self {α : Type} [DecidableEq α] (d : α) (t : Tbl α) (k : Nat) (f : α → α) :
    (t.modify d k f).get d k = f (t.get d k) := Tbl.get_set_self d t k _

@[simp] theorem Dev.slice_modSlice (d : Dev) (p : PartIx) (c : ChanIx) (f : Slice → Slice) :
    (d.modSlice p c f).slice p c = f (d.slice p c) := Tbl.get_modify_self ..

@[simp] theorem Dev.slice_modReg (d : Dev) (r : Reg) (f : Word → Word) (p : PartIx) (c : ChanIx) :
    (d.modReg r f).slice p c = d.slice p c := rfl

@[simp] theorem Dev.reg_modSlice (d : Dev) (p : PartIx) (c : ChanIx) (f : Slice → Slice) (r : Reg) :
    (d.modSlice p c f).reg r = d.reg r := rfl

theorem State.when_of {b : Bool} (h : b = true) (s t : State) : s.when b t = t := h ▸ State.when_true s t

/-- The change of one register, after others that touch none, touches no other. -/
theorem RegsKept.of_modReg {s : State} {g : Dev → Dev} {d : Dev} {r : Reg} {f : Word → Word} (hg : g s.dev = d.modReg r f)
    (hd : ∀ x, d.reg x = s.dev.reg x) : RegsKept s (s.onDev g) [r] := fun x hx => by
  rw [State.onDev_dev, hg, Dev.reg_modReg_ne _ _ x _ (hx r List.mem_cons_self), hd]

/-- An event stays recorded while the register that counts it is as it was. -/
theorem Recorded.of_kept {s u t : State} {src : Src} (h : Recorded s u src)
    (hk : t.dev.reg (.errStat src.code) = u.dev.reg (.errStat src.code)) : Recorded s t src := by
  unfold Recorded
  rw [hk]
  exact h

/-- An event counts from the register as it was before. -/
theorem Recorded.of_reg {s u t : State} {src : Src} (hs : u.dev.reg (.errStat src.code) = s.dev.reg (.errStat src.code))
    (h : Recorded u t src) : Recorded s t src := ⟨h.1, hs ▸ h.2⟩

theorem Dev.msix_frame (d : Dev) (fn v : Nat) : ∃ r o, d.msix fn v = { d with regs := r, out := o } := by
  unfold Dev.msix
  dsimp only
  split <;> exact ⟨_, _, rfl⟩

theorem Dev.pushEmcy_frame (d : Dev) (e : Emcy) : ∃ l, d.pushEmcy e = { d with emcy := l } := by
  unfold Dev.pushEmcy
  split <;> exact ⟨_, rfl⟩

/-- An event touches registers, the messages that wait, and what the device has sent. -/
theorem Dev.record_frame (d : Dev) (now : Nat) (src : Src) (a b c : Nat) :
    ∃ r e o, d.record now src a b c = { d with regs := r, emcy := e, out := o } := by
  unfold Dev.record
  dsimp only
  split
  · exact ⟨_, _, _, rfl⟩
  · split <;> split
    · obtain ⟨l, hl⟩ := Dev.pushEmcy_frame _ _
      rw [hl]
      obtain ⟨r, o, h⟩ := Dev.msix_frame _ _ _
      exact ⟨_, _, _, h⟩
    · obtain ⟨l, hl⟩ := Dev.pushEmcy_frame _ _
      exact ⟨_, _, _, hl⟩
    · obtain ⟨r, o, h⟩ := Dev.msix_frame _ _ _
      exact ⟨_, _, _, h⟩
    · exact ⟨_, _, _, rfl⟩

@[simp] theorem State.record_slice (s : State) (src : Src) (a b c : Nat) (p : PartIx) (ch : ChanIx) :
    (s.record src a b c).dev.slice p ch = s.dev.slice p ch := by
  obtain ⟨r, e, o, h⟩ := s.dev.record_frame s.now src a b c
  exact congrArg (·.slice p ch) h

@[simp] theorem State.record_reqs (s : State) (src : Src) (a b c : Nat) : (s.record src a b c).dev.reqs = s.dev.reqs := by
  obtain ⟨r, e, o, h⟩ := s.dev.record_frame s.now src a b c
  exact (congrArg Dev.reqs h).trans rfl

theorem Dev.change_frame (d : Dev) (now : Nat) (c : Change) : ∃ l, d.change now c = { d with updates := l } := by
  unfold Dev.change
  split <;> exact ⟨_, rfl⟩

@[simp] theorem Dev.change_reg (d : Dev) (now : Nat) (c : Change) (r : Reg) : (d.change now c).reg r = d.reg r := by
  obtain ⟨l, h⟩ := d.change_frame now c
  exact congrArg (·.reg r) h

@[simp] theorem Dev.change_slice (d : Dev) (now : Nat) (c : Change) (p : PartIx) (ch : ChanIx) :
    (d.change now c).slice p ch = d.slice p ch := by
  obtain ⟨l, h⟩ := d.change_frame now c
  exact congrArg (·.slice p ch) h

-- the start of a retrain (R149, R151)

/-- The first attempt of a retrain runs, nothing being held, and is counted. -/
def State.RetrainStarted (s t : State) (p : PartIx) (ch : ChanIx) : Prop :=
  (t.dev.slice p ch).attempt = 1 ∧ (t.dev.slice p ch).heldAt = 0 ∧ bit (t.dev.reg (.stackChstat p ch)) 5 = true ∧
    fld (t.dev.reg (.stackChstat p ch)) 63 48 = min (fld (s.dev.reg (.stackChstat p ch)) 63 48 + 1) 0xFFFF ∧
    VolatileOnly s t ∧ RegsKept s t [.stackChstat p ch]

theorem State.startRetrain_of {s : State} {p : PartIx} {ch : ChanIx} (h : (s.dev.slice p ch).attempt = 0) :
    s.startRetrain p ch = s.onDev fun d =>
      (d.modSlice p ch fun x => { x with attempt := 1, heldAt := 0 }).modReg (.stackChstat p ch) fun w =>
        satAdd (setBit w 5 true) 63 48 1 := if_neg fun hne => hne h

theorem State.startRetrain_started {s : State} {p : PartIx} {ch : ChanIx} (h : (s.dev.slice p ch).attempt = 0) :
    s.RetrainStarted (s.startRetrain p ch) p ch := by
  rw [State.startRetrain_of h]
  refine ⟨?attempt, ?held, ?training, ?count, VolatileOnly.onDev .., RegsKept.of_modReg rfl fun _ => rfl⟩
  case attempt | held => simp only [State.onDev_dev, Dev.slice_modReg, Dev.slice_modSlice]
  case training =>
    simp only [State.onDev_dev, Dev.reg_modReg]
    exact (bit_setFld_out _ _ (by decide) (by decide) (by decide)).trans (bit_setBit_self _ _ _ (by decide))
  case count =>
    simp only [State.onDev_dev, Dev.reg_modReg, Dev.reg_modSlice]
    exact (fld_satAdd _ _ _ _ (by decide) (by decide)).trans
      (congrArg (fun n => min (n + 1) 0xFFFF) (fld_setBit_out _ _ (by decide) (by decide)))

-- what a channel refuses (R152)

/-- Nothing differs but where requests stand and what waits at the slices. -/
def State.QueuesOnly (s t : State) : Prop := ∃ r w, t = s.onDev fun d => { d with reqs := r, waits := w }

theorem State.QueuesOnly.refl (s : State) : s.QueuesOnly s := ⟨_, _, rfl⟩

theorem State.QueuesOnly.trans {s t u : State} (h : s.QueuesOnly t) (k : t.QueuesOnly u) : s.QueuesOnly u := by
  obtain ⟨r, w, rfl⟩ := h
  obtain ⟨r', w', rfl⟩ := k
  exact ⟨r', w', rfl⟩

theorem State.QueuesOnly.foldl {β : Type} {f : State → β → State} (h : ∀ (s : State) b, s.QueuesOnly (f s b)) (l : List β) (s : State) :
    s.QueuesOnly (l.foldl f s) := by
  induction l generalizing s with
  | nil => exact .refl s
  | cons b r ih => exact (h s b).trans (ih _)

theorem State.QueuesOnly.volatileOnly {s t : State} (h : s.QueuesOnly t) : VolatileOnly s t := by
  obtain ⟨r, w, rfl⟩ := h
  exact VolatileOnly.onDev ..

theorem State.QueuesOnly.reg {s t : State} (h : s.QueuesOnly t) (r : Reg) : t.dev.reg r = s.dev.reg r := by
  obtain ⟨_, _, rfl⟩ := h
  rfl

theorem State.QueuesOnly.slice {s t : State} (h : s.QueuesOnly t) (p : PartIx) (ch : ChanIx) :
    t.dev.slice p ch = s.dev.slice p ch := by
  obtain ⟨_, _, rfl⟩ := h
  rfl

theorem State.answerAll_queuesOnly (s : State) (l : List Nat) : s.QueuesOnly (s.answerAll l) :=
  .foldl (fun _ _ => ⟨_, _, rfl⟩) l s

/-- What waits is refused by slice `k`: a request at once, another access when it is made. -/
def State.refuseWaiting (k : Nat) (s : State) (w : Waiting) : State :=
  match w.tok with
  | .req id => s.answerAll [id]
  | _ => s.onDev fun d => { d with waits := d.waits.map fun x => if x.tok == w.tok then { x with refused := x.refused ++ [k] } else x }

theorem State.refuseHeld_eq (s : State) (k : Nat) (f : Waiting → Bool) :
    s.refuseHeld k f = (s.dev.waits.filter fun w => w.slices.contains k && f w).foldl (State.refuseWaiting k) s := rfl

theorem State.refuseWaiting_queuesOnly (k : Nat) (s : State) (w : Waiting) : s.QueuesOnly (s.refuseWaiting k w) := by
  unfold State.refuseWaiting
  split
  · exact s.answerAll_queuesOnly _
  · exact ⟨_, _, rfl⟩

theorem State.refuseHeld_queuesOnly (s : State) (k : Nat) (f : Waiting → Bool) : s.QueuesOnly (s.refuseHeld k f) :=
  s.refuseHeld_eq k f ▸ .foldl (State.refuseWaiting_queuesOnly k) _ s

/-- The request, answered with an error completion. -/
def Req.erred (q : Req) : Req := { q with st := .done .error }

theorem State.refuseWaiting_reqs (k : Nat) (s : State) (w : Waiting) (id : Nat) :
    (s.refuseWaiting k w).dev.reqs.get none id =
      if w.tok = .req id then (s.dev.reqs.get none id).map Req.erred else s.dev.reqs.get none id := by
  unfold State.refuseWaiting
  split
  case h_1 j hj =>
    rw [hj]
    by_cases h : j = id
    · subst h
      rw [if_pos rfl]
      exact Tbl.get_modify_self ..
    · rw [if_neg (fun e => h (Token.req.inj e))]
      exact Tbl.get_set_ne _ _ _ _ (Ne.symm h)
  case h_2 hj => rw [if_neg (hj id), State.onDev_dev]

/-- A request is answered with an error completion once something that is refused waits for it. -/
theorem State.refuseAll_reqs (k : Nat) (l : List Waiting) (s : State) (id : Nat) :
    (l.foldl (State.refuseWaiting k) s).dev.reqs.get none id =
      if ∃ w ∈ l, w.tok = .req id then (s.dev.reqs.get none id).map Req.erred else s.dev.reqs.get none id := by
  induction l generalizing s with
  | nil => simp
  | cons w r ih =>
    rw [List.foldl_cons, ih, State.refuseWaiting_reqs]
    have herred : Req.erred ∘ Req.erred = Req.erred := rfl
    by_cases hw : w.tok = .req id <;> by_cases hr : ∃ x ∈ r, x.tok = .req id <;> simp [hw, hr, herred]

/-- A request held at a slice that refuses it is answered with an error completion. -/
theorem State.refuseHeld_reqs {s : State} {k : Nat} {f : Waiting → Bool} {w : Waiting} {id : Nat} {q : Req} (hw : w ∈ s.dev.waits)
    (hk : k ∈ w.slices) (hf : f w = true) (ht : w.tok = .req id) (hq : s.dev.reqs.get none id = some q) :
    (s.refuseHeld k f).dev.reqs.get none id = some q.erred := by
  have hmem : w ∈ s.dev.waits.filter fun w => w.slices.contains k && f w :=
    List.mem_filter.2 ⟨hw, by rw [hf, List.contains_iff_mem.2 hk]; rfl⟩
  rw [State.refuseHeld_eq, State.refuseAll_reqs, if_pos ⟨w, hmem, ht⟩, hq]
  rfl

-- the end of a channel (R143, R152)

/-- The device as its channel goes down, before what waits is answered. -/
def Dev.channelGone (d : Dev) (now : Nat) (p : PartIx) (ch : ChanIx) : Dev :=
  ((d.modSlice p ch fun x => { x with attempt := 0, heldAt := 0, reissue := [], copying := none, cands := [] }).modReg
    (.stackChstat p ch) fun w => setBit (setBit w 7 true) 5 false).change now (.chanDown p ch)

theorem State.chanDown_eq (s : State) (p : PartIx) (ch : ChanIx) :
    ∃ u who, (s.onDev fun d => d.channelGone s.now p ch).QueuesOnly u ∧ s.chanDown p ch = u.record .chanDown 0 ch.val who :=
  ⟨_, _, .trans (State.answerAll_queuesOnly ..) (State.refuseHeld_queuesOnly ..), rfl⟩

theorem Reg.stackChstat_offset_lt (p : PartIx) (ch : ChanIx) : (Reg.stackChstat p ch).offset < 0x70000 := by
  simp only [Reg.offset]
  omega

theorem Reg.errRegs_offset_ge (src : Src) : ∀ x ∈ errRegs src, 0x70000 ≤ x.offset := by
  simp only [errRegs, List.mem_cons, List.not_mem_nil, or_false, forall_eq_or_imp, forall_eq, Reg.offset]
  omega

/-- No register of the error record is the status of a channel. -/
theorem Reg.stackChstat_offset_ne (p : PartIx) (ch : ChanIx) (src : Src) : ∀ x ∈ errRegs src, (Reg.stackChstat p ch).offset ≠ x.offset :=
  fun x hx => Nat.ne_of_lt (Nat.lt_of_lt_of_le (stackChstat_offset_lt p ch) (errRegs_offset_ge src x hx))

theorem State.chanDown_slice (s : State) (p : PartIx) (ch : ChanIx) : ((s.chanDown p ch).dev.slice p ch).attempt = 0 := by
  obtain ⟨u, who, hq, h⟩ := s.chanDown_eq p ch
  rw [h, State.record_slice, hq.slice, State.onDev_dev, Dev.channelGone, Dev.change_slice, Dev.slice_modReg, Dev.slice_modSlice]

theorem State.chanDown_chstat (s : State) (p : PartIx) (ch : ChanIx) :
    (s.chanDown p ch).dev.reg (.stackChstat p ch) = setBit (setBit (s.dev.reg (.stackChstat p ch)) 7 true) 5 false := by
  obtain ⟨u, who, hq, h⟩ := s.chanDown_eq p ch
  rw [h, u.record_regsKept _ _ _ _ _ (Reg.stackChstat_offset_ne p ch .chanDown), hq.reg, State.onDev_dev, Dev.channelGone,
    Dev.change_reg, Dev.reg_modReg, Dev.reg_modSlice]

theorem State.chanDown_volatileOnly (s : State) (p : PartIx) (ch : ChanIx) : VolatileOnly s (s.chanDown p ch) := by
  obtain ⟨u, who, hq, h⟩ := s.chanDown_eq p ch
  exact h ▸ (VolatileOnly.onDev ..).trans (hq.volatileOnly.trans (u.record_rest ..))

/-- Before CHAN_DOWN is recorded, STACK_CHSTAT alone has changed. -/
theorem State.channelGone_reg {s u : State} {p : PartIx} {ch : ChanIx} (h : (s.onDev fun d => d.channelGone s.now p ch).QueuesOnly u)
    {r : Reg} (hr : r.offset ≠ (Reg.stackChstat p ch).offset) : u.dev.reg r = s.dev.reg r := by
  rw [h.reg, State.onDev_dev, Dev.channelGone, Dev.change_reg, Dev.reg_modReg_ne _ _ _ _ hr, Dev.reg_modSlice]

theorem State.chanDown_regsKept (s : State) (p : PartIx) (ch : ChanIx) :
    RegsKept s (s.chanDown p ch) (.stackChstat p ch :: errRegs .chanDown) := by
  obtain ⟨u, who, hq, h⟩ := s.chanDown_eq p ch
  intro r hr
  rw [h, u.record_regsKept _ _ _ _ r fun x hx => hr x (List.mem_cons_of_mem _ hx), State.channelGone_reg hq (hr _ List.mem_cons_self)]

theorem State.chanDown_recorded (s : State) (p : PartIx) (ch : ChanIx) : Recorded s (s.chanDown p ch) .chanDown := by
  obtain ⟨u, who, hq, h⟩ := s.chanDown_eq p ch
  exact h ▸ .of_reg (State.channelGone_reg hq (Reg.stackChstat_offset_ne p ch .chanDown _ List.mem_cons_self).symm)
    (u.record_recorded ..)

end Sys2Proof.Machine
end

section
/-! The retrain of a channel, its commands and its refreshes (R149 … R152). -/

namespace Sys2Proof.Machine

variable {s : State} {o : Origin} {p : PartIx} {ch : ChanIx}

theorem stackRetrain_completes (ha : (s.dev.slice p ch).attempt = 0) (hm : s.mayWrite o (.stackChctl p ch)) :
    Completes (.stackRetrain o p ch) s fun t => s.RetrainStarted t p ch :=
  ⟨_, congrArg Host.Outcome.next (State.regWrite_may hm _), State.startRetrain_started ha⟩

theorem pllLockLoss_completes {layer : Fin 7} (ha : (s.dev.slice p ch).attempt = 0) (hp : s.dev.partUp p = true)
    (hl : layer.val ≤ s.nv.part.layers) (hd : bit (s.dev.reg (.stackChstat p ch)) 7 = false) :
    Completes (.pllLockLoss p ch layer) s fun t => s.RetrainStarted t p ch :=
  ⟨_, congrArg Host.Outcome.next (State.when_of (by simp [hp, hl, hd]) _ _), State.startRetrain_started ha⟩

-- the end of a retrain (R149 … R151)

/-- How long the first held request of a channel has been held, in ns. -/
def State.retrainHold (s : State) (p : PartIx) (ch : ChanIx) : Nat :=
  if (s.dev.slice p ch).heldAt = 0 then 0 else s.now + 1 - (s.dev.slice p ch).heldAt

/-- The device as a channel has trained after a hold, the accepted requests `kept` for reissue. -/
def Dev.channelTrained (d : Dev) (now hold : Nat) (p : PartIx) (ch : ChanIx) (kept : List Nat) : Dev :=
  (d.modSlice p ch fun x => { x with attempt := 0, heldAt := 0, deferral := [], reissue := kept
                                     dueAt := x.dueAt.map fun e => (e.1, now) }).modReg (.stackChstat p ch) fun w =>
    setBit (setFld w 47 40 (min (hold / 1000) 255)) 5 false

/-- Where nothing waits, nothing goes on. -/
theorem State.drain_of_waits_nil (h : s.dev.waits = []) (p : PartIx) (ch : ChanIx) : s.drain p ch = s := by
  simp only [State.drain, Dev.waiters, h, List.filter_nil, List.foldl_nil]

/-- A loop none of whose turns changes anything. -/
theorem foldl_of_fixed {α β : Type} {f : α → β → α} {a : α} (h : ∀ b, f a b = a) (l : List β) : l.foldl f a = a := by
  induction l with
  | nil => rfl
  | cons b r ih => rw [List.foldl_cons, h, ih]

theorem exec_channelRetrainEnd_of (ha : (s.dev.slice p ch).attempt ≠ 0) (hh : s.retrainHold p ch ≤ holdLimit)
    (hr : ¬(0 ∈ (s.dev.slice p ch).refBad ∧ 1 ∈ (s.dev.slice p ch).refBad)) (hm : ∀ u, (s.dev.link p u).moves = false)
    (hw : s.dev.waits = [] ∨ s.chanReqs p ch (· == .dram) ≠ []) :
    exec (.channelRetrainEnd p ch true) s =
      .next (s.onDev fun d => d.channelTrained s.now (s.retrainHold p ch) p ch (s.chanReqs p ch (· == .dram))) := by
  have hlinks (l : List Nat) : l.foldl (fun t u => if (t.dev.link p u).moves then t.moveToVias p u else t) s = s :=
    foldl_of_fixed (fun u => by rw [hm u]; exact if_neg Bool.false_ne_true) l
  have hrefs : ((s.dev.slice p ch).refBad.contains 0 && (s.dev.slice p ch).refBad.contains 1) = false :=
    Bool.eq_false_iff.2 fun h => by
      rw [Bool.and_eq_true] at h
      exact hr ⟨List.contains_iff_mem.1 h.1, List.contains_iff_mem.1 h.2⟩
  have hguard : (true && (s.dev.slice p ch).attempt != 0 && decide (s.retrainHold p ch ≤ holdLimit) &&
      !((s.dev.slice p ch).refBad.contains 0 && (s.dev.slice p ch).refBad.contains 1)) = true := by
    rw [bne_iff_ne.2 ha, decide_eq_true hh, hrefs]
    rfl
  show execChannelRetrainEnd p ch true s = _
  unfold execChannelRetrainEnd
  refine congrArg Host.Outcome.next ((State.when_of hguard _ _).trans ?_)
  rw [hlinks]
  by_cases hk : s.chanReqs p ch (· == .dram) = []
  · rw [if_pos hk]
    refine State.drain_of_waits_nil ?_ p ch
    exact hw.resolve_right (fun hne => hne hk)
  · rw [if_neg hk]
    rfl

theorem channelRetrainEnd_completes (ha : (s.dev.slice p ch).attempt ≠ 0) (hh : s.retrainHold p ch ≤ holdLimit)
    (hr : ¬(0 ∈ (s.dev.slice p ch).refBad ∧ 1 ∈ (s.dev.slice p ch).refBad)) (hm : ∀ u, (s.dev.link p u).moves = false)
    (hw : s.dev.waits = [] ∨ s.chanReqs p ch (· == .dram) ≠ []) :
    Completes (.channelRetrainEnd p ch true) s fun t =>
      (t.dev.slice p ch).attempt = 0 ∧ bit (t.dev.reg (.stackChstat p ch)) 5 = false ∧
      (t.dev.slice p ch).reissue = s.chanReqs p ch (· == .dram) ∧ t.dev.waits = s.dev.waits ∧
      fld (t.dev.reg (.stackChstat p ch)) 47 40 = min (s.retrainHold p ch / 1000) 255 ∧ VolatileOnly s t ∧
      RegsKept s t [.stackChstat p ch] := by
  refine ⟨_, exec_channelRetrainEnd_of ha hh hr hm hw, ?attempt, ?training, ?reissue, rfl, ?lastHold, VolatileOnly.onDev ..,
    RegsKept.of_modReg rfl fun _ => rfl⟩
  case attempt | reissue => simp only [State.onDev_dev, Dev.channelTrained, Dev.slice_modReg, Dev.slice_modSlice]
  case training =>
    simp only [State.onDev_dev, Dev.channelTrained, Dev.reg_modReg]
    exact bit_setBit_self _ _ _ (by decide)
  case lastHold =>
    simp only [State.onDev_dev, Dev.channelTrained, Dev.reg_modReg]
    rw [fld_setBit_out _ _ (by decide) (by decide), fld_setFld_self _ _ _ _ (by decide) (by decide)]
    exact Nat.mod_eq_of_lt (by omega)

-- a hold that has lasted too long (R152)

/-- The held requests are answered with error completions. -/
def State.holdRefused (s : State) (p : PartIx) (ch : ChanIx) : State :=
  (s.refuseHeld (sliceNo p ch) fun w => w.hold == .retrain).onDev fun d => d.modSlice p ch fun x => { x with heldAt := 0 }

/-- The held requests are answered with error completions and CHAN_HOLD is recorded. -/
def State.holdEnded (s : State) (p : PartIx) (ch : ChanIx) : State :=
  (s.holdRefused p ch).record .chanHold 0 (256 * (s.dev.slice p ch).attempt + ch.val) ((s.holdRefused p ch).dev.sliceId p ch)

theorem exec_retrainHoldTimeout_of (ha : (s.dev.slice p ch).attempt ≠ 0) (hh : (s.dev.slice p ch).heldAt ≠ 0)
    (hl : (s.dev.slice p ch).heldAt + holdLimit ≤ s.now + 1) :
    exec (.retrainHoldTimeout p ch) s = .next (if 3 ≤ (s.dev.slice p ch).attempt then (s.holdEnded p ch).chanDown p ch
      else (s.holdEnded p ch).onDev fun d => d.modSlice p ch fun x => { x with attempt := x.attempt + 1 }) :=
  congrArg Host.Outcome.next (State.when_of (by simp [ha, hh, hl]) _ _)

theorem State.holdRefused_reg (s : State) (p : PartIx) (ch : ChanIx) (r : Reg) : (s.holdRefused p ch).dev.reg r = s.dev.reg r :=
  (s.refuseHeld_queuesOnly ..).reg r

theorem State.holdEnded_slice (s : State) (p : PartIx) (ch : ChanIx) :
    (s.holdEnded p ch).dev.slice p ch = { s.dev.slice p ch with heldAt := 0 } := by
  rw [State.holdEnded, State.record_slice, State.holdRefused, State.onDev_dev, Dev.slice_modSlice,
    (State.refuseHeld_queuesOnly ..).slice]

theorem State.holdEnded_volatileOnly (s : State) (p : PartIx) (ch : ChanIx) : VolatileOnly s (s.holdEnded p ch) :=
  (s.refuseHeld_queuesOnly ..).volatileOnly.trans ((VolatileOnly.onDev ..).trans (State.record_rest ..))

theorem State.holdEnded_regsKept (s : State) (p : PartIx) (ch : ChanIx) : RegsKept s (s.holdEnded p ch) (errRegs .chanHold) :=
  fun r hr => (State.record_regsKept _ _ _ _ _ r hr).trans (s.holdRefused_reg p ch r)

theorem State.holdEnded_recorded (s : State) (p : PartIx) (ch : ChanIx) : Recorded s (s.holdEnded p ch) .chanHold :=
  .of_reg (s.holdRefused_reg p ch _) (State.record_recorded ..)

theorem State.holdEnded_reqs {w : Waiting} {id : Nat} {q : Req} (hw : w ∈ s.dev.waits) (hh : w.hold = .retrain)
    (hk : sliceNo p ch ∈ w.slices) (ht : w.tok = .req id) (hq : s.dev.reqs.get none id = some q) :
    (s.holdEnded p ch).dev.reqs.get none id = some { q with st := .done .error } := by
  rw [State.holdEnded, State.record_reqs]
  exact State.refuseHeld_reqs hw hk (beq_iff_eq.2 hh) ht hq

/-- The registers of CHAN_HOLD's record are none of those a channel that goes down changes. -/
theorem Reg.errStat_chanHold_offset_ne (p : PartIx) (ch : ChanIx) : ∀ x ∈ Reg.stackChstat p ch :: errRegs .chanDown,
    (Reg.errStat Src.chanHold.code).offset ≠ x.offset := by
  simp only [errRegs, List.mem_cons, List.not_mem_nil, or_false, forall_eq_or_imp, forall_eq, Reg.offset, Src.code]
  omega

/-- The registers of CHAN_DOWN's record are none of CHAN_HOLD's. -/
theorem Reg.errStat_chanDown_offset_ne : ∀ x ∈ errRegs .chanHold, (Reg.errStat Src.chanDown.code).offset ≠ x.offset := by
  decide

theorem retrainHoldTimeout_again (ha : (s.dev.slice p ch).attempt ≠ 0) (hh : (s.dev.slice p ch).heldAt ≠ 0)
    (hl : (s.dev.slice p ch).heldAt + holdLimit ≤ s.now + 1) (h3 : (s.dev.slice p ch).attempt < 3) :
    Completes (.retrainHoldTimeout p ch) s fun t => (t.dev.slice p ch).attempt = (s.dev.slice p ch).attempt + 1 ∧
      (t.dev.slice p ch).heldAt = 0 ∧
      (∀ w ∈ s.dev.waits, w.hold = .retrain → sliceNo p ch ∈ w.slices → ∀ id, w.tok = .req id →
        ∀ q, s.dev.reqs.get none id = some q → t.dev.reqs.get none id = some { q with st := .done .error }) ∧
      Recorded s t .chanHold ∧ VolatileOnly s t ∧ RegsKept s t (errRegs .chanHold) := by
  refine ⟨_, (exec_retrainHoldTimeout_of ha hh hl).trans (congrArg _ (if_neg (by omega))), ?attempt, ?held,
    fun w hw hold hk id ht q hq => State.holdEnded_reqs hw hold hk ht hq, s.holdEnded_recorded p ch,
    (s.holdEnded_volatileOnly p ch).trans (VolatileOnly.onDev ..), s.holdEnded_regsKept p ch⟩ <;>
  rw [State.onDev_dev, Dev.slice_modSlice, State.holdEnded_slice]

theorem retrainHoldTimeout_down (ha : (s.dev.slice p ch).attempt ≠ 0) (hh : (s.dev.slice p ch).heldAt ≠ 0)
    (hl : (s.dev.slice p ch).heldAt + holdLimit ≤ s.now + 1) (h3 : 3 ≤ (s.dev.slice p ch).attempt) :
    Completes (.retrainHoldTimeout p ch) s fun t => (t.dev.slice p ch).attempt = 0 ∧
      bit (t.dev.reg (.stackChstat p ch)) 7 = true ∧ bit (t.dev.reg (.stackChstat p ch)) 5 = false ∧ Recorded s t .chanHold ∧
      Recorded s t .chanDown ∧ VolatileOnly s t ∧ RegsKept s t (.stackChstat p ch :: errRegs .chanHold ++ errRegs .chanDown) := by
  have hkept := (s.holdEnded p ch).chanDown_regsKept p ch
  have hrec := (s.holdEnded_recorded p ch).of_kept (hkept _ (Reg.errStat_chanHold_offset_ne p ch))
  have hdown := (s.holdEnded p ch).chanDown_recorded p ch
  refine ⟨_, (exec_retrainHoldTimeout_of ha hh hl).trans (congrArg _ (if_pos h3)), State.chanDown_slice .., ?down, ?training, hrec,
    .of_reg (s.holdEnded_regsKept p ch _ Reg.errStat_chanDown_offset_ne) hdown,
    (s.holdEnded_volatileOnly p ch).trans (State.chanDown_volatileOnly ..),
    ((s.holdEnded_regsKept p ch).mono ?_).trans (hkept.mono ?_)⟩
  case down =>
    rw [State.chanDown_chstat, bit_setBit_ne _ _ (by decide) (by decide), bit_setBit_self _ _ _ (by decide)]
  case training => rw [State.chanDown_chstat, bit_setBit_self _ _ _ (by decide)]
  · exact fun x hx => List.mem_append_left _ (List.mem_cons_of_mem _ hx)
  · intro x hx
    rcases List.mem_cons.1 hx with rfl | hx
    · exact List.mem_append_left _ List.mem_cons_self
    · exact List.mem_append_right _ hx

-- OFFLINE, the count of CRC errors, refreshes (R150, R152)

theorem stackOfflineWrite_completes {v : Word} (hm : s.mayWrite o (.stackChctl p ch)) (hv : bit v 0 = false) :
    Completes (.stackOfflineWrite o p ch v) s fun t =>
      t.dev.reg (.stackChctl p ch) = v &&& 4 ∧ bit (t.dev.reg (.stackChstat p ch)) 6 = bit v 2 ∧ VolatileOnly s t ∧
      RegsKept s t [.stackChctl p ch, .stackChstat p ch] := by
  have hne : (Reg.stackChctl p ch).offset ≠ (Reg.stackChstat p ch).offset := by
    simp only [Reg.offset]
    omega
  have hwrite : s.chctlWrite p ch v = s.onDev fun d =>
      (d.setReg (.stackChctl p ch) (v &&& 4)).modReg (.stackChstat p ch) fun w => setBit w 6 (bit v 2) :=
    if_neg (by rw [hv]; exact Bool.false_ne_true)
  refine ⟨_, congrArg Host.Outcome.next ((State.regWrite_may hm _).trans hwrite), ?ctl, ?stat, VolatileOnly.onDev .., fun r hr => ?_⟩
  case ctl => rw [State.onDev_dev, Dev.reg_modReg_ne _ _ _ _ hne, Dev.reg_setReg]
  case stat => rw [State.onDev_dev, Dev.reg_modReg, bit_setBit_self _ _ _ (by decide)]
  simp only [List.mem_cons, List.not_mem_nil, or_false, forall_eq_or_imp, forall_eq] at hr
  rw [State.onDev_dev, Dev.reg_modReg_ne _ _ _ _ hr.2, Dev.reg_setReg_ne _ _ _ _ hr.1]

theorem stackChstatRead_completes (hm : s.mayRead o (.stackChstat p ch)) :
    Completes (.stackChstatRead o p ch) s fun t =>
      t.dev.out = s.dev.out ++ [.read (originFn o) (Reg.stackChstat p ch).offset (s.dev.reg (.stackChstat p ch))] ∧
      fld (t.dev.reg (.stackChstat p ch)) 31 16 = 0 ∧ VolatileOnly s t ∧ RegsKept s t [.stackChstat p ch] := by
  refine ⟨_, congrArg Host.Outcome.next (State.readClear_may hm _), rfl, ?_, VolatileOnly.onDev .., fun r hr => ?_⟩
  · rw [State.onDev_dev, Dev.reg_emit, Dev.reg_modReg]
    have hrc : (Reg.stackChstat p ch).rc = 0xFFFF0000#64 := rfl
    have hreset : (Reg.stackChstat p ch).reset = 0#64 := rfl
    rw [hreset, BitVec.zero_and, BitVec.or_zero, hrc]
    exact fld_and_zero _ _ _ _ (by decide)
  · rw [State.onDev_dev, Dev.reg_emit, Dev.reg_modReg_ne _ _ _ _ (hr _ List.mem_cons_self)]

theorem refreshDue_completes {dl : Fin 6} {bank : Fin 16} (busy : Bool) (hp : s.dev.partUp p = true)
    (hl : dl.val < s.nv.part.layers) (ha : (s.dev.slice p ch).attempt = 0)
    (hd : 8 ≤ (s.dev.slice p ch).deferral.get 0 (16 * dl.val + bank.val) ∨
      (s.dev.slice p ch).dueAt.get 0 (16 * dl.val + bank.val) + s.dev.refreshInterval p dl.val ≤ s.now) :
    Completes (.refreshDue p ch dl bank busy) s fun t =>
      (t.dev.slice p ch).dueAt.get 0 (16 * dl.val + bank.val) = s.now ∧
      (t.dev.slice p ch).deferral.get 0 (16 * dl.val + bank.val) =
        (if busy && decide ((s.dev.slice p ch).deferral.get 0 (16 * dl.val + bank.val) < 8) then
          (s.dev.slice p ch).deferral.get 0 (16 * dl.val + bank.val) + 1 else 0) ∧
      (∀ j, j ≠ 16 * dl.val + bank.val → (t.dev.slice p ch).deferral.get 0 j = (s.dev.slice p ch).deferral.get 0 j) ∧
      VolatileOnly s t ∧ RegsKept s t [] := by
  refine ⟨_, congrArg Host.Outcome.next (State.when_of (by simpa [hp, hl, ha] using hd) _ _), ?due, ?deferral, fun j hj => ?others,
    VolatileOnly.onDev .., fun _ _ => rfl⟩ <;>
  rw [State.onDev_dev, Dev.slice_modSlice]
  case due | deferral => exact Tbl.get_set_self ..
  case others => exact Tbl.get_set_ne _ _ _ _ hj

/-- Settles O39, command by command. -/
theorem stackChannelsComplete : Obligations.StackChannelsComplete :=
  fun _ _ _ _ _ _ _ busy _ =>
    ⟨fun ha => ⟨stackRetrain_completes ha, pllLockLoss_completes ha⟩, channelRetrainEnd_completes, rfl,
      fun ha hh hl => ⟨retrainHoldTimeout_again ha hh hl, retrainHoldTimeout_down ha hh hl⟩, stackOfflineWrite_completes,
      stackChstatRead_completes, refreshDue_completes busy⟩

end Sys2Proof.Machine
end

section
/-! Coupling links: beats and what a test that finds no failing via line does (R136 … R148). -/

namespace Sys2Proof.Machine

@[simp] theorem Dev.link_modLink (d : Dev) (p : PartIx) (u : Nat) (f : Coupling → Coupling) :
    (d.modLink p u f).link p u = f (d.link p u) := Tbl.get_modify_self ..

@[simp] theorem Dev.reg_modLink (d : Dev) (p : PartIx) (u : Nat) (f : Coupling → Coupling) (r : Reg) :
    (d.modLink p u f).reg r = d.reg r := rfl

@[simp] theorem Dev.link_modReg (d : Dev) (r : Reg) (f : Word → Word) (p : PartIx) (u : Nat) :
    (d.modReg r f).link p u = d.link p u := rfl

@[simp] theorem Dev.link_modSlice (d : Dev) (p : PartIx) (c : ChanIx) (f : Slice → Slice) (u : Nat) :
    (d.modSlice p c f).link p u = d.link p u := rfl

@[simp] theorem Dev.slice_modLink (d : Dev) (p : PartIx) (u : Nat) (f : Coupling → Coupling) (c : ChanIx) :
    (d.modLink p u f).slice p c = d.slice p c := rfl

theorem fld_wrapAdd (w : Word) (hi lo n : Nat) (hi64 : hi < 64) (hlo : lo ≤ hi) :
    fld (wrapAdd w hi lo n) hi lo = (fld w hi lo + n) % 2 ^ (hi + 1 - lo) := fld_setFld_self w hi lo _ hi64 hlo

-- the outcome of a test

theorem Coupling.fix_of_no_vias (x : Coupling) {t : LinkTest} (h : t.vias = []) :
    x.fix t = { spares := x.spares, steered := [], failing := [], short := false } := by
  simp [Coupling.fix, h, nub]

/-- The link after a test in service that finds no failing via line: `bad` where a coil fails, `moved` where the link is to move. -/
def Coupling.tested (x : Coupling) (kind : Nat) (bad moved : Bool) : Coupling :=
  { x with failing := [], suspect := if kind = 1 then x.suspect || (bad && !x.onVias) else false
           moves := x.moves || (moved && kind == 2) }

/-- RESULT of such a test. -/
def coilResult (bad moved : Bool) : Nat := if moved then 2 else if bad then 1 else 0

theorem testResult_of_no_vias (bad moved onVias : Bool) (n : Nat) :
    testResult bad moved { spares := n, steered := [], failing := [], short := false } onVias = coilResult bad moved := by
  simp [testResult, coilResult]

-- the report of a test (R147)

theorem Dev.report_frame (d : Dev) (now : Nat) (p : PartIx) (kind result spares : Nat) (t : LinkTest) :
    ∃ r, d.report now p kind result spares t = { d with regs := r } := by
  unfold Dev.report
  dsimp only
  split <;> exact ⟨_, rfl⟩

@[simp] theorem Dev.report_link (d : Dev) (now : Nat) (p : PartIx) (kind result spares : Nat) (t : LinkTest) (u : Nat) :
    (d.report now p kind result spares t).link p u = d.link p u := by
  obtain ⟨r, h⟩ := d.report_frame now p kind result spares t
  exact congrArg (·.link p u) h

@[simp] theorem Dev.report_slice (d : Dev) (now : Nat) (p : PartIx) (kind result spares : Nat) (t : LinkTest) (c : ChanIx) :
    (d.report now p kind result spares t).slice p c = d.slice p c := by
  obtain ⟨r, h⟩ := d.report_frame now p kind result spares t
  exact congrArg (·.slice p c) h

/-- A pass without a GUARD bit and without a failing reference line counts, and writes no entry. -/
theorem Dev.report_of_pass {t : LinkTest} (hg : t.guard = 0) (hr : t.refs = []) (d : Dev) (now : Nat) (p : PartIx) (kind spares : Nat) :
    d.report now p kind 0 spares t = d.modReg (.stackStptr p) fun w => wrapAdd w 63 32 1 := by
  simp [Dev.report, hg, hr]

theorem Reg.stackStptr_offset_ne_stest (p : PartIx) (i : Fin 128) : (Reg.stackStptr p).offset ≠ (Reg.stackStest p i).offset := by
  simp only [Reg.offset]
  omega

/-- Any other RESULT writes an entry, and the write index moves on. -/
theorem Dev.report_stptr_of_fail {result : Nat} (h : result ≠ 0) (d : Dev) (now : Nat) (p : PartIx) (kind spares : Nat) (t : LinkTest) :
    (d.report now p kind result spares t).reg (.stackStptr p) =
      wrapAdd (setFld (d.reg (.stackStptr p)) 5 0 (fld (d.reg (.stackStptr p)) 5 0 + 1)) 63 32 1 := by
  have hwrite : decide (result ≠ 0 ∨ t.guard % 16 ≠ 0 ∨ t.refs ≠ []) = true := decide_eq_true (.inl h)
  unfold Dev.report
  dsimp only
  rw [hwrite, if_pos rfl, Dev.reg_modReg, if_pos rfl, Dev.reg_setReg_ne _ _ _ _ (Reg.stackStptr_offset_ne_stest p _),
    Dev.reg_setReg_ne _ _ _ _ (Reg.stackStptr_offset_ne_stest p _)]

-- a test that finds no failing via line

/-- The state after such a test, reported; what follows from a link that is to move is not yet done. -/
def State.coilTested (s : State) (p : PartIx) (kind : Nat) (t : LinkTest) (bad moved : Bool) : State :=
  s.onDev fun d => ((d.modSlice p (linkChan t.unit) fun y => { y with refBad := nub (y.refBad ++ []) }).modLink p t.unit fun x =>
    x.tested kind bad moved).report s.now p kind (coilResult bad moved) (s.dev.link p t.unit).spares { t with refs := [] }

theorem State.linkTest_of_no_vias {s : State} {p : PartIx} {kind : Nat} {t : LinkTest} {bad moved : Bool} (hkind : kind ≠ 0)
    (hv : t.vias = []) (hbad : decide (t.coils ≠ []) = bad)
    (hmoved : (bad && !(s.dev.link p t.unit).onVias && kind != 1) = moved) :
    s.linkTest p kind t = if moved = true ∧ kind = 2 then (s.coilTested p kind t bad moved).startRetrain p (linkChan t.unit)
      else s.coilTested p kind t bad moved := by
  subst hmoved
  subst hbad
  have hfix := (s.dev.link p t.unit).fix_of_no_vias (t := { t with refs := [] }) hv
  unfold State.linkTest
  simp only [hfix, testResult_of_no_vias, List.foldl_nil, ne_eq, not_true_eq_false, if_false, hkind, and_false,
    Bool.not_false, if_true, Bool.or_false]
  rfl

/-- A periodic test moves no link (R145). -/
theorem State.periodicTest_of_no_vias {s : State} {p : PartIx} {t : LinkTest} {bad : Bool} (hv : t.vias = [])
    (hbad : decide (t.coils ≠ []) = bad) : s.linkTest p 1 t = s.coilTested p 1 t bad false :=
  (State.linkTest_of_no_vias Nat.one_ne_zero hv hbad (Bool.and_false _)).trans (if_neg fun h => Bool.false_ne_true h.1)

/-- A clean confirmation has no effect beyond the link and the report (R138). -/
theorem State.confirmTest_of_clean {s : State} {p : PartIx} {t : LinkTest} (hv : t.vias = []) (hc : t.coils = []) :
    s.linkTest p 2 t = s.coilTested p 2 t false false :=
  (State.linkTest_of_no_vias (by decide) hv (decide_eq_false fun hne => hne hc) rfl).trans (if_neg fun h => Bool.false_ne_true h.1)

/-- A confirmation that fails starts a retrain of the channel, which moves the link (R146). -/
theorem State.confirmTest_of_bad {s : State} {p : PartIx} {t : LinkTest} (hv : t.vias = []) (hc : t.coils ≠ [])
    (ho : (s.dev.link p t.unit).onVias = false) :
    s.linkTest p 2 t = (s.coilTested p 2 t true true).startRetrain p (linkChan t.unit) :=
  (State.linkTest_of_no_vias (by decide) hv (decide_eq_true hc) (by rw [ho]; rfl)).trans (if_pos ⟨rfl, rfl⟩)

variable (s : State) (p : PartIx) (kind : Nat) (t : LinkTest) (bad moved : Bool)

theorem State.coilTested_volatileOnly : VolatileOnly s (s.coilTested p kind t bad moved) := VolatileOnly.onDev ..

@[simp] theorem State.coilTested_link :
    (s.coilTested p kind t bad moved).dev.link p t.unit = (s.dev.link p t.unit).tested kind bad moved := by
  rw [State.coilTested, State.onDev_dev, Dev.report_link, Dev.link_modLink, Dev.link_modSlice]

theorem State.coilTested_attempt :
    ((s.coilTested p kind t bad moved).dev.slice p (linkChan t.unit)).attempt = (s.dev.slice p (linkChan t.unit)).attempt := by
  rw [State.coilTested, State.onDev_dev, Dev.report_slice, Dev.slice_modLink, Dev.slice_modSlice]

/-- A clean test advances TESTS and touches no other register. -/
theorem State.coilTested_reg_of_clean {t : LinkTest} (hg : t.guard = 0) (r : Reg) :
    (s.coilTested p kind t false false).dev.reg r = (s.dev.modReg (.stackStptr p) fun w => wrapAdd w 63 32 1).reg r :=
  congrArg (·.reg r) (Dev.report_of_pass (t := { t with refs := [] }) hg rfl _ s.now p kind _)

theorem State.coilTested_stptr_of_bad : (s.coilTested p kind t true moved).dev.reg (.stackStptr p) =
    wrapAdd (setFld (s.dev.reg (.stackStptr p)) 5 0 (fld (s.dev.reg (.stackStptr p)) 5 0 + 1)) 63 32 1 := by
  have hfail : coilResult true moved ≠ 0 := by cases moved <;> decide
  rw [State.coilTested, State.onDev_dev, Dev.report_stptr_of_fail hfail, Dev.reg_modLink, Dev.reg_modSlice]

end Sys2Proof.Machine
end

section
/-! The commands of the coupling links (R138, R145, R146). -/

namespace Sys2Proof.Machine

variable {s : State} {p : PartIx}

-- beats

section
variable {u : Fin 224} {lane : Fin 64} {pay chk : Nat} (hp : s.dev.partUp p = true) (hu : s.nv.part.hasLink u.val = true)
  (hl : lane.val < linkLanes (s.dev.link p u.val) u.val)
include hp hu hl

theorem exec_couplingBeatReceive_of : exec (.couplingBeatReceive p u lane pay chk) s = .next (s.onDev fun d =>
    if crc12 500 pay 0 = chk % 4096 then d.modLink p u.val fun x => x.accept lane.val (pay % 2 ^ 500)
    else (d.modReg (.stackChstat p (linkChan u.val)) fun w => satAdd w 31 16 1).modLink p u.val fun x => x.reject s.now lane.val) :=
  congrArg Host.Outcome.next (State.when_of (by rw [hp, hu, decide_eq_true hl]; rfl) _ _)

theorem couplingBeatReceive_passed (hc : crc12 500 pay 0 = chk % 4096) :
    Completes (.couplingBeatReceive p u lane pay chk) s fun t =>
      (t.dev.link p u.val).sent.get [] lane.val =
        (let l := (s.dev.link p u.val).sent.get [] lane.val ++ [pay % 2 ^ 500]
         l.drop (l.length - 8)) ∧
      lane.val ∉ (t.dev.link p u.val).again ∧ (t.dev.link p u.val).suspect = (s.dev.link p u.val).suspect ∧ VolatileOnly s t ∧
      RegsKept s t [] := by
  refine ⟨_, exec_couplingBeatReceive_of hp hu hl, ?_⟩
  simp only [if_pos hc, State.onDev_dev, Dev.link_modLink]
  exact ⟨Tbl.get_set_self .., fun h => bne_iff_ne.1 (List.mem_filter.1 h).2 rfl, rfl, VolatileOnly.onDev .., fun _ _ => rfl⟩

theorem couplingBeatReceive_failed (hc : crc12 500 pay 0 ≠ chk % 4096) :
    Completes (.couplingBeatReceive p u lane pay chk) s fun t =>
      fld (t.dev.reg (.stackChstat p (linkChan u.val))) 31 16 =
        min (fld (s.dev.reg (.stackChstat p (linkChan u.val))) 31 16 + 1) 0xFFFF ∧
      ((t.dev.link p u.val).suspect = true ↔ (s.dev.link p u.val).suspect = true ∨
        16 < (((s.dev.link p u.val).failTimes.filter fun f => decide (s.now ≤ f + 1000000)).length + 1)) ∧
      lane.val ∈ (t.dev.link p u.val).again ∧ (t.dev.link p u.val).sent = (s.dev.link p u.val).sent ∧
      VolatileOnly s t ∧ RegsKept s t [.stackChstat p (linkChan u.val)] := by
  refine ⟨_, exec_couplingBeatReceive_of hp hu hl, ?_⟩
  simp only [if_neg hc, State.onDev_dev, Dev.link_modLink, Dev.link_modReg]
  refine ⟨?count, ?suspect, ?again, rfl, VolatileOnly.onDev .., fun r hr => ?kept⟩
  case count =>
    rw [Dev.reg_modLink, Dev.reg_modReg]
    exact fld_satAdd _ _ _ _ (by decide) (by decide)
  case suspect =>
    show (_ || decide (16 < List.length (_ ++ [s.now]))) = true ↔ _
    rw [Bool.or_eq_true, decide_eq_true_eq, List.length_append]
    rfl
  case again =>
    unfold Coupling.reject
    dsimp only
    split
    case isTrue h => exact List.contains_iff_mem.1 h
    case isFalse => exact List.mem_append_right _ List.mem_cons_self
  case kept => rw [State.onDev_dev, Dev.reg_modLink, Dev.reg_modReg_ne _ _ r _ (hr _ List.mem_cons_self)]

end

-- tests in service

/-- The slot of a link has come; the next one is its successor's. -/
def State.slotTaken (s : State) (p : PartIx) (unit : Nat) : State :=
  s.onDev fun d => { d with testAt := d.testAt.set 0 p.val ((unit + 1) % 224) }

section
variable {tt : LinkTest} (hm : s.mayTest p tt.unit = true) (hr : s.dev.refreshWaits p (linkChan tt.unit) = false) (hv : tt.vias = [])
include hm hr

theorem exec_periodicTestSlot_of (hn : tt.unit = s.nextSlot p) :
    exec (.periodicTestSlot p tt) s = .next ((s.slotTaken p tt.unit).linkTest p 1 tt) := by
  have hp : s.dev.partUp p = true := by
    unfold State.mayTest at hm
    simp only [Bool.and_eq_true] at hm
    exact hm.1.1
  have hguard : (s.dev.partUp p && tt.unit == s.nextSlot p && !s.dev.refreshWaits p (linkChan tt.unit)) = true := by
    rw [hp, hr, beq_iff_eq.2 hn]
    rfl
  exact congrArg Host.Outcome.next ((State.when_of hguard _ _).trans (State.when_of hm _ _))

theorem exec_confirmTest_of (hs : (s.dev.link p tt.unit).suspect = true) : exec (.confirmTest p tt) s =
    .next ((s.linkTest p 2 tt).onDev fun d => d.modLink p tt.unit fun x => { x with failTimes := [] }) :=
  congrArg Host.Outcome.next (State.when_of (by rw [hm, hs, hr]; rfl) _ _)

include hv

theorem periodicTestSlot_clean (hg : tt.guard = 0) (hc : tt.coils = []) (hn : tt.unit = s.nextSlot p) :
    Completes (.periodicTestSlot p tt) s fun t =>
      fld (t.dev.reg (.stackStptr p)) 63 32 = (fld (s.dev.reg (.stackStptr p)) 63 32 + 1) % 2 ^ 32 ∧
      (t.dev.link p tt.unit).suspect = (s.dev.link p tt.unit).suspect ∧
      (t.dev.link p tt.unit).spares = (s.dev.link p tt.unit).spares ∧ VolatileOnly s t ∧ RegsKept s t [.stackStptr p] := by
  have hexec := exec_periodicTestSlot_of hm hr hn
  rw [State.periodicTest_of_no_vias hv (decide_eq_false fun hne => hne hc)] at hexec
  refine ⟨_, hexec, ?tests, ?suspect, ?spares, VolatileOnly.onDev .., fun r hx => ?kept⟩
  case tests =>
    rw [State.coilTested_reg_of_clean _ _ _ hg, Dev.reg_modReg]
    exact fld_wrapAdd _ _ _ _ (by decide) (by decide)
  case suspect =>
    rw [State.coilTested_link]
    exact Bool.or_false _
  case spares =>
    rw [State.coilTested_link]
    rfl
  case kept =>
    rw [State.coilTested_reg_of_clean _ _ _ hg, Dev.reg_modReg_ne _ _ _ _ (hx _ List.mem_cons_self)]
    rfl

theorem confirmTest_clean (hc : tt.coils = []) (hs : (s.dev.link p tt.unit).suspect = true) :
    Completes (.confirmTest p tt) s fun t => (t.dev.link p tt.unit).suspect = false ∧ (t.dev.link p tt.unit).failTimes = [] ∧
      VolatileOnly s t := by
  have hexec := exec_confirmTest_of hm hr hs
  rw [State.confirmTest_of_clean hv hc] at hexec
  refine ⟨_, hexec, ?suspect, ?times, VolatileOnly.onDev ..⟩ <;>
  rw [State.onDev_dev, Dev.link_modLink]
  case suspect =>
    rw [State.coilTested_link]
    rfl

theorem periodicTestSlot_failed (hc : tt.coils ≠ []) (ho : (s.dev.link p tt.unit).onVias = false) (hn : tt.unit = s.nextSlot p) :
    Completes (.periodicTestSlot p tt) s fun t => (t.dev.link p tt.unit).suspect = true ∧
      fld (t.dev.reg (.stackStptr p)) 63 32 = (fld (s.dev.reg (.stackStptr p)) 63 32 + 1) % 2 ^ 32 ∧
      fld (t.dev.reg (.stackStptr p)) 5 0 = (fld (s.dev.reg (.stackStptr p)) 5 0 + 1) % 64 ∧ VolatileOnly s t := by
  have hexec := exec_periodicTestSlot_of hm hr hn
  rw [State.periodicTest_of_no_vias hv (decide_eq_true hc)] at hexec
  refine ⟨_, hexec, ?suspect, ?tests, ?index, VolatileOnly.onDev ..⟩
  case suspect =>
    rw [State.coilTested_link]
    show ((s.dev.link p tt.unit).suspect || (true && !(s.dev.link p tt.unit).onVias)) = true
    rw [ho]
    exact Bool.or_true _
  case tests =>
    rw [State.coilTested_stptr_of_bad]
    exact (fld_wrapAdd _ _ _ _ (by decide) (by decide)).trans
      (congrArg (fun n => (n + 1) % 2 ^ 32) (fld_setFld_out _ _ (by decide) (by decide) (by decide)))
  case index =>
    rw [State.coilTested_stptr_of_bad, wrapAdd, fld_setFld_out _ _ (by decide) (by decide) (by decide)]
    exact fld_setFld_self _ _ _ _ (by decide) (by decide)

theorem confirmTest_failed (hc : tt.coils ≠ []) (ho : (s.dev.link p tt.unit).onVias = false)
    (hs : (s.dev.link p tt.unit).suspect = true) (ha : (s.dev.slice p (linkChan tt.unit)).attempt = 0) :
    Completes (.confirmTest p tt) s fun t =>
      (t.dev.link p tt.unit).moves = true ∧ (t.dev.slice p (linkChan tt.unit)).attempt = 1 ∧
      bit (t.dev.reg (.stackChstat p (linkChan tt.unit))) 5 = true ∧ VolatileOnly s t := by
  have hexec := exec_confirmTest_of hm hr hs
  rw [State.confirmTest_of_bad hv hc ho] at hexec
  have hidle := (s.coilTested_attempt p 2 tt true true).trans ha
  obtain ⟨hattempt, -, htraining, -, hkept, -⟩ := State.startRetrain_started hidle
  refine ⟨_, hexec, ?moves, hattempt, htraining,
    (s.coilTested_volatileOnly ..).trans (hkept.trans (VolatileOnly.onDev ..))⟩
  rw [State.onDev_dev, Dev.link_modLink, State.startRetrain_of hidle, State.onDev_dev, Dev.link_modReg, Dev.link_modSlice,
    State.coilTested_link]
  exact Bool.or_true _

end

end Sys2Proof.Machine
end

section
/-! Margining (R153, R154). -/

namespace Sys2Proof.Machine

-- fields of a word that is put together

theorem fld_or (a b : Word) (hi lo : Nat) : fld (a ||| b) hi lo = fld a hi lo ||| fld b hi lo := by
  apply Nat.eq_of_testBit_eq
  intro i
  rw [Nat.testBit_or, testBit_fld, testBit_fld, testBit_fld, bit, bit, bit, BitVec.getLsbD_or, Bool.and_or_distrib_left]

theorem fld_fput_self (hi lo v : Nat) (hi64 : hi < 64) (hlo : lo ≤ hi) : fld (fput hi lo v) hi lo = v % 2 ^ (hi + 1 - lo) := by
  have h := fld_setFld_self 0#64 hi lo v hi64 hlo
  rwa [setFld, BitVec.zero_and, BitVec.zero_or] at h

theorem fld_fput_out {hi lo hi' lo' : Nat} (v : Nat) (hi64 : hi' < 64) (hlo : lo' ≤ hi') (h : hi < lo' ∨ hi' < lo) :
    fld (fput hi' lo' v) hi lo = 0 := by
  have hset := fld_setFld_out 0#64 v hi64 hlo h
  rw [setFld, BitVec.zero_and, BitVec.zero_or] at hset
  rw [hset, fld, nbits, BitVec.toNat_ofNat, Nat.zero_mod, Nat.zero_shiftRight, Nat.zero_mod]

-- registers changed one after another

/-- Other registers are left as they were. -/
theorem Dev.foldl_modReg_reg_ne (r : Nat → Reg) (f : Nat → Word → Word) {x : Reg} {n : Nat} (h : ∀ i < n, x.offset ≠ (r i).offset)
    (d : Dev) : ((List.range n).foldl (fun d i => d.modReg (r i) (f i)) d).reg x = d.reg x := by
  induction n with
  | zero => rfl
  | succ n ih =>
    rw [List.range_succ, List.foldl_append, List.foldl_cons, List.foldl_nil, Dev.reg_modReg_ne _ _ _ _ (h n (Nat.lt_succ_self n)),
      ih fun i hi => h i (Nat.lt_succ_of_lt hi)]

/-- Each of several different registers is changed once. -/
theorem Dev.foldl_modReg_reg (r : Nat → Reg) (f : Nat → Word → Word) {n k : Nat} (hk : k < n)
    (h : ∀ i < n, ∀ j < n, i ≠ j → (r i).offset ≠ (r j).offset) (d : Dev) :
    ((List.range n).foldl (fun d i => d.modReg (r i) (f i)) d).reg (r k) = f k (d.reg (r k)) := by
  induction n with
  | zero => exact absurd hk (Nat.not_lt_zero k)
  | succ n ih =>
    rw [List.range_succ, List.foldl_append, List.foldl_cons, List.foldl_nil]
    rcases Nat.lt_succ_iff_lt_or_eq.1 hk with hlt | rfl
    · rw [Dev.reg_modReg_ne _ _ _ _ (h k hk n (Nat.lt_succ_self n) (Nat.ne_of_lt hlt)),
        ih hlt fun i hi j hj => h i (Nat.lt_succ_of_lt hi) j (Nat.lt_succ_of_lt hj)]
    · rw [Dev.reg_modReg, Dev.foldl_modReg_reg_ne r f fun i hi => h k hk i (Nat.lt_succ_of_lt hi) (Nat.ne_of_gt hi)]

-- the start of a sweep

theorem State.mctlWrite_refused {s : State} {p : PartIx} {v w : Word} (hs : bit v 63 = true)
    (hw : storeTyped (.stackMctl p) (s.dev.reg (.stackMctl p)) v = w) (hr : s.dev.sweepRefused p w = true) :
    s.mctlWrite p v = s.onDev fun d => d.setReg (.stackMctl p) (setBit w 60 true) := by
  subst hw
  refine State.onDev_congr ?_
  simp only [hs, hr, Bool.not_true, Bool.false_eq_true, if_false, if_true]

theorem State.mctlWrite_started {s : State} {p : PartIx} {v w : Word} (hs : bit v 63 = true)
    (hw : storeTyped (.stackMctl p) (s.dev.reg (.stackMctl p)) v = w) (hr : s.dev.sweepRefused p w = false) :
    s.mctlWrite p v = s.onDev fun d =>
      { d.setReg (.stackMctl p) (setBit w 62 true) with sweeps := d.sweeps.set 0 p.val (d.reg (.stackMrange p)) } := by
  subst hw
  refine State.onDev_congr ?_
  simp only [hs, hr, Bool.not_true, Bool.false_eq_true, if_false]

-- the end of a sweep

/-- A sweep's grid has at most 64 points each way (R153). -/
theorem sweepGrid_le {r : Word} {nt nv : Nat} (h : sweepGrid r = some (nt, nv)) : nt ≤ 64 ∧ nv ≤ 64 := by
  unfold sweepGrid at h
  dsimp only at h
  split at h
  · exact absurd h (Option.some_ne_none _).symm
  · split at h
    case isTrue hle =>
      obtain ⟨rfl, rfl⟩ := Prod.mk.inj (Option.some.inj h)
      exact hle
    case isFalse => exact absurd h (Option.some_ne_none _).symm

theorem eyeEntry_lt (w : Word32) : eyeEntry w < 2 ^ 32 := by
  unfold eyeEntry
  split
  · exact Nat.lt_trans (Nat.mod_lt _ (by decide)) (by decide)
  · exact w.isLt

/-- A word of STACK_EYE with its two points stored, the second where the grid has one. -/
def eyeWord (n : Nat) (pts : List Nat) (i : Nat) (w : Word) : Word :=
  let w := setFld w 31 0 (pts.getD (2 * i) 0)
  if 2 * i + 1 < n then setFld w 63 32 (pts.getD (2 * i + 1) 0) else w

theorem eyeWord_even (n : Nat) (pts : List Nat) (i : Nat) (w : Word) :
    fld (eyeWord n pts i w) 31 0 = pts.getD (2 * i) 0 % 2 ^ 32 := by
  have hlow := fld_setFld_self w 31 0 (pts.getD (2 * i) 0) (by decide) (by decide)
  unfold eyeWord
  dsimp only
  split
  · rwa [fld_setFld_out _ _ (by decide) (by decide) (by decide)]
  · exact hlow

theorem eyeWord_odd {n i : Nat} (h : 2 * i + 1 < n) (pts : List Nat) (w : Word) :
    fld (eyeWord n pts i w) 63 32 = pts.getD (2 * i + 1) 0 % 2 ^ 32 := by
  unfold eyeWord
  rw [if_pos h, fld_setFld_self _ _ _ _ (by decide) (by decide)]

/-- STACK_EYE filled with `n` points. -/
def Dev.fillEye (d : Dev) (p : PartIx) (n : Nat) (pts : List Nat) : Dev :=
  (List.range (ceilDiv n 2)).foldl (fun d i => d.modReg (.stackEye p (Fin.ofNat 2048 i)) (eyeWord n pts i)) d

theorem Dev.fillEye_reg_ne {r : Reg} {p : PartIx} (h : ∀ i, r.offset ≠ (Reg.stackEye p i).offset) (d : Dev) (n : Nat)
    (pts : List Nat) : (d.fillEye p n pts).reg r = d.reg r :=
  Dev.foldl_modReg_reg_ne (fun i => .stackEye p (Fin.ofNat 2048 i)) (eyeWord n pts) (fun _ _ => h _) d

theorem Reg.stackEye_offset_ne (p : PartIx) {i j : Nat} (hi : i < 2048) (hj : j < 2048) (h : i ≠ j) :
    (Reg.stackEye p (Fin.ofNat 2048 i)).offset ≠ (Reg.stackEye p (Fin.ofNat 2048 j)).offset := by
  have hvi : (Fin.ofNat 2048 i).val = i := Nat.mod_eq_of_lt hi
  have hvj : (Fin.ofNat 2048 j).val = j := Nat.mod_eq_of_lt hj
  simp only [Reg.offset]
  omega

/-- The points stand in STACK_EYE in order, two to a word. -/
theorem Dev.fillEye_point {n i : Nat} (hi : i < n) (hn : n ≤ 4096) (d : Dev) (p : PartIx) (pts : List Nat) :
    fld ((d.fillEye p n pts).reg (.stackEye p (Fin.ofNat 2048 (i / 2)))) (32 * (i % 2) + 31) (32 * (i % 2)) =
      pts.getD i 0 % 2 ^ 32 := by
  have hwords : ceilDiv n 2 ≤ 2048 := by
    unfold ceilDiv
    omega
  have hk : i / 2 < ceilDiv n 2 := by
    unfold ceilDiv
    omega
  have hword := Dev.foldl_modReg_reg (fun i => .stackEye p (Fin.ofNat 2048 i)) (eyeWord n pts) hk
    (fun a ha b hb => Reg.stackEye_offset_ne p (by omega) (by omega)) d
  rw [Dev.fillEye, hword]
  rcases Nat.mod_two_eq_zero_or_one i with heven | hodd
  · rw [heven, eyeWord_even, show 2 * (i / 2) = i by omega]
  · rw [hodd, eyeWord_odd (by omega), show 2 * (i / 2) + 1 = i by omega]

/-- The device after a sweep: STACK_EYE, STACK_MSTAT with the eye, BUSY cleared, DONE set. -/
def Dev.sweepEnded (d : Dev) (p : PartIx) (nt nv eyeH eyeW : Nat) (pts : List Nat) : Dev :=
  ((d.fillEye p (nt * nv) pts).setReg (.stackMstat p) (fput 47 40 nv ||| fput 39 32 nt ||| fput 23 16 eyeH ||| fput 7 0 eyeW)).modReg
    (.stackMctl p) fun w => setBit (setBit w 62 false) 61 true

theorem padTo_length {α : Type} (a : α) (l : List α) : padTo l.length a l = l := List.take_left' rfl

theorem exec_marginSweepDone_of {s : State} {p : PartIx} {points : List Word32} {nt nv : Nat}
    (hb : bit (s.dev.reg (.stackMctl p)) 62 = true) (hg : sweepGrid (s.dev.sweeps.get 0 p.val) = some (nt, nv))
    (hn : points.length = nt * nv) : ∃ eyeH eyeW, exec (.marginSweepDone p points) s =
      .next (s.onDev fun d => d.sweepEnded p nt nv eyeH eyeW (points.map eyeEntry)) := by
  have hpad : padTo (nt * nv) 0 points = points := hn ▸ padTo_length 0 points
  show ∃ eyeH eyeW, execMarginSweepDone p points s = _
  simp only [execMarginSweepDone, hb, hg, hpad]
  exact ⟨_, _, rfl⟩

section
variable (d : Dev) (p : PartIx) (nt nv eyeH eyeW : Nat) (pts : List Nat)

theorem Dev.sweepEnded_mctl :
    (d.sweepEnded p nt nv eyeH eyeW pts).reg (.stackMctl p) = setBit (setBit (d.reg (.stackMctl p)) 62 false) 61 true := by
  rw [Dev.sweepEnded, Dev.reg_modReg, Dev.reg_setReg_ne, Dev.fillEye_reg_ne]
  · simp only [Reg.offset]
    omega
  · simp only [Reg.offset]
    omega

theorem Dev.sweepEnded_mstat : (d.sweepEnded p nt nv eyeH eyeW pts).reg (.stackMstat p) =
    fput 47 40 nv ||| fput 39 32 nt ||| fput 23 16 eyeH ||| fput 7 0 eyeW := by
  rw [Dev.sweepEnded, Dev.reg_modReg_ne, Dev.reg_setReg]
  simp only [Reg.offset]
  omega

theorem Dev.sweepEnded_eye (i : Fin 2048) : (d.sweepEnded p nt nv eyeH eyeW pts).reg (.stackEye p i) =
    (d.fillEye p (nt * nv) pts).reg (.stackEye p i) := by
  rw [Dev.sweepEnded, Dev.reg_modReg_ne, Dev.reg_setReg_ne]
  · simp only [Reg.offset]
    omega
  · simp only [Reg.offset]
    omega

theorem Dev.sweepEnded_reg_ne {r : Reg}
    (h : ∀ x ∈ Reg.stackMctl p :: .stackMstat p :: (List.finRange 2048).map (Reg.stackEye p), r.offset ≠ x.offset) :
    (d.sweepEnded p nt nv eyeH eyeW pts).reg r = d.reg r := by
  simp only [List.mem_cons, List.mem_map, List.mem_finRange, true_and, forall_eq_or_imp, forall_exists_index,
    forall_apply_eq_imp_iff] at h
  obtain ⟨hctl, hstat, heye⟩ := h
  rw [Dev.sweepEnded, Dev.reg_modReg_ne _ _ _ _ hctl, Dev.reg_setReg_ne _ _ _ _ hstat, Dev.fillEye_reg_ne heye]

end

-- the commands

variable {s : State} {o : Origin} {p : PartIx}

theorem marginSweepStart_refused {v w : Word} (hm : s.mayWrite o (.stackMctl p))
    (hw : storeTyped (.stackMctl p) (s.dev.reg (.stackMctl p)) (setBit v 63 true) = w) (hr : s.dev.sweepRefused p w = true) :
    Completes (.marginSweepStart o p v) s fun t =>
      t.dev.reg (.stackMctl p) = setBit w 60 true ∧ VolatileOnly s t ∧ RegsKept s t [.stackMctl p] :=
  ⟨_, congrArg Host.Outcome.next ((State.regWrite_may hm _).trans
      (State.mctlWrite_refused (bit_setBit_self _ _ _ (by decide)) hw hr)),
    Dev.reg_setReg .., VolatileOnly.onDev .., fun r hx => Dev.reg_setReg_ne _ _ r _ (hx _ List.mem_cons_self)⟩

theorem marginSweepStart_started {v w : Word} (hm : s.mayWrite o (.stackMctl p))
    (hw : storeTyped (.stackMctl p) (s.dev.reg (.stackMctl p)) (setBit v 63 true) = w) (hr : s.dev.sweepRefused p w = false) :
    Completes (.marginSweepStart o p v) s fun t =>
      t.dev.reg (.stackMctl p) = setBit w 62 true ∧ t.dev.sweeps.get 0 p.val = s.dev.reg (.stackMrange p) ∧ VolatileOnly s t ∧
      RegsKept s t [.stackMctl p] :=
  ⟨_, congrArg Host.Outcome.next ((State.regWrite_may hm _).trans
      (State.mctlWrite_started (bit_setBit_self _ _ _ (by decide)) hw hr)),
    Dev.reg_setReg s.dev _ _, Tbl.get_set_self .., VolatileOnly.onDev ..,
    fun r hx => Dev.reg_setReg_ne s.dev _ r _ (hx _ List.mem_cons_self)⟩

theorem marginSweepDone_completes {points : List Word32} {nt nv : Nat} (hb : bit (s.dev.reg (.stackMctl p)) 62 = true)
    (hg : sweepGrid (s.dev.sweeps.get 0 p.val) = some (nt, nv)) (hn : points.length = nt * nv) :
    Completes (.marginSweepDone p points) s fun t =>
      bit (t.dev.reg (.stackMctl p)) 62 = false ∧ bit (t.dev.reg (.stackMctl p)) 61 = true ∧
      fld (t.dev.reg (.stackMstat p)) 39 32 = nt ∧ fld (t.dev.reg (.stackMstat p)) 47 40 = nv ∧
      (∀ i (h : i < points.length), fld (t.dev.reg (.stackEye p (Fin.ofNat 2048 (i / 2)))) (32 * (i % 2) + 31) (32 * (i % 2)) =
        eyeEntry points[i]) ∧
      VolatileOnly s t ∧ RegsKept s t (.stackMctl p :: .stackMstat p :: (List.finRange 2048).map (Reg.stackEye p)) := by
  obtain ⟨eyeH, eyeW, hexec⟩ := exec_marginSweepDone_of hb hg hn
  obtain ⟨hnt, hnv⟩ := sweepGrid_le hg
  refine ⟨_, hexec, ?busy, ?done, ?nt, ?nv, fun i hi => ?point, VolatileOnly.onDev .., fun r hr => Dev.sweepEnded_reg_ne _ _ _ _ _ _ _ hr⟩
  case busy => rw [State.onDev_dev, Dev.sweepEnded_mctl, bit_setBit_ne _ _ (by decide) (by decide), bit_setBit_self _ _ _ (by decide)]
  case done => rw [State.onDev_dev, Dev.sweepEnded_mctl, bit_setBit_self _ _ _ (by decide)]
  case nt | nv =>
    rw [State.onDev_dev, Dev.sweepEnded_mstat]
    simp (disch := decide) only [fld_or, fld_fput_self, fld_fput_out, Nat.or_zero, Nat.zero_or]
    exact Nat.mod_eq_of_lt (by omega)
  case point =>
    have hpoint : (points.map eyeEntry).getD i 0 = eyeEntry points[i] := by simp [hi]
    rw [State.onDev_dev, Dev.sweepEnded_eye, Dev.fillEye_point (hn ▸ hi) (Nat.mul_le_mul hnt hnv), hpoint]
    exact Nat.mod_eq_of_lt (eyeEntry_lt _)

end Sys2Proof.Machine
end

section
/-! The statement of the coupling links and of margining, settled. -/

namespace Sys2Proof.Machine

/-- Settles O40, command by command. -/
theorem couplingTestsComplete : Obligations.CouplingTestsComplete :=
  ⟨fun _ _ _ _ _ _ _ => ⟨couplingBeatReceive_passed, couplingBeatReceive_failed, fun hm hr hv hg =>
      ⟨fun hc => ⟨periodicTestSlot_clean hm hr hv hg hc, fun hs _ => confirmTest_clean hm hr hv hc hs⟩,
        fun hc ho => ⟨periodicTestSlot_failed hm hr hv hc ho, confirmTest_failed hm hr hv hc ho⟩⟩⟩,
    fun _ _ _ _ _ => ⟨fun hm => ⟨marginSweepStart_refused hm rfl, marginSweepStart_started hm rfl⟩,
      fun _ _ => marginSweepDone_completes⟩⟩

end Sys2Proof.Machine
end

section
/-! Hurdle banks (R262 … R278): what the operations on one Hurdle leave of the others, of the ports and of cores that wait at no
Hurdle, and what a release and a failure make of the Hurdle itself. -/

namespace Sys2Proof.Machine

@[simp] theorem Dev.hurdle_setHurdle (d : Dev) (h : Nat) (x : Hurdle) : (d.setHurdle h x).hurdle h = x := Tbl.get_set_self ..

theorem Dev.hurdle_setHurdle_ne {h j : Nat} (hj : j ≠ h) (d : Dev) (x : Hurdle) : (d.setHurdle h x).hurdle j = d.hurdle j :=
  Tbl.get_set_ne _ _ _ _ hj

@[simp] theorem Dev.core_setHurdle (d : Dev) (h : Nat) (x : Hurdle) (c : CoreIx) : (d.setHurdle h x).core c = d.core c := rfl

@[simp] theorem Dev.reg_setHurdle (d : Dev) (h : Nat) (x : Hurdle) (r : Reg) : (d.setHurdle h x).reg r = d.reg r := rfl

theorem Dev.core_congr {d d' : Dev} (h : d'.cores = d.cores) (c : CoreIx) : d'.core c = d.core c :=
  congrArg (fun l => Tbl.get ({} : Core) l c.val) h

-- what the banks leave as it was

/-- What each port has received is as before, and a core that was not stalled still is not, at the same instruction. -/
structure Dev.OthersKept (d d' : Dev) : Prop where
  rx : ∀ n, (d'.port n).rx = (d.port n).rx
  idle : ∀ c, (d.core c).stall = .none → (d'.core c).stall = .none ∧ (d'.core c).pc = (d.core c).pc

/-- Beside what `Dev.OthersKept` says every Hurdle is as before. -/
structure Dev.HurdlesKept (d d' : Dev) : Prop extends d.OthersKept d' where
  hurdles : d'.hurdles = d.hurdles

theorem Dev.OthersKept.trans {d e f : Dev} (h : d.OthersKept e) (k : e.OthersKept f) : d.OthersKept f where
  rx n := (k.rx n).trans (h.rx n)
  idle c hc := by
    obtain ⟨hs, hpc⟩ := h.idle c hc
    obtain ⟨ks, kpc⟩ := k.idle c hs
    exact ⟨ks, kpc.trans hpc⟩

theorem Dev.OthersKept.setHurdle (d : Dev) (h : Nat) (x : Hurdle) : d.OthersKept (d.setHurdle h x) :=
  ⟨fun _ => rfl, fun _ hc => ⟨hc, rfl⟩⟩

theorem Dev.OthersKept.refl (d : Dev) : d.OthersKept d := ⟨fun _ => rfl, fun _ hc => ⟨hc, rfl⟩⟩

theorem Dev.HurdlesKept.refl (d : Dev) : d.HurdlesKept d := ⟨.refl d, rfl⟩

theorem Dev.HurdlesKept.trans {d e f : Dev} (h : d.HurdlesKept e) (k : e.HurdlesKept f) : d.HurdlesKept f :=
  ⟨h.toOthersKept.trans k.toOthersKept, k.hurdles.trans h.hurdles⟩

theorem Dev.HurdlesKept.hurdle {d e : Dev} (h : d.HurdlesKept e) (j : Nat) : e.hurdle j = d.hurdle j :=
  congrArg (fun l => Tbl.get ({} : Hurdle) l j) h.hurdles

theorem Dev.HurdlesKept.foldl {β : Type} {f : Dev → β → Dev} (h : ∀ (d : Dev) b, d.HurdlesKept (f d b)) (l : List β) (d : Dev) :
    d.HurdlesKept (l.foldl f d) := by
  induction l generalizing d with
  | nil => exact .refl d
  | cons b r ih => exact (h d b).trans (ih _)

/-- What touches neither Hurdles nor ports nor cores. -/
theorem Dev.HurdlesKept.of_fields {d d' : Dev} (hh : d'.hurdles = d.hurdles) (hp : d'.ports = d.ports) (hc : d'.cores = d.cores) :
    d.HurdlesKept d' where
  rx n := congrArg (fun l => (Tbl.get ({} : Port) l n.val).rx) hp
  idle c hs := by
    rw [Dev.core_congr hc]
    exact ⟨hs, rfl⟩
  hurdles := hh

theorem Dev.HurdlesKept.modCore {d : Dev} {c : CoreIx} {f : Core → Core}
    (hf : (d.core c).stall = .none → (f (d.core c)).stall = .none ∧ (f (d.core c)).pc = (d.core c).pc) :
    d.HurdlesKept (d.modCore c f) where
  rx _ := rfl
  idle x hx := by
    by_cases hc : x = c
    · subst hc
      rw [Dev.core_modCore]
      exact hf hx
    · rw [Dev.core_modCore_ne _ _ _ _ hc]
      exact ⟨hx, rfl⟩
  hurdles := rfl

@[simp] theorem Dev.port_modPort (d : Dev) (n : PortIx) (f : Port → Port) : (d.modPort n f).port n = f (d.port n) := Tbl.get_set_self ..

theorem Dev.port_modPort_ne {n m : PortIx} (h : m ≠ n) (d : Dev) (f : Port → Port) : (d.modPort n f).port m = d.port m :=
  Tbl.get_set_ne _ _ _ _ fun e => h (Fin.ext e)

theorem Dev.HurdlesKept.modPort {d : Dev} {n : PortIx} {f : Port → Port} (hf : (f (d.port n)).rx = (d.port n).rx) :
    d.HurdlesKept (d.modPort n f) where
  rx m := by
    by_cases hm : m = n
    · subst hm
      rw [Dev.port_modPort]
      exact hf
    · rw [Dev.port_modPort_ne hm]
  idle _ hc := ⟨hc, rfl⟩
  hurdles := rfl

/-- A core that is not stalled at the Hurdle is not woken. -/
theorem Dev.wakeCore_kept (d : Dev) (c : CoreIx) (h : Nat) (w : Word) : d.HurdlesKept (d.wakeCore c h w) := by
  unfold Dev.wakeCore
  split
  next h' rd hs =>
    split
    · exact .modCore fun hn => Stall.noConfusion (hs.symm.trans hn)
    · exact .refl d
  next => exact .refl d

theorem Dev.endWait_kept (d : Dev) (h : Nat) (w : Word) (ok : Bool) (a : Waiter) : d.HurdlesKept (d.endWait h w ok a) := by
  unfold Dev.endWait
  split
  · exact Dev.wakeCore_kept ..
  · exact .modCore fun hs => ⟨hs, rfl⟩
  · exact .of_fields rfl rfl rfl

theorem Dev.endAcqs_kept (d : Dev) (h : Nat) (w : Word) (l : List (CoreIx × Nat)) : d.HurdlesKept (d.endAcqs h w l) := by
  unfold Dev.endAcqs
  exact .foldl (fun d a => d.wakeCore_kept a.1 h w) l d

theorem Dev.tellAnchors_kept (d : Dev) (h : Nat) (res : Option Bool) : d.HurdlesKept (d.tellAnchors h res) := by
  refine .foldl (fun d p => ?_) _ d
  dsimp only
  split <;> split <;> exact .of_fields rfl rfl rfl

theorem Dev.paceWindow_kept (d : Dev) (now period : Nat) : d.HurdlesKept (d.paceWindow now period) := by
  refine .foldl (fun d p => ?_) _ d
  dsimp only
  split
  · exact .refl d
  · exact .of_fields rfl rfl rfl

theorem Dev.paceRelease_kept (d : Dev) (now h : Nat) : d.HurdlesKept (d.paceRelease now h) := by
  unfold Dev.paceRelease
  split
  · exact .refl d
  · extract_lets e k n wlog k'
    have slack : d.HurdlesKept e := by
      refine .foldl (fun d p => ?_) _ d
      dsimp only
      split
      · exact .refl d
      · exact .of_fields rfl rfl rfl
    clear_value e
    have counted (p : Package) : d.HurdlesKept { e with package := p } := slack.trans (.of_fields rfl rfl rfl)
    split
    · exact counted _
    · exact (counted _).trans (Dev.paceWindow_kept ..)

theorem Dev.record_kept (d : Dev) (now : Nat) (src : Src) (a b c : Nat) : d.HurdlesKept (d.record now src a b c) := by
  obtain ⟨r, e, o, h⟩ := d.record_frame now src a b c
  rw [h]
  exact .of_fields rfl rfl rfl

theorem Dev.sendHurdle_kept (d : Dev) (n : PortIx) (h gen kind : Nat) (flag : Bool) (code : Nat) :
    d.HurdlesKept (d.sendHurdle n h gen kind flag code) := by
  unfold Dev.sendHurdle Dev.manage
  split
  · exact .modPort rfl
  · exact .refl d

theorem Dev.sendDown_kept (d : Dev) (h : Nat) (x : Hurdle) (kind : Nat) (flag : Bool) (code : Nat) :
    d.HurdlesKept (d.sendDown h x kind flag code) := .foldl (fun d n => d.sendHurdle_kept n ..) _ d

/-- What a re-arming release passes on at once touches PASSED and SENT of the Hurdle alone (R263). -/
theorem Dev.passAgain_hurdle (d : Dev) (h : Nat) :
    ∃ p q, (d.passAgain h).hurdle h = { d.hurdle h with passed := p, sent := q } := by
  unfold Dev.passAgain
  dsimp only
  split
  · split
    · split
      · rw [(Dev.sendHurdle_kept ..).hurdle, Dev.hurdle_setHurdle]
        exact ⟨_, _, rfl⟩
      · rw [Dev.hurdle_setHurdle]
        exact ⟨_, _, rfl⟩
    · rw [Dev.hurdle_setHurdle]
      exact ⟨_, _, rfl⟩
  · exact ⟨_, _, rfl⟩

theorem Dev.passAgain_others (d : Dev) (h : Nat) : d.OthersKept (d.passAgain h) := by
  unfold Dev.passAgain
  dsimp only
  split
  · split
    · split
      · exact (Dev.OthersKept.setHurdle ..).trans (Dev.sendHurdle_kept ..).toOthersKept
      · exact .setHurdle ..
    · exact .setHurdle ..
  · exact .refl d

-- a release (R264)

/-- The generations by which a release advances GEN: more than one only on a re-arming COUNTER. -/
def Hurdle.steps (x : Hurdle) : Nat := if x.rearm && x.mode == 1 then x.count / max 1 x.target else 1

/-- The waits that a release ends, and those that stay. -/
def Hurdle.ending (x : Hurdle) : List Waiter :=
  x.waits.filter fun w => match w.gen with | none => true | some g => genReached x.gen x.steps g
@[inherit_doc Hurdle.ending]
def Hurdle.staying (x : Hurdle) : List Waiter :=
  x.waits.filter fun w => match w.gen with | none => false | some g => !genReached x.gen x.steps g

/-- The Hurdle as a release with RESULT `res` leaves it. -/
def Hurdle.released (x : Hurdle) (res : Bool) : Hurdle :=
  { x with
    gen := (x.gen + x.steps) % 65536, result := res, code := 0, state := if x.rearm then 1 else 2
    count := if x.rearm && x.mode == 1 then x.count % max 1 x.target else if x.rearm then 0 else min x.count 65535
    flag := flagIdentity x.mode, holders := [], orphan := false, passed := !x.rearm && x.passed
    kids := if x.rearm then [] else x.kids, kidFlag := flagIdentity x.mode, sent := !x.rearm && x.sent
    decided := if x.span && !x.rearm then some (x.gen, some res) else none }

/-- The waits a release ends have ended. -/
def Dev.waitsEnded (d : Dev) (h : Nat) (res : Bool) : Dev :=
  (d.hurdle h).ending.foldl (fun e w => e.endWait h (((d.hurdle h).released res).resultWord h 0) true w)
    (d.setHurdle h { (d.hurdle h).released res with waits := (d.hurdle h).staying })

/-- Those who watch the Hurdle have been told of each generation it advanced by. -/
def Dev.releaseTold (d : Dev) (now h : Nat) (res : Bool) (n : Nat) : Dev :=
  (List.range n).foldl (fun e _ => (e.tellAnchors h (some res)).paceRelease now h) d

theorem Dev.release_eq (d : Dev) (now h : Nat) (res : Bool) :
    d.release now h res = ((d.waitsEnded h res).releaseTold now h res (d.hurdle h).steps).passAgain h := rfl

theorem Dev.waitsEnded_kept (d : Dev) (h : Nat) (res : Bool) :
    (d.setHurdle h { (d.hurdle h).released res with waits := (d.hurdle h).staying }).HurdlesKept (d.waitsEnded h res) :=
  .foldl (fun e _ => e.endWait_kept ..) _ _

theorem Dev.releaseTold_kept (d : Dev) (now h : Nat) (res : Bool) (n : Nat) : d.HurdlesKept (d.releaseTold now h res n) :=
  .foldl (fun e _ => (e.tellAnchors_kept h _).trans (Dev.paceRelease_kept ..)) _ _

theorem Dev.release_others (d : Dev) (now h : Nat) (res : Bool) : d.OthersKept (d.release now h res) :=
  (((Dev.OthersKept.setHurdle ..).trans (d.waitsEnded_kept h res).toOthersKept).trans
    (Dev.releaseTold_kept ..).toOthersKept).trans (Dev.passAgain_others ..)

/-- The Hurdle after its release, but for what it passes on at once when it is armed again. -/
theorem Dev.release_hurdle (d : Dev) (now h : Nat) (res : Bool) : ∃ p q,
    (d.release now h res).hurdle h = { (d.hurdle h).released res with waits := (d.hurdle h).staying, passed := p, sent := q } := by
  obtain ⟨p, q, hpass⟩ := ((d.waitsEnded h res).releaseTold now h res (d.hurdle h).steps).passAgain_hurdle h
  refine ⟨p, q, ?_⟩
  rw [Dev.release_eq, hpass, (Dev.releaseTold_kept ..).hurdle, (d.waitsEnded_kept h res).hurdle, Dev.hurdle_setHurdle]

theorem Hurdle.steps_of_not_again {x : Hurdle} (h : x.rearm = false ∨ x.mode ≠ 1) : x.steps = 1 := by
  unfold Hurdle.steps
  rcases h with h | h <;> simp [h]

/-- The end of a wait leaves a core stalled where it was, or wakes it. -/
theorem Dev.endWait_stall (d : Dev) (h : Nat) (w : Word) (ok : Bool) (a : Waiter) (c : CoreIx) :
    ((d.endWait h w ok a).core c).stall = (d.core c).stall ∨ ((d.endWait h w ok a).core c).stall = .none := by
  have changed {f : Core → Core} {x : CoreIx} (hf : (f (d.core x)).stall = (d.core x).stall ∨ (f (d.core x)).stall = .none) :
      ((d.modCore x f).core c).stall = (d.core c).stall ∨ ((d.modCore x f).core c).stall = .none := by
    by_cases hx : c = x
    · subst hx
      rw [Dev.core_modCore]
      exact hf
    · rw [Dev.core_modCore_ne _ _ _ _ hx]
      exact .inl rfl
  unfold Dev.endWait
  split
  · unfold Dev.wakeCore
    split
    · split
      · exact changed (.inr rfl)
      · exact .inl rfl
    · exact .inl rfl
  · exact changed (.inl rfl)
  · exact .inl rfl

theorem Dev.wakeCore_wakes {d : Dev} {c : CoreIx} {h : HurdleIx} {rd : RegNum} (hs : (d.core c).stall = .hurdle h rd) (w : Word) :
    ((d.wakeCore c h.val w).core c).stall = .none := by
  unfold Dev.wakeCore
  rw [hs]
  dsimp only
  rw [if_pos rfl, Dev.core_modCore]
  rfl

/-- Every core that waits at a Hurdle and is among those whose waits end is woken. -/
theorem Dev.endWaits_wake {h : HurdleIx} {c : CoreIx} {g : Option Nat} {rd : RegNum} (word : Word) (ok : Bool) {l : List Waiter}
    (hl : { who := .core c, gen := g } ∈ l) {d : Dev} (hs : (d.core c).stall = .hurdle h rd) :
    ((l.foldl (fun e w => e.endWait h.val word ok w) d).core c).stall = .none := by
  induction l generalizing d with
  | nil => exact absurd hl List.not_mem_nil
  | cons a r ih =>
    have rest {e : Dev} (he : (e.core c).stall = .none) :
        ((r.foldl (fun e w => e.endWait h.val word ok w) e).core c).stall = .none :=
      ((Dev.HurdlesKept.foldl (fun e w => e.endWait_kept h.val word ok w) r e).idle c he).1
    rw [List.foldl_cons]
    rcases List.mem_cons.1 hl with rfl | hr
    · exact rest (Dev.wakeCore_wakes hs word)
    · rcases d.endWait_stall h.val word ok a c with hsame | hwoken
      · exact ih hr (hsame.trans hs)
      · exact rest hwoken

/-- A release resumes every core that waits for the next one. -/
theorem Dev.release_wakes {d : Dev} {h : HurdleIx} {c : CoreIx} {rd : RegNum}
    (hw : { who := .core c, gen := none } ∈ (d.hurdle h.val).waits) (hs : (d.core c).stall = .hurdle h rd) (now : Nat) (res : Bool) :
    ((d.release now h.val res).core c).stall = .none := by
  have hend : { who := .core c, gen := none } ∈ (d.hurdle h.val).ending := List.mem_filter.2 ⟨hw, rfl⟩
  have hwoken : ((d.waitsEnded h.val res).core c).stall = .none := Dev.endWaits_wake _ true hend hs
  have htold := ((Dev.releaseTold_kept _ now h.val res (d.hurdle h.val).steps).idle c hwoken).1
  exact ((Dev.passAgain_others _ h.val).idle c htold).1

-- a failure (R269)

/-- The Hurdle as a failure with CODE `code` leaves it. -/
def Hurdle.failed (x : Hurdle) (code : Nat) : Hurdle :=
  { x with state := 3, code := code, holders := [], waits := [], acqs := [], orphan := false
           decided := if x.span then some (x.gen, none) else none }

theorem Dev.failHurdle_kept (d : Dev) (now h code : Nat) :
    (d.setHurdle h ((d.hurdle h).failed code)).HurdlesKept (d.failHurdle now h code) := by
  unfold Dev.failHurdle
  extract_lets x y e w e1 e2 e3
  have hwaits : e.HurdlesKept e2 :=
    (Dev.HurdlesKept.foldl (fun e a => e.endWait_kept h w false a) x.waits e).trans (e1.endAcqs_kept h w x.acqs)
  have hrec : e2.HurdlesKept e3 := by
    dsimp -zeta only [e3]
    split
    · exact Dev.record_kept ..
    · exact .refl e2
  exact (hwaits.trans hrec).trans (e3.tellAnchors_kept h none)

theorem Dev.failHurdle_hurdle (d : Dev) (now h code : Nat) : (d.failHurdle now h code).hurdle h = (d.hurdle h).failed code := by
  rw [(d.failHurdle_kept now h code).hurdle, Dev.hurdle_setHurdle]

theorem Dev.failHurdle_others (d : Dev) (now h code : Nat) : d.OthersKept (d.failHurdle now h code) :=
  (Dev.OthersKept.setHurdle ..).trans (d.failHurdle_kept now h code).toOthersKept

/-- A Hurdle that does not span fails at once. -/
theorem Dev.loseHurdle_of_not_span {d : Dev} {h : Nat} (hs : (d.hurdle h).state = 1) (hspan : (d.hurdle h).span = false) (now code : Nat) :
    d.loseHurdle now h code = d.failHurdle now h code := by
  unfold Dev.loseHurdle
  dsimp only
  rw [if_neg fun hne => hne hs, hspan]
  rfl

-- the hub's part (R277), HRD_CFG and ARM (R265, R272)

theorem Dev.spanCheck_others (d : Dev) (now h : Nat) : d.OthersKept (d.spanCheck now h) := by
  unfold Dev.spanCheck
  dsimp only
  split
  · split
    · exact (Dev.OthersKept.setHurdle ..).trans (Dev.sendHurdle_kept ..).toOthersKept
    · exact (Dev.sendDown_kept ..).toOthersKept.trans (Dev.release_others ..)
  · exact .refl d

theorem Dev.spanPass_others (d : Dev) (now h : Nat) : d.OthersKept (d.spanPass now h) := by
  unfold Dev.spanPass
  dsimp only
  split
  · exact (Dev.OthersKept.setHurdle ..).trans (Dev.spanCheck_others ..)
  · exact .refl d

theorem Dev.spanPass_of_not_span {d : Dev} {h : Nat} (hspan : (d.hurdle h).span = false) (now : Nat) : d.spanPass now h = d :=
  if_neg fun hp => Bool.false_ne_true (hspan.symm.trans hp.2.1)

theorem Dev.writeCfg_others {d e : Dev} {now h : Nat} {v : Word} (he : d.writeCfg now h v = some e) : d.OthersKept e := by
  unfold Dev.writeCfg at he
  dsimp only at he
  split at he
  · exact absurd he (Option.some_ne_none e).symm
  · cases he
    exact (Dev.OthersKept.setHurdle ..).trans (Dev.spanPass_others ..)

end Sys2Proof.Machine
end

section
/-! The fetch of an instruction (R96, R110) leaves a core stalled as it was. -/

namespace Sys2Proof.Machine

/-- A translation for anything but a store touches no core. -/
theorem State.xlate_core {acc : Access} (ha : acc ≠ .store) (s : State) (k : ClusterIx) (asid va : Nat) :
    (s.xlate k asid va acc).2.dev.core = s.dev.core := by
  unfold State.xlate
  split
  · rfl
  · dsimp only
    rw [if_neg fun h => ha h.1, if_neg fun h => ha h.1]
    split
    · rfl
    · exact State.record_core ..

theorem State.fetchPages_core (c : CoreIx) (asid : Nat) (l : List Nat) (s : State) :
    (State.fetchPages c asid l s).2.2.dev.core = s.dev.core := by
  induction l generalizing s with
  | nil => rfl
  | cons va r ih =>
    have hx := State.xlate_core (acc := .fetch) Access.noConfusion s (coreCluster c) asid va
    unfold State.fetchPages
    split
    · exact ih s
    · split
      next he => rw [he] at hx; exact hx
      next he => rw [he] at hx; exact hx
      next he => rw [he] at hx; exact (ih _).trans hx

theorem Dev.change_core (d : Dev) (now : Nat) (x : Change) : (d.change now x).core = d.core := by
  obtain ⟨l, h⟩ := d.change_frame now x
  rw [h]
  rfl

theorem Dev.record_core (d : Dev) (now : Nat) (src : Src) (a b n : Nat) : (d.record now src a b n).core = d.core :=
  funext (Dev.core_congr (Dev.record_cores ..))

theorem Dev.sramWear_stall (d : Dev) (now : Nat) (c : CoreIx) (a : Nat) (v : Verdict) :
    ((d.sramWear now c a v).core c).stall = (d.core c).stall := by
  unfold Dev.sramWear
  dsimp only
  split
  · rw [Dev.change_core, Dev.core_setCore]
  · rw [Dev.core_setCore]

theorem Dev.recordSramCe_core (d : Dev) (now : Nat) (c : CoreIx) (a : Nat) (v : Verdict) : (d.recordSramCe now c a v).core = d.core := by
  unfold Dev.recordSramCe
  split
  · exact Dev.record_core ..
  · rfl

theorem Dev.sramView_stall (d : Dev) (now : Nat) (c : CoreIx) (a n : Nat) (u : Upset) :
    ((d.sramView now c a n u).2.core c).stall = (d.core c).stall := by
  unfold Dev.sramView
  extract_lets v e k r
  have hup : (e.core c).stall = (d.core c).stall := by
    unfold e Dev.sramUpset
    rw [Dev.core_modCore]
    exact Dev.sramWear_stall ..
  dsimp only
  rw [Dev.core_congr (Dev.recordSramUe_cores ..), Dev.recordSramCe_core]
  exact hup

theorem State.shareRead_stall (s : State) (c : CoreIx) (sh : Share) (asid va : Nat) (u : Upset) :
    ((s.shareRead c sh asid va u).2.dev.core c).stall = (s.dev.core c).stall := by
  unfold State.shareRead
  dsimp only
  split
  · rfl
  · rw [State.onDev_dev, Dev.recordSramCe_core, Dev.sramWear_stall, Dev.core_modCore]

theorem State.clusterRead_core (s : State) (k : ClusterIx) (asid va : Nat) (u : Upset) :
    (s.clusterRead k asid va u).2.dev.core = s.dev.core := by
  unfold State.clusterRead
  dsimp only
  split
  · rfl
  · rw [State.onDev_dev]
    split
    · exact Dev.change_core ..
    · rfl

theorem Dev.fillShare_stall (d : Dev) (c : CoreIx) (sh : Share) (asid va : Nat) (b : List Byte) :
    ((d.fillShare c sh asid va b).core c).stall = (d.core c).stall := by
  unfold Dev.fillShare
  rw [Dev.core_spend, Dev.core_modCore]

theorem State.nearRead_stall (s : State) (c : CoreIx) (sh : Share) (asid va : Nat) (u : Upset) :
    ((s.nearRead c sh asid va u).2.dev.core c).stall = (s.dev.core c).stall := by
  have hshare := s.shareRead_stall c sh asid va u
  unfold State.nearRead
  dsimp only
  split
  next he => exact he ▸ hshare
  next v he =>
    rw [he] at hshare
    split
    · exact hshare
    · have hcluster := v.clusterRead_core (coreCluster c) asid va
        (if (s.dev.core c).lines.any fun x => x.is sh asid (va / 128) then .none else u)
      split
      next ht => rw [ht] at hcluster; exact (Dev.fillShare_stall ..).trans (hcluster ▸ hshare)
      next ht => rw [ht] at hcluster; exact hcluster ▸ hshare

theorem State.fetchNear_stall (s : State) (c : CoreIx) (asid va : Nat) :
    ((s.fetchNear c asid va).2.dev.core c).stall = (s.dev.core c).stall := by
  unfold State.fetchNear
  dsimp only
  split
  · rfl
  · split
    · rfl
    · next sh _ =>
      have hnear := s.nearRead_stall c sh asid va .none
      split
      all_goals next he => rw [he] at hnear; exact hnear

-- the bytes, parcel by parcel; the address of the window is kept out of the kernel's sight, which would count down from it

theorem State.fetchBytes_local (c : CoreIx) (asid va : Nat) (r : List (Nat × Option Nat)) (bad : Option Nat) (s : State) :
    State.fetchBytes c asid ((va, none) :: r) bad s = State.fetchBytes c asid r
      (if (s.dev.sramView s.now c (va - windowBase) 2 .none).1.bad = [] then bad else bad.orElse fun _ => some va)
      (s.onDev fun _ => (s.dev.sramView s.now c (va - windowBase) 2 .none).2) := by
  delta State.fetchBytes State.fetchBytes._f
  generalize windowBase = w
  rfl

theorem State.fetchBytes_near {s v : State} {c : CoreIx} {asid va : Nat} {b : Bool} (h : s.fetchNear c asid va = (some b, v)) (pa : Nat)
    (r : List (Nat × Option Nat)) (bad : Option Nat) : State.fetchBytes c asid ((va, some pa) :: r) bad s =
      State.fetchBytes c asid r (if b then bad.orElse fun _ => some va else bad) v := by
  delta State.fetchBytes State.fetchBytes._f
  generalize windowBase = w
  dsimp only
  rw [h]

theorem State.fetchBytes_held {s v : State} {c : CoreIx} {asid va : Nat} (h : s.fetchNear c asid va = (none, v)) (pa : Nat)
    (r : List (Nat × Option Nat)) (bad : Option Nat) : (State.fetchBytes c asid ((va, some pa) :: r) bad s).1 = .held := by
  delta State.fetchBytes State.fetchBytes._f
  generalize windowBase = w
  dsimp only
  rw [h]

theorem State.fetchBytes_stall {c : CoreIx} {asid : Nat} {l : List (Nat × Option Nat)} {bad : Option Nat} {s u : State}
    (h : State.fetchBytes c asid l bad s = (.ok, u)) : (u.dev.core c).stall = (s.dev.core c).stall := by
  induction l generalizing bad s with
  | nil =>
    cases bad with
    | none =>
      cases h
      rfl
    | some va => exact Fetch.noConfusion (congrArg Prod.fst h)
  | cons a r ih =>
    obtain ⟨va, _ | pa⟩ := a
    · rw [State.fetchBytes_local] at h
      have hview := s.dev.sramView_stall s.now c (va - windowBase) 2 .none
      exact (ih h).trans hview
    · have hnear := s.fetchNear_stall c asid va
      rcases hn : s.fetchNear c asid va with ⟨_ | b, v⟩
      · have hheld := State.fetchBytes_held hn pa r bad
        rw [h] at hheld
        exact Fetch.noConfusion hheld
      · rw [State.fetchBytes_near hn] at h
        rw [hn] at hnear
        exact (ih h).trans hnear

theorem State.fetch_stall {s u : State} {c : CoreIx} {len : Nat} (h : s.fetch c len = (.ok, u)) :
    (u.dev.core c).stall = (s.dev.core c).stall := by
  unfold State.fetch at h
  dsimp only at h
  split at h
  · obtain ⟨-, rfl⟩ := Prod.mk.inj h
    rfl
  split at h
  · exact Fetch.noConfusion (congrArg Prod.fst h)
  split at h
  · exact Fetch.noConfusion (congrArg Prod.fst h)
  split at h
  · exact Fetch.noConfusion (congrArg Prod.fst h)
  next asid _ =>
    have hpages := State.fetchPages_core c asid
      (if len = 4 then [(s.dev.core c).pc.toNat, (s.dev.core c).pc.toNat + 2] else [(s.dev.core c).pc.toNat]) s
    split at h
    next he =>
      rw [he] at hpages
      split at h
      next hb =>
        cases h
        rw [State.onDev_dev, Dev.core_modCore]
        exact (State.fetchBytes_stall hb).trans (hpages ▸ rfl)
      next hne => exact absurd h (hne _)
    next hne _ =>
      obtain ⟨rfl, rfl⟩ := Prod.mk.inj h
      exact (hne rfl).elim

/-- A core that carries out an instruction is not stalled when it has been fetched. -/
theorem Issues.stall {s u : State} {c : CoreIx} {len : Nat} (h : Issues s c len u) : (u.dev.core c).stall = .none := by
  obtain ⟨-, hs, -, -, hf⟩ := h
  exact (State.fetch_stall hf).trans hs

end Sys2Proof.Machine
end

section
/-! Operations of a core on a Hurdle (R263 … R273): what each comes to at the bank, and the instruction that carries it. -/

namespace Sys2Proof.Machine

theorem Completes.imp {i : Instr} {s : State} {P Q : State → Prop} (h : Completes i s P) (hpq : ∀ t, P t → Q t) : Completes i s Q := by
  obtain ⟨t, ht, hp⟩ := h
  exact ⟨t, ht, hpq t hp⟩

-- arrivals (R263, R264)

/-- What an arrival adds to a COUNTER, and an ACQUIRE takes: ARG, where 0 stands for 1. -/
def unitsOf (arg : Nat) : Nat := if arg % 65536 = 0 then 1 else arg % 65536

theorem unitsOf_mod (arg : Nat) : unitsOf (arg % 65536) = unitsOf arg := by
  unfold unitsOf
  rw [Nat.mod_mod]

theorem Dev.paceArrive_frame (d : Dev) (now h : Nat) (p : Option PartIx) : ∃ l, d.paceArrive now h p = { d with phArr := l } := by
  unfold Dev.paceArrive
  split
  · split <;> exact ⟨_, rfl⟩
  · exact ⟨_, rfl⟩

/-- An arrival at an armed COUNTER counts, and at TARGET releases it; a pacing Hurdle remembers when it came (R380). -/
theorem Dev.arrive_counter {d : Dev} {h : Nat} (hm : (d.hurdle h).mode = 1) (hs : (d.hurdle h).state = 1) (hspan : (d.hurdle h).span = false)
    (now : Nat) (p : Option PartIx) (arg : Nat) : ∃ l,
      let e := { d with phArr := l }.setHurdle h { d.hurdle h with count := (d.hurdle h).count + unitsOf arg }
      d.arrive now p h arg = (0, if (d.hurdle h).target ≤ (d.hurdle h).count + unitsOf arg then e.release now h false else e) := by
  obtain ⟨l, hl⟩ := d.paceArrive_frame now h p
  refine ⟨l, ?_⟩
  unfold Dev.arrive
  simp only [hm, hs, hspan, hl]
  exact (apply_ite (Prod.mk 0) _ _ _).symm

theorem Dev.arrive_below {d : Dev} {h arg : Nat} (hm : (d.hurdle h).mode = 1) (hs : (d.hurdle h).state = 1)
    (hspan : (d.hurdle h).span = false) (hc : (d.hurdle h).count + unitsOf arg < (d.hurdle h).target) (now : Nat) (p : Option PartIx) :
    ∃ l, d.arrive now p h arg = (0, { d with phArr := l }.setHurdle h { d.hurdle h with count := (d.hurdle h).count + unitsOf arg }) := by
  obtain ⟨l, hl⟩ := Dev.arrive_counter hm hs hspan now p arg
  exact ⟨l, hl.trans (congrArg (Prod.mk 0) (if_neg (by omega)))⟩

theorem Dev.arrive_target {d : Dev} {h arg : Nat} (hm : (d.hurdle h).mode = 1) (hs : (d.hurdle h).state = 1)
    (hspan : (d.hurdle h).span = false) (hc : (d.hurdle h).target ≤ (d.hurdle h).count + unitsOf arg) (now : Nat) (p : Option PartIx) :
    ∃ l, d.arrive now p h arg =
      (0, ({ d with phArr := l }.setHurdle h { d.hurdle h with count := (d.hurdle h).count + unitsOf arg }).release now h false) := by
  obtain ⟨l, hl⟩ := Dev.arrive_counter hm hs hspan now p arg
  exact ⟨l, hl.trans (congrArg (Prod.mk 0) (if_pos hc))⟩

-- the other operations at the bank

section
variable {d : Dev} {c : CoreIx} {h arg : Nat} {g : Option Nat}

theorem Dev.bankWait_of_over {code : HCode} (hm : (d.hurdle h).mode ≠ 3) (hw : (d.hurdle h).waitNow g = some code) :
    d.bankWait c h g = (.done code, d) := by
  unfold Dev.bankWait
  dsimp only
  rw [if_neg hm, hw]

theorem Dev.bankWait_of_not_over (hm : (d.hurdle h).mode ≠ 3) (hw : (d.hurdle h).waitNow g = none) : d.bankWait c h g =
    (.wait, d.setHurdle h { d.hurdle h with waits := (d.hurdle h).waits ++ [{ who := .core c, gen := g }] }) := by
  unfold Dev.bankWait
  dsimp only
  rw [if_neg hm, hw]

theorem Dev.bankNotify_of_not_over (hm : (d.hurdle h).mode ≠ 3) (hw : (d.hurdle h).waitNow g = none) (hn : d.notes c < 4) :
    d.bankNotify c h g =
      (.done 0, d.setHurdle h { d.hurdle h with waits := (d.hurdle h).waits ++ [{ who := .note c, gen := g }] }) := by
  unfold Dev.bankNotify
  dsimp only
  rw [if_neg hm, if_neg (by omega), hw]

theorem Dev.bankJoin_of_room (hs : (d.hurdle h).state = 1) (hc : d.coreHolds c < 11) :
    d.bankJoin c h = (.done 0, d.join h (.soft c)) := by
  unfold Dev.bankJoin
  have hroom : decide (11 ≤ d.coreHolds c) = false := decide_eq_false (by omega)
  rw [if_neg fun hne => hne hs, hroom, Bool.and_false]
  rfl

/-- A join holds, whether the holder joins for the first time or again. -/
theorem Dev.join_holds (d : Dev) (h : Nat) (a : Holder) : a ∈ ((d.join h a).hurdle h).holders := by
  unfold Dev.join Dev.modHurdle
  rw [Dev.hurdle_setHurdle]
  dsimp only
  split
  next hin => exact List.contains_iff_mem.1 hin
  next => exact List.mem_append_right _ List.mem_cons_self

theorem Dev.bankAcquire_of_units (hm : (d.hurdle h).mode = 3) (hs : (d.hurdle h).state = 1) (ha : (d.hurdle h).acqs = [])
    (hc : unitsOf arg ≤ (d.hurdle h).count) :
    d.bankAcquire (some c) h arg = (.done 0, d.setHurdle h { d.hurdle h with count := (d.hurdle h).count - unitsOf arg }) :=
  (if_neg (by omega)).trans ((if_neg (by omega)).trans ((if_neg (by omega)).trans (if_pos ⟨ha, hc⟩)))

theorem Dev.bankAcquire_of_few (hm : (d.hurdle h).mode = 3) (hs : (d.hurdle h).state = 1) (ha : (d.hurdle h).acqs = [])
    (hc : (d.hurdle h).count < unitsOf arg) :
    d.bankAcquire (some c) h arg = (.wait, d.setHurdle h { d.hurdle h with acqs := [(c, unitsOf arg)] }) := by
  refine (if_neg (by omega)).trans ((if_neg (by omega)).trans ((if_neg (by omega)).trans
    ((if_neg fun hle => absurd hc (Nat.not_lt.2 hle.2)).trans ?_)))
  dsimp only
  rw [ha]
  rfl

/-- The Hurdle as ARM leaves it. -/
def Hurdle.armed (x : Hurdle) : Hurdle :=
  { x with state := 1, code := 0, count := if x.mode = 3 then x.target else 0
           flag := flagIdentity x.mode, kidFlag := flagIdentity x.mode
           passed := false, kids := [], sent := false, decided := none, orphan := false }

theorem Dev.armHurdle_of_not_span (hs : (d.hurdle h).state ≠ 1) (hm : (d.hurdle h).mode ≠ 0) (hspan : (d.hurdle h).span = false)
    (now : Nat) : d.armHurdle now h = (0, d.setHurdle h (d.hurdle h).armed) := by
  have hy : ((d.setHurdle h (d.hurdle h).armed).hurdle h).span = false := by
    rw [Dev.hurdle_setHurdle]
    exact hspan
  unfold Dev.armHurdle
  dsimp only
  rw [if_neg (not_or.2 ⟨hs, hm⟩)]
  exact congrArg (Prod.mk 0) (Dev.spanPass_of_not_span hy now)

theorem Dev.bankFail_of_not_span (hs : (d.hurdle h).state = 1) (hspan : (d.hurdle h).span = false) (now : Nat) :
    d.bankFail now h = (.done 0, d.failHurdle now h 2) := by
  unfold Dev.bankFail
  rw [if_neg fun hne => hne hs, Dev.loseHurdle_of_not_span hs hspan]

end

-- the instruction

@[simp] theorem Core.hrdDone_pc (k : Core) (rd : RegNum) (w : Word) : (k.hrdDone rd w).pc = k.pc + 4 :=
  congrArg (· + 4) (k.setX_pc rd w)

theorem Core.hrdDone_getX (k : Core) {rd : RegNum} (w : Word) (h : rd.val ≠ 0) : (k.hrdDone rd w).getX rd = w := k.getX_setX_self w h

/-- HRD_OP has completed on a core with a result code: the result word of the Hurdle as it now stands is the last result and in rd. -/
def State.HrdAnswered (u t : State) (c : CoreIx) (rd : RegNum) (h : HurdleIx) (code : HCode) : Prop :=
  (t.dev.core c).hrdRes = (t.dev.hurdle h.val).resultWord h.val code ∧ (t.dev.core c).pc = (u.dev.core c).pc + 4 ∧
    (rd.val ≠ 0 → (t.dev.core c).getX rd = (t.dev.hurdle h.val).resultWord h.val code) ∧ VolatileOnly u t

/-- HRD_OP has left its core stalled at the Hurdle. -/
def State.HrdStalled (u t : State) (c : CoreIx) (rd : RegNum) (h : HurdleIx) : Prop :=
  (t.dev.core c).stall = .hurdle h rd ∧ (t.dev.core c).pc = (u.dev.core c).pc ∧ VolatileOnly u t ∧ RegsKept u t []

/-- The Hurdle, the registers and the other cores of `t` are those of `d`. -/
def State.RestOf (t : State) (d : Dev) (c : CoreIx) (h : HurdleIx) : Prop :=
  t.dev.hurdle h.val = d.hurdle h.val ∧ (∀ r, t.dev.reg r = d.reg r) ∧ ∀ x, x ≠ c → t.dev.core x = d.core x

variable {s u : State} {c : CoreIx} {rd : RegNum} {h : HurdleIx} {op : HOp} {arg : Nat} {g : Option Nat} {d : Dev} {code : HCode}

/-- Where an operation is not illegal and does not wait for stores it goes to the Hurdle's home. -/
theorem State.hrdCore_eq_hrdNow (hp : op.privileged = false ∨ (u.dev.core c).mach = true)
    (ha : op ≠ .arrive ∨ u.dev.storesOut c = false) (w : Word32) : u.hrdCore c rd op h arg g w = u.hrdNow c rd op h arg g := by
  unfold State.hrdCore
  rw [if_neg, if_neg]
  · rintro ⟨hop, hout⟩
    exact ha.elim (· hop) fun hn => Bool.false_ne_true (hn.symm.trans hout)
  · rcases hp with hp | hp <;> simp [hp]

theorem State.hrdCore_of_user (hp : op.privileged = true) (hm : (u.dev.core c).mach = false) (w : Word32) :
    u.hrdCore c rd op h arg g w = u.illegal c w := if_pos (by rw [hp, hm]; rfl)

theorem State.hrdNow_of_done (hb : u.hurdleHome h = .bank) (he : u.dev.bankCore u.now c op h.val arg g = (.done code, d)) :
    u.hrdNow c rd op h arg g = u.onDev fun _ => d.modCore c fun k => k.hrdDone rd ((d.hurdle h.val).resultWord h.val code) := by
  unfold State.hrdNow
  rw [hb]
  dsimp only
  rw [he]

theorem State.hrdNow_of_wait (hb : u.hurdleHome h = .bank) (he : u.dev.bankCore u.now c op h.val arg g = (.wait, d)) :
    u.hrdNow c rd op h arg g = u.onDev fun _ => d.modCore c fun k => { k with stall := .hurdle h rd } := by
  unfold State.hrdNow
  rw [hb]
  dsimp only
  rw [he]

/-- ARG and GV of an operation word are 16 bits; an operation that has none disregards them. -/
theorem exec_hurdleCmd_of_issues (hi : Issues s c 4 u) (op : HOp) (rd : RegNum) (h : HurdleIx) (arg : Nat) (g : Option Nat) :
    exec (hurdleCmd op (.core c rd) h arg g) s = .next (u.hrdCore c rd op h (arg % 65536) (g.map (· % 65536))
      (csrWord 0x830 (fld u.dev.free 4 0) 1 rd.val)) :=
  exec_of_issues (f := fun u => u.hrdCore c rd op h (arg % 65536) (g.map (· % 65536)) (csrWord 0x830 (fld u.dev.free 4 0) 1 rd.val)) hi
    (by cases op <;> rfl)

section
variable (hi : Issues s c 4 u) (hb : u.hurdleHome h = .bank) (hp : op.privileged = false ∨ (u.dev.core c).mach = true)
  (ha : op ≠ .arrive ∨ u.dev.storesOut c = false)

include hi hb hp ha

theorem exec_hurdleCmd_of_done (he : u.dev.bankCore u.now c op h.val (arg % 65536) (g.map (· % 65536)) = (.done code, d)) :
    exec (hurdleCmd op (.core c rd) h arg g) s =
      .next (u.onDev fun _ => d.modCore c fun k => k.hrdDone rd ((d.hurdle h.val).resultWord h.val code)) := by
  rw [exec_hurdleCmd_of_issues hi, State.hrdCore_eq_hrdNow hp ha, State.hrdNow_of_done hb he]

/-- An operation that the bank answers completes with its result word. -/
theorem hurdleCmd_answered (he : u.dev.bankCore u.now c op h.val (arg % 65536) (g.map (· % 65536)) = (.done code, d))
    (hk : u.dev.OthersKept d) : Completes (hurdleCmd op (.core c rd) h arg g) s fun t => u.HrdAnswered t c rd h code ∧ t.RestOf d c h := by
  refine ⟨_, exec_hurdleCmd_of_done hi hb hp ha he, ⟨?last, ?pc, ?rd, VolatileOnly.onDev ..⟩, rfl, fun _ => rfl, ?others⟩
  case last =>
    rw [State.onDev_dev, Dev.core_modCore]
    rfl
  case pc =>
    rw [State.onDev_dev, Dev.core_modCore, Core.hrdDone_pc, (hk.idle c hi.stall).2]
  case rd =>
    intro hrd
    rw [State.onDev_dev, Dev.core_modCore, Core.hrdDone_getX _ _ hrd]
    rfl
  case others => exact fun x hx => Dev.core_modCore_ne _ _ _ _ hx

/-- An operation that changes nothing at the bank changes its core alone. -/
theorem hurdleCmd_onlyCore (he : u.dev.bankCore u.now c op h.val (arg % 65536) (g.map (· % 65536)) = (.done code, u.dev)) :
    Completes (hurdleCmd op (.core c rd) h arg g) s fun t =>
      OnlyCore u t c ((u.dev.core c).hrdDone rd ((u.dev.hurdle h.val).resultWord h.val code)) :=
  ⟨_, exec_hurdleCmd_of_done hi hb hp ha he, State.onDev_congr rfl⟩

/-- An operation that waits at the bank stalls its core. -/
theorem hurdleCmd_stalled {y : Hurdle} (he : u.dev.bankCore u.now c op h.val (arg % 65536) (g.map (· % 65536)) =
      (.wait, u.dev.setHurdle h.val y)) :
    Completes (hurdleCmd op (.core c rd) h arg g) s fun t => u.HrdStalled t c rd h ∧ t.dev.hurdle h.val = y := by
  refine ⟨u.onDev fun _ => (u.dev.setHurdle h.val y).modCore c fun k => { k with stall := .hurdle h rd }, ?_,
    ⟨?stall, ?pc, VolatileOnly.onDev .., fun _ _ => rfl⟩, Dev.hurdle_setHurdle ..⟩
  case stall => rw [State.onDev_dev, Dev.core_modCore]
  case pc =>
    rw [State.onDev_dev, Dev.core_modCore]
    rfl
  rw [exec_hurdleCmd_of_issues hi, State.hrdCore_eq_hrdNow hp ha, State.hrdNow_of_wait hb he]

end

/-- An operation that needs machine mode is an illegal instruction in user mode. -/
theorem hurdleCmd_illegal (hi : Issues s c 4 u) (hp : op.privileged = true) (hm : (u.dev.core c).mach = false) :
    Completes (hurdleCmd op (.core c rd) h arg g) s fun t => (t.dev.core c).mcause = 2 ∧ t.dev.hurdle h.val = u.dev.hurdle h.val := by
  refine ⟨_, (exec_hurdleCmd_of_issues hi op rd h arg g).trans (congrArg _ (State.hrdCore_of_user hp hm _)), ?_, ?_⟩
  · exact (congrArg Core.mcause (Dev.trap_core ..)).trans rfl
  · unfold State.illegal Dev.illegal Dev.trap
    dsimp only [State.onDev_dev]
    split <;> rfl

/-- An ARRIVE waits for the stores of its core before it (R267). -/
theorem arrive_waits_for_stores (hi : Issues s c 4 u) (hout : u.dev.storesOut c = true) (rd : RegNum) (h : HurdleIx) (arg : Nat) :
    Completes (.arrive (.core c rd) h arg) s fun t => OnlyCore u t c { u.dev.core c with stall := .arrive h (arg % 65536) rd } := by
  refine ⟨_, exec_hurdleCmd_of_issues hi .arrive rd h arg none, ?_⟩
  exact (if_neg Bool.false_ne_true).trans ((if_pos ⟨rfl, hout⟩).trans (OnlyCore.modCore ..))

end Sys2Proof.Machine
end

section
/-! The statement of the operations of a core on a Hurdle, settled. -/

namespace Sys2Proof.Machine

section
variable {s u : State} {c : CoreIx} {h : HurdleIx} (hi : Issues s c 4 u) (hb : u.hurdleHome h = .bank) (rd : RegNum)

include hi hb

theorem arrive_counts {arg : Nat} (hm : (u.dev.hurdle h.val).mode = 1) (hs : (u.dev.hurdle h.val).state = 1)
    (hspan : (u.dev.hurdle h.val).span = false) (hout : u.dev.storesOut c = false)
    (hc : (u.dev.hurdle h.val).count + unitsOf arg < (u.dev.hurdle h.val).target) :
    Completes (.arrive (.core c rd) h arg) s fun t => u.HrdAnswered t c rd h 0 ∧
      t.dev.hurdle h.val = { u.dev.hurdle h.val with count := (u.dev.hurdle h.val).count + unitsOf arg } ∧ RegsKept u t [] := by
  obtain ⟨l, hl⟩ := Dev.arrive_below hm hs hspan ((unitsOf_mod arg).symm ▸ hc) u.now (some (corePart c))
  rw [unitsOf_mod] at hl
  refine (hurdleCmd_answered hi hb (op := .arrive) (g := none) (.inl rfl) (.inr hout)
    (congrArg (fun r : HCode × Dev => (HRes.done r.1, r.2)) hl) ⟨fun _ => rfl, fun _ hx => ⟨hx, rfl⟩⟩).imp ?_
  rintro t ⟨hans, hurdle, hreg, -⟩
  exact ⟨hans, hurdle.trans (Dev.hurdle_setHurdle ..), fun r _ => hreg r⟩

theorem arrive_releases {arg : Nat} (hm : (u.dev.hurdle h.val).mode = 1) (hs : (u.dev.hurdle h.val).state = 1)
    (hspan : (u.dev.hurdle h.val).span = false) (hout : u.dev.storesOut c = false)
    (hc : (u.dev.hurdle h.val).target ≤ (u.dev.hurdle h.val).count + unitsOf arg) (hr : (u.dev.hurdle h.val).rearm = false) :
    Completes (.arrive (.core c rd) h arg) s fun t => u.HrdAnswered t c rd h 0 ∧
      (t.dev.hurdle h.val).gen = ((u.dev.hurdle h.val).gen + 1) % 65536 ∧ (t.dev.hurdle h.val).state = 2 ∧
      (t.dev.hurdle h.val).holders = [] ∧ ∀ c' rd', c' ≠ c → { who := .core c', gen := none } ∈ (u.dev.hurdle h.val).waits →
        (u.dev.core c').stall = .hurdle h rd' → (t.dev.core c').stall = .none := by
  obtain ⟨l, hl⟩ := Dev.arrive_target hm hs hspan ((unitsOf_mod arg).symm ▸ hc) u.now (some (corePart c))
  rw [unitsOf_mod] at hl
  let x : Hurdle := { u.dev.hurdle h.val with count := (u.dev.hurdle h.val).count + unitsOf arg }
  let e : Dev := { u.dev with phArr := l }.setHurdle h.val x
  have hx : e.hurdle h.val = x := Dev.hurdle_setHurdle ..
  have hkept : u.dev.OthersKept e := ⟨fun _ => rfl, fun _ hx => ⟨hx, rfl⟩⟩
  refine (hurdleCmd_answered hi hb (op := .arrive) (g := none) (.inl rfl) (.inr hout)
    (congrArg (fun r : HCode × Dev => (HRes.done r.1, r.2)) hl) (hkept.trans (Dev.release_others ..))).imp ?_
  rintro t ⟨hans, hurdle, -, hcores⟩
  obtain ⟨p, q, hrel⟩ := e.release_hurdle u.now h.val false
  have hsteps : x.steps = 1 := Hurdle.steps_of_not_again (.inl hr)
  rw [hrel, hx] at hurdle
  refine ⟨hans, ?gen, ?state, congrArg Hurdle.holders hurdle, fun c' rd' hne hw hstall => ?woken⟩
  case gen => exact (congrArg Hurdle.gen hurdle).trans (congrArg (fun n => ((u.dev.hurdle h.val).gen + n) % 65536) hsteps)
  case state => exact (congrArg Hurdle.state hurdle).trans (if_neg (by rw [show x.rearm = false from hr]; exact Bool.false_ne_true))
  case woken =>
    rw [hcores c' hne]
    exact Dev.release_wakes (d := e) (hx ▸ hw) hstall u.now false

/-- An operation that stores one Hurdle and nothing else completes with its result word and leaves every register. -/
theorem hurdleCmd_stores {op : HOp} {arg : Nat} {g : Option Nat} {y : Hurdle} {code : HCode}
    (hp : op.privileged = false ∨ (u.dev.core c).mach = true) (ha : op ≠ .arrive)
    (he : u.dev.bankCore u.now c op h.val (arg % 65536) (g.map (· % 65536)) = (.done code, u.dev.setHurdle h.val y)) :
    Completes (hurdleCmd op (.core c rd) h arg g) s fun t => u.HrdAnswered t c rd h code ∧ t.dev.hurdle h.val = y ∧ RegsKept u t [] := by
  refine (hurdleCmd_answered hi hb hp (.inl ha) he (.setHurdle ..)).imp ?_
  rintro t ⟨hans, hurdle, hreg, -⟩
  exact ⟨hans, hurdle.trans (Dev.hurdle_setHurdle ..), fun r _ => hreg r⟩

theorem notify_registers {g : Option Nat} (hm : (u.dev.hurdle h.val).mode ≠ 3)
    (hw : (u.dev.hurdle h.val).waitNow (g.map (· % 65536)) = none) (hn : u.dev.notes c < 4) :
    Completes (.notify (.core c rd) h g) s fun t => u.HrdAnswered t c rd h 0 ∧ (t.dev.hurdle h.val).waits =
      (u.dev.hurdle h.val).waits ++ [{ who := .note c, gen := g.map (· % 65536) }] := by
  refine (hurdleCmd_stores hi hb rd (op := .notify) (arg := 0) (.inl rfl) HOp.noConfusion (Dev.bankNotify_of_not_over hm hw hn)).imp ?_
  rintro t ⟨hans, hurdle, -⟩
  exact ⟨hans, congrArg Hurdle.waits hurdle⟩

theorem wait_stalls {g : Option Nat} (hm : (u.dev.hurdle h.val).mode ≠ 3)
    (hw : (u.dev.hurdle h.val).waitNow (g.map (· % 65536)) = none) :
    Completes (.wait (.core c rd) h g) s fun t => u.HrdStalled t c rd h ∧ (t.dev.hurdle h.val).waits =
      (u.dev.hurdle h.val).waits ++ [{ who := .core c, gen := g.map (· % 65536) }] := by
  refine (hurdleCmd_stalled hi hb (op := .wait) (arg := 0) (.inl rfl) (.inl HOp.noConfusion) (Dev.bankWait_of_not_over hm hw)).imp ?_
  rintro t ⟨hstall, hurdle⟩
  exact ⟨hstall, congrArg Hurdle.waits hurdle⟩

theorem join_holds (hs : (u.dev.hurdle h.val).state = 1) (hc : u.dev.coreHolds c < 11) :
    Completes (.join (.core c rd) h) s fun t =>
      u.HrdAnswered t c rd h 0 ∧ Holder.soft c ∈ (t.dev.hurdle h.val).holders ∧ RegsKept u t [] := by
  refine (hurdleCmd_stores hi hb rd (op := .join) (arg := 0) (g := none) (.inl rfl) HOp.noConfusion (Dev.bankJoin_of_room hs hc)).imp ?_
  rintro t ⟨hans, hurdle, hreg⟩
  have hholds := u.dev.join_holds h.val (.soft c)
  rw [Dev.join, Dev.modHurdle, Dev.hurdle_setHurdle] at hholds
  exact ⟨hans, hurdle ▸ hholds, hreg⟩

theorem acquire_takes {arg : Nat} (hm : (u.dev.hurdle h.val).mode = 3) (hs : (u.dev.hurdle h.val).state = 1)
    (ha : (u.dev.hurdle h.val).acqs = []) (hc : unitsOf arg ≤ (u.dev.hurdle h.val).count) :
    Completes (.acquire (.core c rd) h arg) s fun t => u.HrdAnswered t c rd h 0 ∧
      t.dev.hurdle h.val = { u.dev.hurdle h.val with count := (u.dev.hurdle h.val).count - unitsOf arg } ∧ RegsKept u t [] := by
  have he := Dev.bankAcquire_of_units (c := c) hm hs ha ((unitsOf_mod arg).symm ▸ hc)
  rw [unitsOf_mod] at he
  exact hurdleCmd_stores hi hb rd (op := .acquire) (g := none) (.inl rfl) HOp.noConfusion he

theorem acquire_queues {arg : Nat} (hm : (u.dev.hurdle h.val).mode = 3) (hs : (u.dev.hurdle h.val).state = 1)
    (ha : (u.dev.hurdle h.val).acqs = []) (hc : (u.dev.hurdle h.val).count < unitsOf arg) :
    Completes (.acquire (.core c rd) h arg) s fun t => u.HrdStalled t c rd h ∧
      t.dev.hurdle h.val = { u.dev.hurdle h.val with acqs := [(c, unitsOf arg)] } := by
  have he := Dev.bankAcquire_of_few (c := c) hm hs ha ((unitsOf_mod arg).symm ▸ hc)
  rw [unitsOf_mod] at he
  exact hurdleCmd_stalled hi hb (op := .acquire) (g := none) (.inl rfl) (.inl HOp.noConfusion) he

theorem arm_arms (hk : (u.dev.core c).mach = true) (hs : (u.dev.hurdle h.val).state ≠ 1) (hm : (u.dev.hurdle h.val).mode ≠ 0)
    (hspan : (u.dev.hurdle h.val).span = false) : Completes (.arm (.core c rd) h) s fun t => u.HrdAnswered t c rd h 0 ∧
      t.dev.hurdle h.val = (u.dev.hurdle h.val).armed ∧ RegsKept u t [] :=
  hurdleCmd_stores hi hb rd (op := .arm) (arg := 0) (g := none) (.inr hk) HOp.noConfusion
    (congrArg (fun r : HCode × Dev => (HRes.done r.1, r.2)) (Dev.armHurdle_of_not_span hs hm hspan u.now))

theorem config_configures {d : Dev} (hk : (u.dev.core c).mach = true)
    (hd : u.dev.writeCfg u.now h.val (u.dev.core c).hrdCfgw = some d) :
    Completes (.config (.core c rd) h) s fun t => u.HrdAnswered t c rd h 0 ∧ t.dev.hurdle h.val = d.hurdle h.val := by
  have he : u.dev.bankCore u.now c .config h.val 0 none = (.done 0, d) := by
    unfold Dev.bankCore
    dsimp only
    rw [hd]
  refine (hurdleCmd_answered hi hb (op := .config) (arg := 0) (g := none) (.inr hk) (.inl HOp.noConfusion) he (Dev.writeCfg_others hd)).imp ?_
  rintro t ⟨hans, hurdle, -⟩
  exact ⟨hans, hurdle⟩

theorem fail_fails (hk : (u.dev.core c).mach = true) (hs : (u.dev.hurdle h.val).state = 1) (hspan : (u.dev.hurdle h.val).span = false) :
    Completes (.fail (.core c rd) h) s fun t => u.HrdAnswered t c rd h 0 ∧ t.dev.hurdle h.val = (u.dev.hurdle h.val).failed 2 := by
  refine (hurdleCmd_answered hi hb (op := .fail) (arg := 0) (g := none) (.inr hk) (.inl HOp.noConfusion)
    (Dev.bankFail_of_not_span hs hspan u.now) (Dev.failHurdle_others ..)).imp ?_
  rintro t ⟨hans, hurdle, -⟩
  exact ⟨hans, hurdle.trans (Dev.failHurdle_hurdle ..)⟩

end

/-- Settles O45, operation by operation. -/
theorem coreHurdleOperationsComplete : Obligations.CoreHurdleOperationsComplete := by
  intro s u c rd h arg g hi hb
  dsimp only
  refine ⟨fun hm hs hspan hout => ⟨arrive_counts hi hb rd hm hs hspan hout, arrive_releases hi hb rd hm hs hspan hout⟩,
    fun hout => arrive_waits_for_stores hi hout rd h arg, fun hm => ⟨fun code hw => ?waitOver, fun hw => ⟨wait_stalls hi hb rd hm hw,
      notify_registers hi hb rd hm hw⟩⟩, ?peek, join_holds hi hb rd, fun hm hs ha => ⟨acquire_takes hi hb rd hm hs ha,
      acquire_queues hi hb rd hm hs ha⟩, fun hk => ⟨fun hs hm hspan => ?arm, fun d hd => config_configures hi hb rd hk hd,
      fun hs hspan => ?fail⟩, fun hk => ⟨hurdleCmd_illegal hi (op := .arm) (arg := 0) (g := none) rfl hk,
      hurdleCmd_illegal hi (op := .config) (arg := 0) (g := none) rfl hk,
      hurdleCmd_illegal hi (op := .fail) (arg := 0) (g := none) rfl hk⟩⟩
  case waitOver =>
    exact hurdleCmd_onlyCore hi hb (op := .wait) (arg := 0) (.inl rfl) (.inl HOp.noConfusion) (Dev.bankWait_of_over hm hw)
  case peek => exact hurdleCmd_onlyCore hi hb (op := .peek) (arg := 0) (g := none) (.inl rfl) (.inl HOp.noConfusion) rfl
  case arm =>
    refine (arm_arms hi hb rd hk hs hm hspan).imp ?_
    rintro t ⟨hans, hurdle, hreg⟩
    exact ⟨hans, congrArg Hurdle.state hurdle, (congrArg Hurdle.gen hurdle).trans rfl, congrArg Hurdle.count hurdle, hreg⟩
  case fail =>
    refine (fail_fails hi hb rd hk hs hspan).imp ?_
    rintro t ⟨hans, hurdle⟩
    exact ⟨hans, congrArg Hurdle.state hurdle, congrArg Hurdle.code hurdle, congrArg Hurdle.holders hurdle, congrArg Hurdle.waits hurdle⟩

end Sys2Proof.Machine
end

section
/-! Hurdles through registers (R265, R271 … R275, R452): HRD_HOP, HRD_CFG, the span table, and the events of a core. -/

namespace Sys2Proof.Machine

section
variable {s : State} {o : Origin} {h : HurdleIx} {op : HOp}

theorem exec_hurdleCmd_hop (op : HOp) (o : Origin) (h : HurdleIx) (arg : Nat) (g : Option Nat) (s : State) :
    exec (hurdleCmd op (.hop o) h arg g) s = .next (s.hop o op h (arg % 65536) (g.map (· % 65536))) := by cases op <;> rfl

theorem State.hop_of_bank (hm : s.mayWrite o .hrdHop) (hp : op.privileged = false ∨ o ≠ .fn0) (hb : s.hurdleHome h = .bank) (arg : Nat)
    (g : Option Nat) : s.hop o op h arg g = s.onDev fun _ => (s.dev.bankHop s.now op h.val arg g).2.setHop o
      (((s.dev.bankHop s.now op h.val arg g).2.hurdle h.val).resultWord h.val (s.dev.bankHop s.now op h.val arg g).1) := by
  unfold State.hop State.hopNow
  rw [State.regWrite_may hm, if_neg, hb]
  rintro ⟨hop, ho⟩
  exact hp.elim (fun hn => Bool.false_ne_true (hn.symm.trans hop)) (· ho)

theorem State.hop_of_refused (hm : s.mayWrite o .hrdHop) (hp : op.privileged = true) (ho : o = .fn0) (arg : Nat) (g : Option Nat) :
    s.hop o op h arg g = s.onDev fun d => d.setHop o ((d.hurdle h.val).resultWord h.val 5) := by
  unfold State.hop
  rw [State.regWrite_may hm, if_pos ⟨hp, ho⟩]

theorem exec_hrdHopReserved_of {v : Word} (hm : s.mayWrite o .hrdHop) (hv : HOp.ofCode (fld v 63 60) = none) :
    exec (.hrdHopReserved o v) s = .next (s.onDev fun d => d.setHop o ((d.hurdle (fld v 15 0)).resultWord (fld v 15 0) 5)) := by
  have hix : (Fin.ofNat 65536 (fld v 15 0)).val = fld v 15 0 := Nat.mod_eq_of_lt (fld_lt v 15 0)
  show execHrdHopReserved o v s = _
  rw [execHrdHopReserved, State.when_of (by rw [hv]; rfl), State.hopWord, hv]
  dsimp only
  rw [State.regWrite_may hm, hix]

-- HRD_CFG (R265)

/-- The Hurdle as an accepted write of HRD_CFG leaves it. -/
def Hurdle.configured (x : Hurdle) (v : Word) : Hurdle :=
  { x with
    cfg := v &&& Reg.rw .hrdHcfg, state := if fld v 63 60 = 0 then 0 else 1, code := 0
    count := if fld v 63 60 = 3 then fld v 31 16 else 0
    flag := flagIdentity (fld v 63 60), kidFlag := flagIdentity (fld v 63 60)
    passed := false, kids := [], sent := false, decided := none, orphan := false }

theorem Hurdle.configured_span {v : Word} (hv : bit v 58 = false) (x : Hurdle) : (x.configured v).span = false := by
  show bit (v &&& _) 58 = false
  unfold bit at hv ⊢
  rw [BitVec.getLsbD_and, hv, Bool.false_and]

theorem Dev.writeCfg_refused {d : Dev} {h : Nat} {v : Word}
    (hr : (d.hurdle h).state = 1 ∨ (d.hurdle h).holderCount ≠ 0 ∨ d.cfgAllowed h v = false) (now : Nat) : d.writeCfg now h v = none :=
  if_pos (hr.imp_right (Or.imp_right fun hc => by rw [hc]; rfl))

theorem Dev.writeCfg_accepted {d : Dev} {h : Nat} {v : Word} (hs : (d.hurdle h).state ≠ 1) (hh : (d.hurdle h).holderCount = 0)
    (hc : d.cfgAllowed h v = true) (hv : bit v 58 = false) (now : Nat) :
    d.writeCfg now h v = some (d.setHurdle h ((d.hurdle h).configured v)) := by
  have hy : ((d.setHurdle h ((d.hurdle h).configured v)).hurdle h).span = false := by
    rw [Dev.hurdle_setHurdle]
    exact Hurdle.configured_span hv _
  have haccept : ¬((d.hurdle h).state = 1 ∨ (d.hurdle h).holderCount ≠ 0 ∨ (!d.cfgAllowed h v) = true) := by simp [hs, hh, hc]
  exact (if_neg haccept).trans (congrArg some (Dev.spanPass_of_not_span hy now))

theorem exec_hrdCfgWrite_of (hm : s.mayWrite o (.hrdCfg h)) (v : Word) : exec (.hrdCfgWrite o h v) s = .next (s.hrdCfgWrite h v) :=
  congrArg Host.Outcome.next (State.regWrite_may hm _)

theorem hrdCfgWrite_refused {v : Word} (hm : s.mayWrite o (.hrdCfg h)) (hr : (s.dev.hurdle h.val).state = 1 ∨
      (s.dev.hurdle h.val).holderCount ≠ 0 ∨ s.dev.cfgAllowed h.val v = false) :
    Completes (.hrdCfgWrite o h v) s fun t => t.dev.hurdles = s.dev.hurdles ∧ bit (t.dev.reg .hrdHstat) 0 = true ∧
      fld (t.dev.reg .hrdHstat) 63 48 = h.val ∧ VolatileOnly s t ∧ RegsKept s t [.hrdHstat] := by
  refine ⟨_, exec_hrdCfgWrite_of hm v, ?_⟩
  rw [State.hrdCfgWrite, Dev.writeCfg_refused hr]
  refine ⟨rfl, ?refused, ?number, VolatileOnly.onDev .., RegsKept.modReg _ _ _ List.mem_cons_self⟩
  case refused =>
    rw [State.onDev_dev, Dev.reg_modReg, bit_setFld_out _ _ (by omega) (by omega) (by omega)]
    exact bit_setBit_self _ _ _ (by omega)
  case number =>
    rw [State.onDev_dev, Dev.reg_modReg, fld_setFld_self _ _ _ _ (by omega) (by omega)]
    exact Nat.mod_eq_of_lt h.isLt

theorem hrdCfgWrite_accepted {v : Word} (hm : s.mayWrite o (.hrdCfg h)) (hs : (s.dev.hurdle h.val).state ≠ 1)
    (hh : (s.dev.hurdle h.val).holderCount = 0) (hc : s.dev.cfgAllowed h.val v = true) (hv : bit v 58 = false) :
    Completes (.hrdCfgWrite o h v) s fun t => t.dev.hurdle h.val = (s.dev.hurdle h.val).configured v ∧
      (∀ j, j ≠ h.val → t.dev.hurdle j = s.dev.hurdle j) ∧ VolatileOnly s t ∧ RegsKept s t [] := by
  refine ⟨_, exec_hrdCfgWrite_of hm v, ?_⟩
  rw [State.hrdCfgWrite, Dev.writeCfg_accepted hs hh hc hv]
  exact ⟨Dev.hurdle_setHurdle .., fun j hj => Dev.hurdle_setHurdle_ne hj .., VolatileOnly.onDev .., fun _ _ => rfl⟩

-- the span table (R275)

theorem exec_spanEntryWrite_of {sl : Fin 256} {half : Fin 2} (hm : s.mayWrite o (.span sl half)) (v : Word) :
    exec (.spanEntryWrite o sl half v) s = .next (s.onDev fun d => d.spanWrite sl half v) :=
  congrArg Host.Outcome.next (State.regWrite_may hm _)

/-- Whether a spanning Hurdle names an entry. -/
theorem Dev.spanUsed_iff (d : Dev) (sl : Fin 256) :
    (d.hurdles.any fun e => e.2.span && e.2.slot == sl) = true ↔ ∃ e ∈ d.hurdles, e.2.span = true ∧ e.2.slot = sl := by
  simp only [List.any_eq_true, Bool.and_eq_true, beq_iff_eq]

theorem spanEntryWrite_stored {sl : Fin 256} {half : Fin 2} (hm : s.mayWrite o (.span sl half))
    (hf : ∀ e ∈ s.dev.hurdles, e.2.span = true → e.2.slot ≠ sl) (v : Word) :
    Completes (.spanEntryWrite o sl half v) s fun t =>
      t.dev.reg (.span sl half) = storeTyped (.span sl half) (s.dev.reg (.span sl half)) v ∧ VolatileOnly s t ∧
        RegsKept s t [.span sl half] := by
  have hfree : s.dev.spanWrite sl half v = s.dev.modReg (.span sl half) fun w => storeTyped (.span sl half) w v :=
    if_neg fun hu => by
      obtain ⟨e, he, hspan, hslot⟩ := (s.dev.spanUsed_iff sl).1 hu
      exact hf e he hspan hslot
  refine ⟨_, exec_spanEntryWrite_of hm v, ?_, VolatileOnly.onDev .., RegsKept.of_modReg hfree fun _ => rfl⟩
  rw [State.onDev_dev, hfree, Dev.reg_modReg]

theorem spanEntryWrite_refused {sl : Fin 256} {half : Fin 2} (hm : s.mayWrite o (.span sl half))
    (hu : ∃ e ∈ s.dev.hurdles, e.2.span = true ∧ e.2.slot = sl) (v : Word) :
    Completes (.spanEntryWrite o sl half v) s fun t => bit (t.dev.reg .hrdHstat) 1 = true ∧
      fld (t.dev.reg .hrdHstat) 47 40 = sl.val ∧ VolatileOnly s t ∧ RegsKept s t [.hrdHstat] := by
  have hused : s.dev.spanWrite sl half v = s.dev.modReg .hrdHstat fun w => setFld (setBit w 1 true) 47 40 sl.val :=
    if_pos ((s.dev.spanUsed_iff sl).2 hu)
  refine ⟨_, exec_spanEntryWrite_of hm v, ?refused, ?number, VolatileOnly.onDev .., RegsKept.of_modReg hused fun _ => rfl⟩
  case refused =>
    rw [State.onDev_dev, hused, Dev.reg_modReg, bit_setFld_out _ _ (by omega) (by omega) (by omega)]
    exact bit_setBit_self _ _ _ (by omega)
  case number =>
    rw [State.onDev_dev, hused, Dev.reg_modReg, fld_setFld_self _ _ _ _ (by omega) (by omega)]
    exact Nat.mod_eq_of_lt sl.isLt

end

/-- Settles O46, register by register. -/
theorem hurdleRegistersComplete : Obligations.HurdleRegistersComplete := by
  intro s o h op arg g v sl half
  refine ⟨fun hm => ⟨fun hp hb => ?bank, fun hp ho => ?denied, fun hv => ⟨_, exec_hrdHopReserved_of hm hv, rfl⟩⟩,
    fun hm => ⟨hrdCfgWrite_refused hm, fun hs hh hc hv => ?accepted⟩,
    fun hm => ⟨fun hf => spanEntryWrite_stored hm hf v, fun hu => spanEntryWrite_refused hm hu v⟩,
    fun c rd u hi => ⟨_, exec_of_issues hi rfl, OnlyCore.modCore ..⟩⟩
  case bank => rw [exec_hurdleCmd_hop, State.hop_of_bank hm hp hb]
  case denied => rw [exec_hurdleCmd_hop, State.hop_of_refused hm hp ho]
  case accepted =>
    refine (hrdCfgWrite_accepted hm hs hh hc hv).imp ?_
    rintro t ⟨hurdle, hothers, hvol, hregs⟩
    exact ⟨congrArg Hurdle.cfg hurdle, congrArg Hurdle.state hurdle, (congrArg Hurdle.gen hurdle).trans rfl, hothers, hvol, hregs⟩

end Sys2Proof.Machine
end

section
/-! The messages of a spanning Hurdle (R277, R278, R300). -/

namespace Sys2Proof.Machine

-- the message leaves the receive buffer

theorem Port.freeBatons_rx (p : Port) (vc n : Nat) : (p.freeBatons vc n).rx = p.rx := by
  unfold Port.freeBatons
  split <;> rfl

theorem Port.take_rx {p : Port} {vc : Nat} {m : RxMsg} (h : p.oldest vc = some m) : (p.take vc).rx = p.rx.eraseP fun k => k.vc == vc := by
  unfold Port.take
  rw [h]
  exact Port.freeBatons_rx ..

/-- The device once the oldest management message of a port has been taken. -/
def Dev.mgmtTaken (d : Dev) (n : PortIx) : Dev := d.modPort n fun x => x.take 3

/-- Nothing of the ports' buffers but the message taken, and nothing beside the device, differs. -/
def State.TookMgmt (s t : State) (n : PortIx) : Prop :=
  (t.dev.port n).rx = (s.dev.port n).rx.eraseP (fun k => k.vc == 3) ∧ VolatileOnly s t

-- what a message does at the bank

section
variable {d : Dev} {n : PortIx} {h : Nat} {m : Msg}

theorem Dev.spanCheck_of_not_passed (hp : (d.hurdle h).passed = false) (now : Nat) : d.spanCheck now h = d :=
  if_neg fun hc => Bool.false_ne_true (hp.symm.trans hc.2.2.1)

/-- A Hurdle with one more child's arrival. -/
def Hurdle.withChild (x : Hurdle) (n : PortIx) (m : Msg) : Hurdle :=
  { x with kids := x.kids ++ [(n, m.src)], kidFlag := flagOp x.mode x.kidFlag (m.byte 5 % 2 == 1), holders := x.holders ++ [.link n m.src] }

/-- An arrival from a child that has not arrived yet, while this device's own part is still out, is counted and held for. -/
theorem Dev.childArrives_counts (hd : (d.hurdle h).decided = none) (hspan : (d.hurdle h).span = true)
    (hport : bit (d.spanHi (d.hurdle h).slot) n.val = true) (hs : (d.hurdle h).state = 1) (hg : m.half 2 = (d.hurdle h).gen)
    (hp : (d.hurdle h).passed = false) (hnew : ∀ k ∈ (d.hurdle h).kids, k.2 ≠ m.src)
    (hlen : (d.hurdle h).kids.length < fld (d.spanLo (d.hurdle h).slot) 27 16) (now : Nat) :
    d.childArrives now n h m = d.setHurdle h ((d.hurdle h).withChild n m) := by
  have hkids : ((d.hurdle h).kids.any fun k => k.2 == m.src) = false :=
    List.any_eq_false.2 fun k hk => by simpa using hnew k hk
  have hcheck : ((d.setHurdle h ((d.hurdle h).withChild n m)).hurdle h).passed = false := by
    rw [Dev.hurdle_setHurdle]
    exact hp
  unfold Dev.childArrives
  extract_lets x ok
  have hok : ok = true := by simp [ok, x, hspan, hport, hkids, hlen]
  rw [if_neg (by rw [hd]; simp), if_pos (by simp [x, hok, hs, hg])]
  exact Dev.spanCheck_of_not_passed hcheck now

theorem Dev.childArrives_stray (hspan : (d.hurdle h).span = false) (now : Nat) : d.childArrives now n h m = d.refuseSpan n := by
  unfold Dev.childArrives
  simp only [hspan, Bool.false_and, Bool.false_eq_true, if_false]

/-- A root whose decision has not been made fails, and the failure goes down. -/
theorem Dev.loseHurdle_of_root (hs : (d.hurdle h).state = 1) (hspan : (d.hurdle h).span = true) (hsent : (d.hurdle h).sent = false)
    (hroot : portIx (fld (d.spanLo (d.hurdle h).slot) 46 40) = none) (now code : Nat) :
    d.loseHurdle now h code = (d.sendDown h (d.hurdle h) 3 false code).failHurdle now h code := by
  unfold Dev.loseHurdle
  simp only [hs, hspan, hsent, hroot]
  rfl

/-- CODE of a failure message. -/
def Msg.failCode (m : Msg) : Nat := if m.byte 6 = 2 then 2 else 1

theorem Dev.childFails_of_root (hspan : (d.hurdle h).span = true) (hport : bit (d.spanHi (d.hurdle h).slot) n.val = true)
    (hs : (d.hurdle h).state = 1) (hg : m.half 2 = (d.hurdle h).gen) (hsent : (d.hurdle h).sent = false)
    (hroot : portIx (fld (d.spanLo (d.hurdle h).slot) 46 40) = none) (now : Nat) :
    d.childFails now n h m = (d.sendDown h (d.hurdle h) 3 false m.failCode).failHurdle now h m.failCode := by
  unfold Dev.childFails
  dsimp only
  rw [if_neg (by rw [hspan, hport]; decide), if_neg fun hne => hne hg]
  exact Dev.loseHurdle_of_root hs hspan hsent hroot now _

theorem Dev.childFails_stray (hspan : (d.hurdle h).span = false) (now : Nat) : d.childFails now n h m = d.refuseSpan n := by
  unfold Dev.childFails
  exact if_pos (by rw [hspan]; rfl)

theorem Dev.fromParent_of {gen : Nat} (hspan : (d.hurdle h).span = true) (hpar : fld (d.spanLo (d.hurdle h).slot) 46 40 = n.val)
    (hg : gen = (d.hurdle h).gen) : d.fromParent n h gen = true := by
  unfold Dev.fromParent
  simp only [hspan, hpar, hg, beq_self_eq_true, Bool.and_self]

/-- The parent's release: this device's Hurdle is released and the decision goes down. -/
def Dev.parentReleases (d : Dev) (now : Nat) (n : PortIx) (h : Nat) (m : Msg) : Dev :=
  if d.fromParent n h (m.half 2) && (d.hurdle h).state == 1 then
    (d.sendDown h (d.hurdle h) 2 (m.byte 5 % 2 == 1) 0).release now h (m.byte 5 % 2 == 1)
  else d.refuseSpan n

/-- The parent's failure decision: this device's Hurdle fails and the decision goes down. -/
def Dev.parentFails (d : Dev) (now : Nat) (n : PortIx) (h : Nat) (m : Msg) : Dev :=
  if d.fromParent n h (m.half 2) && (d.hurdle h).state == 1 then
    (d.sendDown h (d.hurdle h) 3 false m.failCode).failHurdle now h m.failCode
  else d.refuseSpan n

theorem Dev.parentReleases_of (hspan : (d.hurdle h).span = true) (hpar : fld (d.spanLo (d.hurdle h).slot) 46 40 = n.val)
    (hs : (d.hurdle h).state = 1) (hg : m.half 2 = (d.hurdle h).gen) (now : Nat) : d.parentReleases now n h m =
      (d.sendDown h (d.hurdle h) 2 (m.byte 5 % 2 == 1) 0).release now h (m.byte 5 % 2 == 1) :=
  if_pos (Bool.and_eq_true_iff.2 ⟨Dev.fromParent_of hspan hpar hg, beq_iff_eq.2 hs⟩)

theorem Dev.parentFails_of (hspan : (d.hurdle h).span = true) (hpar : fld (d.spanLo (d.hurdle h).slot) 46 40 = n.val)
    (hs : (d.hurdle h).state = 1) (hg : m.half 2 = (d.hurdle h).gen) (now : Nat) : d.parentFails now n h m =
      (d.sendDown h (d.hurdle h) 3 false m.failCode).failHurdle now h m.failCode :=
  if_pos (Bool.and_eq_true_iff.2 ⟨Dev.fromParent_of hspan hpar hg, beq_iff_eq.2 hs⟩)

/-- A failure decided for the Hurdle goes down and fails it. -/
theorem Dev.failDown_kept (d : Dev) (now h code : Nat) :
    d.OthersKept ((d.sendDown h (d.hurdle h) 3 false code).failHurdle now h code) ∧
      ((d.sendDown h (d.hurdle h) 3 false code).failHurdle now h code).hurdle h = (d.hurdle h).failed code := by
  have hdown := d.sendDown_kept h (d.hurdle h) 3 false code
  exact ⟨hdown.toOthersKept.trans (Dev.failHurdle_others ..), by rw [Dev.failHurdle_hurdle, hdown.hurdle]⟩

end

-- the commands

section
variable {s : State} {n : PortIx} {m : RxMsg} {h : HurdleIx} (hm : (s.dev.port n).oldest 3 = some m) (hop : m.msg.op = 0x10)
  (hh : h.val = m.msg.half 0) (hb : s.hurdleHome h = .bank)

include hm in
theorem State.tookMgmt_of_kept {e : Dev} (hk : (s.dev.mgmtTaken n).OthersKept e) : s.TookMgmt (s.onDev fun _ => e) n := by
  refine ⟨(hk.rx n).trans ?_, VolatileOnly.onDev ..⟩
  unfold Dev.mgmtTaken
  rw [Dev.port_modPort]
  exact Port.take_rx hm

include hm hop hh hb

theorem State.spanMsg_of {kind : Nat} (hk : m.msg.byte 4 = kind) (f : Msg → Nat → State → State) :
    s.spanMsg n kind f = f m.msg h.val (s.onDev fun d => d.mgmtTaken n) := by
  have hix : Fin.ofNat 65536 (m.msg.half 0) = h := Fin.ext ((Nat.mod_eq_of_lt (hh ▸ h.isLt)).trans hh.symm)
  have hbank : (s.onDev fun d => d.modPort n fun x => x.take 3).hurdleHome h = .bank := hb
  unfold State.spanMsg
  rw [State.withMsg_of_oldest hm (by rw [Msg.isHurdle, hop, hk]; simp)]
  dsimp only
  rw [hix, hbank]
  rfl

/-- What a message does to the device it does once it has been taken. -/
theorem State.spanMsg_onDev_of {kind : Nat} (hk : m.msg.byte 4 = kind) (f : Nat → Msg → Nat → Dev → Dev) :
    s.spanMsg n kind (fun m h s => s.onDev (f s.now m h)) = s.onDev fun d => f s.now m.msg h.val (d.mgmtTaken n) := by
  rw [State.spanMsg_of hm hop hh hb hk, State.onDev_now]
  rfl

theorem exec_spanArrival_of (hk : m.msg.byte 4 = 0) :
    exec (.spanArrival n) s = .next (s.onDev fun d => (d.mgmtTaken n).childArrives s.now n h.val m.msg) :=
  congrArg Host.Outcome.next (State.spanMsg_onDev_of hm hop hh hb hk fun now m h d => d.childArrives now n h m)

theorem exec_spanFailureReport_of (hk : m.msg.byte 4 = 1) :
    exec (.spanFailureReport n) s = .next (s.onDev fun d => (d.mgmtTaken n).childFails s.now n h.val m.msg) :=
  congrArg Host.Outcome.next (State.spanMsg_onDev_of hm hop hh hb hk fun now m h d => d.childFails now n h m)

theorem exec_spanRelease_of (hk : m.msg.byte 4 = 2) :
    exec (.spanRelease n) s = .next (s.onDev fun d => (d.mgmtTaken n).parentReleases s.now n h.val m.msg) :=
  congrArg Host.Outcome.next (State.spanMsg_onDev_of hm hop hh hb hk fun now m h d => d.parentReleases now n h m)

theorem exec_spanFailureDecision_of (hk : m.msg.byte 4 = 3) :
    exec (.spanFailureDecision n) s = .next (s.onDev fun d => (d.mgmtTaken n).parentFails s.now n h.val m.msg) :=
  congrArg Host.Outcome.next (State.spanMsg_onDev_of hm hop hh hb hk fun now m h d => d.parentFails now n h m)

end

-- what does not belong (R277)

section
variable {s : State} {n : PortIx} {m : RxMsg} {h : HurdleIx}

/-- A message refused at the hub is counted against its port and changes nothing else. -/
theorem State.refuseSpan_counts (hm : (s.dev.port n).oldest 3 = some m) {i : Instr}
    (hi : exec i s = .next (s.onDev fun d => (d.mgmtTaken n).refuseSpan n)) :
    Completes i s fun t => s.TookMgmt t n ∧ t.dev.hurdle h.val = s.dev.hurdle h.val ∧
      fld (t.dev.reg (.linkPerr n)) 23 16 = min (fld (s.dev.reg (.linkPerr n)) 23 16 + 1) 255 ∧ RegsKept s t [.linkPerr n] := by
  refine ⟨_, hi, State.tookMgmt_of_kept hm ⟨fun _ => rfl, fun _ hc => ⟨hc, rfl⟩⟩, rfl, ?_, RegsKept.of_modReg rfl fun _ => rfl⟩
  unfold Dev.refuseSpan
  rw [State.onDev_dev, Dev.reg_modReg]
  exact fld_satAdd _ _ _ _ (by decide) (by decide)

end

end Sys2Proof.Machine
end

section
/-! The statement of the messages of a spanning Hurdle, settled. -/

namespace Sys2Proof.Machine

section
variable {s : State} {n : PortIx} {m : RxMsg} {h : HurdleIx} (hm : (s.dev.port n).oldest 3 = some m) (hop : m.msg.op = 0x10)
  (hh : h.val = m.msg.half 0) (hb : s.hurdleHome h = .bank)

include hm hop hh hb

theorem spanArrival_counts (hk : m.msg.byte 4 = 0) (hd : (s.dev.hurdle h.val).decided = none) (hspan : (s.dev.hurdle h.val).span = true)
    (hport : bit (s.dev.spanHi (s.dev.hurdle h.val).slot) n.val = true) (hs : (s.dev.hurdle h.val).state = 1)
    (hg : m.msg.half 2 = (s.dev.hurdle h.val).gen) (hp : (s.dev.hurdle h.val).passed = false)
    (hnew : ∀ k ∈ (s.dev.hurdle h.val).kids, k.2 ≠ m.msg.src)
    (hlen : (s.dev.hurdle h.val).kids.length < fld (s.dev.spanLo (s.dev.hurdle h.val).slot) 27 16) :
    Completes (.spanArrival n) s fun t =>
      s.TookMgmt t n ∧ t.dev.hurdle h.val = (s.dev.hurdle h.val).withChild n m.msg ∧ RegsKept s t [] := by
  have hcount := Dev.childArrives_counts (d := s.dev.mgmtTaken n) hd hspan hport hs hg hp hnew hlen s.now
  refine ⟨_, (exec_spanArrival_of hm hop hh hb hk).trans (congrArg _ (State.onDev_congr hcount)),
    State.tookMgmt_of_kept hm (.setHurdle ..), Dev.hurdle_setHurdle .., fun _ _ => rfl⟩

theorem spanFailureReport_fails (hk : m.msg.byte 4 = 1) (hspan : (s.dev.hurdle h.val).span = true)
    (hport : bit (s.dev.spanHi (s.dev.hurdle h.val).slot) n.val = true) (hs : (s.dev.hurdle h.val).state = 1)
    (hg : m.msg.half 2 = (s.dev.hurdle h.val).gen) (hsent : (s.dev.hurdle h.val).sent = false)
    (hroot : portIx (fld (s.dev.spanLo (s.dev.hurdle h.val).slot) 46 40) = none) :
    Completes (.spanFailureReport n) s fun t =>
      s.TookMgmt t n ∧ t.dev.hurdle h.val = (s.dev.hurdle h.val).failed m.msg.failCode := by
  have hfail := Dev.childFails_of_root (d := s.dev.mgmtTaken n) hspan hport hs hg hsent hroot s.now
  obtain ⟨hkept, hurdle⟩ := (s.dev.mgmtTaken n).failDown_kept s.now h.val m.msg.failCode
  exact ⟨_, (exec_spanFailureReport_of hm hop hh hb hk).trans (congrArg _ (State.onDev_congr hfail)),
    State.tookMgmt_of_kept hm hkept, hurdle⟩

theorem spanRelease_releases (hk : m.msg.byte 4 = 2) (hspan : (s.dev.hurdle h.val).span = true)
    (hpar : fld (s.dev.spanLo (s.dev.hurdle h.val).slot) 46 40 = n.val) (hs : (s.dev.hurdle h.val).state = 1)
    (hg : m.msg.half 2 = (s.dev.hurdle h.val).gen) :
    Completes (.spanRelease n) s fun t => s.TookMgmt t n ∧ ∃ l p q, t.dev.hurdle h.val =
      { (s.dev.hurdle h.val).released (m.msg.byte 5 % 2 == 1) with waits := l, passed := p, sent := q } := by
  have hrel := Dev.parentReleases_of (d := s.dev.mgmtTaken n) hspan hpar hs hg s.now
  have hdown := (s.dev.mgmtTaken n).sendDown_kept h.val ((s.dev.mgmtTaken n).hurdle h.val) 2 (m.msg.byte 5 % 2 == 1) 0
  obtain ⟨p, q, hurdle⟩ := Dev.release_hurdle ((s.dev.mgmtTaken n).sendDown h.val ((s.dev.mgmtTaken n).hurdle h.val) 2
    (m.msg.byte 5 % 2 == 1) 0) s.now h.val (m.msg.byte 5 % 2 == 1)
  rw [hdown.hurdle] at hurdle
  exact ⟨_, (exec_spanRelease_of hm hop hh hb hk).trans (congrArg _ (State.onDev_congr hrel)),
    State.tookMgmt_of_kept hm (hdown.toOthersKept.trans (Dev.release_others ..)), _, p, q, hurdle⟩

theorem spanFailureDecision_fails (hk : m.msg.byte 4 = 3) (hspan : (s.dev.hurdle h.val).span = true)
    (hpar : fld (s.dev.spanLo (s.dev.hurdle h.val).slot) 46 40 = n.val) (hs : (s.dev.hurdle h.val).state = 1)
    (hg : m.msg.half 2 = (s.dev.hurdle h.val).gen) :
    Completes (.spanFailureDecision n) s fun t =>
      s.TookMgmt t n ∧ t.dev.hurdle h.val = (s.dev.hurdle h.val).failed m.msg.failCode := by
  have hfail := Dev.parentFails_of (d := s.dev.mgmtTaken n) hspan hpar hs hg s.now
  obtain ⟨hkept, hurdle⟩ := (s.dev.mgmtTaken n).failDown_kept s.now h.val m.msg.failCode
  exact ⟨_, (exec_spanFailureDecision_of hm hop hh hb hk).trans (congrArg _ (State.onDev_congr hfail)),
    State.tookMgmt_of_kept hm hkept, hurdle⟩

end

/-- Settles O47, message by message. -/
theorem spanMessagesComplete : Obligations.SpanMessagesComplete := by
  intro s n m h hm hop hh hb
  dsimp only
  refine ⟨fun hk hd => ⟨fun hspan hport hs hg hp hnew hlen => ?arrival, fun hspan => ?strayArrival⟩,
    fun hk => ⟨fun hspan hport hs hg hsent hroot => ?report, fun hspan => ?strayReport⟩,
    fun hspan hpar hs hg => ⟨fun hk hmode => ?release, fun hk => ?decision⟩⟩
  case arrival =>
    refine (spanArrival_counts hm hop hh hb hk hd hspan hport hs hg hp hnew hlen).imp ?_
    rintro t ⟨htaken, hurdle, hregs⟩
    rw [hurdle]
    exact ⟨htaken, rfl, List.mem_append_right _ List.mem_cons_self, rfl, hs, hregs⟩
  case strayArrival =>
    exact State.refuseSpan_counts hm ((exec_spanArrival_of hm hop hh hb hk).trans
      (congrArg _ (State.onDev_congr (Dev.childArrives_stray (d := s.dev.mgmtTaken n) hspan s.now))))
  case report =>
    refine (spanFailureReport_fails hm hop hh hb hk hspan hport hs hg hsent hroot).imp ?_
    rintro t ⟨htaken, hurdle⟩
    exact ⟨htaken, congrArg Hurdle.state hurdle, congrArg Hurdle.code hurdle, congrArg Hurdle.waits hurdle⟩
  case strayReport =>
    exact State.refuseSpan_counts hm ((exec_spanFailureReport_of hm hop hh hb hk).trans
      (congrArg _ (State.onDev_congr (Dev.childFails_stray (d := s.dev.mgmtTaken n) hspan s.now))))
  case release =>
    refine (spanRelease_releases hm hop hh hb hk hspan hpar hs hg).imp ?_
    rintro t ⟨htaken, l, p, q, hurdle⟩
    refine ⟨htaken, (congrArg Hurdle.gen hurdle).trans ?_, congrArg Hurdle.result hurdle, congrArg Hurdle.state hurdle,
      congrArg Hurdle.holders hurdle⟩
    exact congrArg (fun k => ((s.dev.hurdle h.val).gen + k) % 65536) (Hurdle.steps_of_not_again (.inr hmode))
  case decision =>
    refine (spanFailureDecision_fails hm hop hh hb hk hspan hpar hs hg).imp ?_
    rintro t ⟨htaken, hurdle⟩
    exact ⟨htaken, congrArg Hurdle.state hurdle, congrArg Hurdle.code hurdle, congrArg Hurdle.waits hurdle⟩

end Sys2Proof.Machine
end

section
/-! Mailbox channels (R279 … R290): what a stored channel reads, what a post and a take leave, and the words of BAR4. -/

namespace Sys2Proof.Machine

-- channels

@[simp] theorem Dev.chan_setChan (d : Dev) (n c : Nat) (x : Chan) : (d.setChan n c x).chan n c = x := Tbl.get_set_self ..

theorem Dev.chan_setChan_ne {c j : Nat} (h : j ≠ c) (d : Dev) (n : Nat) (x : Chan) : (d.setChan n c x).chan n j = d.chan n j :=
  Tbl.get_set_ne _ _ _ _ (by omega)

/-- A channel is stored and registers and cores are left; what a doorbell sends is beside them. -/
theorem Dev.putChan_frame (d : Dev) (n c : Nat) (x : Chan) : ∃ r o, d.putChan n c x = { d.setChan n c x with regs := r, out := o } := by
  unfold Dev.putChan
  dsimp only
  split
  · split
    · exact Dev.msix_frame ..
    · exact ⟨_, _, rfl⟩
  · exact ⟨_, _, rfl⟩

@[simp] theorem Dev.putChan_chan (d : Dev) (n c : Nat) (x : Chan) : (d.putChan n c x).chan n c = x := by
  obtain ⟨r, o, h⟩ := d.putChan_frame n c x
  rw [h]
  exact d.chan_setChan n c x

theorem Dev.putChan_core (d : Dev) (n c : Nat) (x : Chan) : (d.putChan n c x).core = d.core := by
  obtain ⟨r, o, h⟩ := d.putChan_frame n c x
  rw [h]
  rfl

theorem Dev.putChan_reg (d : Dev) (n c : Nat) (x : Chan) (r : Reg) : (d.putChan n c x).reg r = d.reg r := by
  unfold Dev.putChan
  dsimp only
  split
  · split
    · exact (Dev.msix_reg ..).trans rfl
    · rfl
  · rfl

/-- Nothing but mailbox channels differs. -/
def Dev.ChansOnly (d d' : Dev) : Prop := ∃ l, d' = { d with chans := l }

theorem Dev.ChansOnly.foldl {g : Dev → Nat → Dev} (h : ∀ (d : Dev) j, d.ChansOnly (g d j)) (l : List Nat) (d : Dev) :
    d.ChansOnly (l.foldl g d) := by
  induction l generalizing d with
  | nil => exact ⟨_, rfl⟩
  | cons j r ih =>
    obtain ⟨a, ha⟩ := h d j
    obtain ⟨b, hb⟩ := ih (g d j)
    exact ⟨b, by rw [List.foldl_cons, hb, ha]⟩

/-- What is done to the channels of a mailbox in turn is done to each. -/
theorem Dev.foldl_chan {n : Nat} {f : Chan → Nat → Chan} {g : Dev → Nat → Dev} (hself : ∀ d j, (g d j).chan n j = f (d.chan n j) j)
    (hne : ∀ d i j, i ≠ j → (g d j).chan n i = d.chan n i) {m j : Nat} (hj : j < m) (d : Dev) :
    ((List.range m).foldl g d).chan n j = f (d.chan n j) j := by
  have below (m : Nat) (hm : m ≤ j) : ((List.range m).foldl g d).chan n j = d.chan n j := by
    induction m with
    | zero => rfl
    | succ m ih =>
      rw [List.range_succ, List.foldl_append]
      exact (hne _ j m (by omega)).trans (ih (by omega))
  induction m with
  | zero => omega
  | succ m ih =>
    rw [List.range_succ, List.foldl_append]
    rcases Nat.lt_succ_iff_lt_or_eq.1 hj with hlt | rfl
    · exact (hne _ j m (by omega)).trans (ih hlt)
    · exact (hself _ j).trans (congrArg (f · j) (below j (Nat.le_refl j)))

-- a post (R284)

/-- A channel that holds a message posted by `id` with its epoch. -/
def Chan.posted (x : Chan) (id epoch : Nat) (words : List Word) : Chan :=
  { x with words := (fput 63 48 epoch ||| fput 31 0 id) :: padTo 7 0 words, full := true, db := true, stale := false, last := 0 }

section
variable {s : State} {n c id : Nat}

theorem State.post_of_room (hr : s.hasReceiver n = true) (hb : s.dev.bindOf n c = id) (hf : (s.dev.chan n c).full = false)
    (epoch : Nat) (words : List Word) : s.post n c id epoch words = (0, s.onDev fun d =>
      ({ d with epochs := d.epochs.set 0 (d.epochKey id) epoch }).putChan n c ((s.dev.chan n c).posted id epoch words)) := by
  unfold State.post
  simp only [hr, hb, hf, beq_self_eq_true, Bool.not_true, Bool.false_eq_true, if_false]
  rfl

theorem State.post_of_full (hr : s.hasReceiver n = true) (hb : s.dev.bindOf n c = id) (hf : (s.dev.chan n c).full = true)
    (epoch : Nat) (words : List Word) : s.post n c id epoch words =
      (1, s.onDev fun d => d.setChan n c { s.dev.chan n c with last := 1 }) := by
  unfold State.post
  simp only [hr, hb, hf, beq_self_eq_true, Bool.not_true, Bool.false_eq_true, if_false, if_true]
  rfl

theorem State.post_of_other (hr : s.hasReceiver n = true) (hb : s.dev.bindOf n c ≠ id) (epoch : Nat) (words : List Word) :
    s.post n c id epoch words =
      (2, s.onDev fun d => d.setChan n c { s.dev.chan n c with refused := min 255 ((s.dev.chan n c).refused + 1) }) := by
  unfold State.post
  simp only [hr, beq_false_of_ne hb, Bool.not_true, Bool.not_false, Bool.false_eq_true, if_false, if_true]

end

-- MBX_SEND (R287)

theorem Dev.recordSramUe_of_clean {r : Read} (h : r.bad = []) (d : Dev) (now : Nat) (c : CoreIx) : d.recordSramUe now c r = d := by
  rw [Dev.recordSramUe, h]
  rfl

/-- What MBX_SEND reads of the scratchpad share. -/
def State.mbxRead (s : State) (c : CoreIx) (v : Word) : Read :=
  ((s.dev.core c).raceView s.dev.freeCtr).read wordGran (s.dev.freeCtr + (s.dev.core c).raceUsed) (64 * fld v 21 6) 64

/-- What MBX_SEND leaves once its message has been posted: the code of the post in rd. -/
def State.mbxAnswered (r : Nat × State) (c : CoreIx) (rd : RegNum) : State :=
  r.2.onDev fun d => d.modCore c fun k => (k.setX rd (BitVec.ofNat 64 r.1)).retire

/-- A message that can be read, for this device, is posted once the free values of the read are drawn. -/
theorem State.mbxSend_of {s : State} {c : CoreIx} {v : Word} (hbad : mbxSendBad v = false)
    (hroom : 64 * fld v 21 6 + 64 ≤ (s.dev.core c).scratch) (hread : (s.mbxRead c v).bad = []) (hv : bit v 47 = false) (rd : RegNum) :
    s.mbxSend c rd v = State.mbxAnswered ((s.onDev fun d => d.spend ((s.dev.core c).raceUsed + (s.mbxRead c v).used)).post (fld v 43 32)
      (fld v 28 24) (s.stampId c) (s.dev.epochOf (s.stampId c)) ((natWords 8 (ofLe (s.mbxRead c v).bytes)).drop 1)) c rd := by
  unfold State.mbxRead at hread
  unfold State.mbxSend
  extract_lets n ch off k done r t id words dst m r'
  have ht : t = s.onDev fun d => d.spend (k.raceUsed + r.used) := State.onDev_congr (Dev.recordSramUe_of_clean hread ..)
  rw [if_neg (by rw [hbad, decide_eq_false (Nat.not_lt.2 hroom)]; decide), if_neg fun hne => hne hread,
    if_neg fun hd => Bool.false_ne_true (hv.symm.trans hd.1)]
  clear_value t
  subst ht
  rfl

end Sys2Proof.Machine
end

section
/-! The mailbox instructions of a core (R284 … R287). -/

namespace Sys2Proof.Machine

variable {s u : State} {c : CoreIx} {rd : RegNum} {v : Word}

-- MBX_SEND

/-- Who can take a message does not depend on the free values drawn. -/
theorem State.hasReceiver_spend (s : State) (k n : Nat) : (s.onDev fun d => d.spend k).hasReceiver n = s.hasReceiver n := by
  have hup (x : CoreIx) : (s.onDev fun d => d.spend k).coreUp x = s.coreUp x := rfl
  unfold State.hasReceiver
  rw [State.onDev_nv]
  simp only [hup]

/-- The core after a post whose code is `code`; nothing but its registers, and neither memory nor a register of a block, differs. -/
structure State.PostAnswered (u t : State) (c : CoreIx) (rd : RegNum) (code : Word) : Prop where
  pc : (t.dev.core c).pc = (u.dev.core c).pc + 4
  answer : rd.val ≠ 0 → (t.dev.core c).getX rd = code
  others : OtherCoresKept u t c
  volatile : VolatileOnly u t
  regs : RegsKept u t []

theorem State.mbxAnswered_answered {code : Nat} {f : Dev → Dev} (hcore : (f u.dev).core = u.dev.core)
    (hreg : ∀ r, (f u.dev).reg r = u.dev.reg r) :
    u.PostAnswered (State.mbxAnswered (code, u.onDev f) c rd) c rd (BitVec.ofNat 64 code) where
  pc := by
    unfold State.mbxAnswered
    rw [State.onDev_dev, Dev.core_modCore, State.onDev_dev, hcore]
    exact congrArg (· + 4) (Core.setX_pc ..)
  answer hrd := by
    unfold State.mbxAnswered
    rw [State.onDev_dev, Dev.core_modCore]
    exact Core.getX_setX_self _ _ hrd
  others x hx := (Dev.core_modCore_ne _ _ _ _ hx).trans (congrFun hcore x)
  volatile := VolatileOnly.onDev ..
  regs r _ := hreg r

section
variable (hi : Issues s c 4 u) (hbad : mbxSendBad v = false) (hroom : 64 * fld v 21 6 + 64 ≤ (u.dev.core c).scratch)
  (hread : (u.mbxRead c v).bad = []) (hv : bit v 47 = false) (hr : u.hasReceiver (fld v 43 32) = true) (rd : RegNum)

include hi hbad hroom hread hv hr

theorem mbxSend_posts (hb : u.dev.bindOf (fld v 43 32) (fld v 28 24) = u.stampId c)
    (hf : (u.dev.chan (fld v 43 32) (fld v 28 24)).full = false) :
    Completes (.mbxSend c rd v) s fun t => t.dev.chan (fld v 43 32) (fld v 28 24) =
      (u.dev.chan (fld v 43 32) (fld v 28 24)).posted (u.stampId c) (u.dev.epochOf (u.stampId c))
        ((natWords 8 (ofLe (u.mbxRead c v).bytes)).drop 1) ∧ u.PostAnswered t c rd 0 := by
  refine ⟨_, (exec_of_issues hi rfl).trans (congrArg _ (State.mbxSend_of hbad hroom hread hv rd)), ?_⟩
  generalize (u.dev.core c).raceUsed + (u.mbxRead c v).used = drawn
  rw [State.post_of_room (s := u.onDev fun d => d.spend drawn) ((u.hasReceiver_spend ..).trans hr) hb hf]
  refine ⟨Dev.putChan_chan ..,
    State.mbxAnswered_answered (f := fun d => Dev.putChan { d.spend drawn with epochs := _ } _ _ _) ?_ fun r => ?_⟩
  · exact (Dev.putChan_core ..).trans rfl
  · exact (Dev.putChan_reg ..).trans rfl

theorem mbxSend_full (hb : u.dev.bindOf (fld v 43 32) (fld v 28 24) = u.stampId c)
    (hf : (u.dev.chan (fld v 43 32) (fld v 28 24)).full = true) :
    Completes (.mbxSend c rd v) s fun t => t.dev.chan (fld v 43 32) (fld v 28 24) =
      { u.dev.chan (fld v 43 32) (fld v 28 24) with last := 1 } ∧ u.PostAnswered t c rd 1 := by
  refine ⟨_, (exec_of_issues hi rfl).trans (congrArg _ (State.mbxSend_of hbad hroom hread hv rd)), ?_⟩
  generalize (u.dev.core c).raceUsed + (u.mbxRead c v).used = drawn
  rw [State.post_of_full (s := u.onDev fun d => d.spend drawn) ((u.hasReceiver_spend ..).trans hr) hb hf]
  exact ⟨Dev.chan_setChan .., State.mbxAnswered_answered (f := fun d => (d.spend drawn).setChan _ _ _) rfl fun _ => rfl⟩

theorem mbxSend_unbound (hb : u.dev.bindOf (fld v 43 32) (fld v 28 24) ≠ u.stampId c) :
    Completes (.mbxSend c rd v) s fun t => t.dev.chan (fld v 43 32) (fld v 28 24) =
      { u.dev.chan (fld v 43 32) (fld v 28 24) with refused := min 255 ((u.dev.chan (fld v 43 32) (fld v 28 24)).refused + 1) } ∧
        u.PostAnswered t c rd 2 := by
  refine ⟨_, (exec_of_issues hi rfl).trans (congrArg _ (State.mbxSend_of hbad hroom hread hv rd)), ?_⟩
  generalize (u.dev.core c).raceUsed + (u.mbxRead c v).used = drawn
  rw [State.post_of_other (s := u.onDev fun d => d.spend drawn) ((u.hasReceiver_spend ..).trans hr) hb]
  exact ⟨Dev.chan_setChan .., State.mbxAnswered_answered (f := fun d => (d.spend drawn).setChan _ _ _) rfl fun _ => rfl⟩

end

-- MBX_RECV

section
variable (hi : Issues s c 4 u) (hv : v &&& 0xFFFFFFFFE0C0003F = 0) (hroom : 64 * fld v 21 6 + 64 ≤ (u.dev.core c).scratch) (rd : RegNum)

include hi hv hroom

theorem exec_mbxRecv_of_full (hf : (u.dev.chan (u.mailbox c) (fld v 28 24)).full = true) :
    exec (.mbxRecv c rd v) s = .next (u.onDev fun d =>
      ((d.setChan (u.mailbox c) (fld v 28 24) (u.dev.chan (u.mailbox c) (fld v 28 24)).take).modCore c fun k => k.sramWrite (64 * fld v 21 6)
        (leBytes 64 (wordsNat (u.dev.chan (u.mailbox c) (fld v 28 24)).words))).modCore c fun k => (k.setX rd 0).retire) := by
  show execMbxRecv c rd v s = _
  unfold execMbxRecv
  rw [State.issue_of hi]
  dsimp only
  rw [if_neg (not_or.2 ⟨fun hne => hne hv, Nat.not_lt.2 hroom⟩), if_neg (by rw [hf]; decide)]
  rfl

theorem exec_mbxRecv_of_empty (hf : (u.dev.chan (u.mailbox c) (fld v 28 24)).full = false) :
    exec (.mbxRecv c rd v) s = .next (u.onDev fun d => d.modCore c fun k => (k.setX rd 1).retire) := by
  show execMbxRecv c rd v s = _
  unfold execMbxRecv
  rw [State.issue_of hi]
  dsimp only
  rw [if_neg (not_or.2 ⟨fun hne => hne hv, Nat.not_lt.2 hroom⟩), if_pos (by rw [hf]; rfl)]
  rfl

theorem mbxRecv_takes (hf : (u.dev.chan (u.mailbox c) (fld v 28 24)).full = true) :
    Completes (.mbxRecv c rd v) s fun t => t.dev.chan (u.mailbox c) (fld v 28 24) = (u.dev.chan (u.mailbox c) (fld v 28 24)).take ∧
      (t.dev.core c).sram = ((u.dev.core c).sramWrite (64 * fld v 21 6)
        (leBytes 64 (wordsNat (u.dev.chan (u.mailbox c) (fld v 28 24)).words))).sram ∧
      (rd.val ≠ 0 → (t.dev.core c).getX rd = 0) ∧ OtherCoresKept u t c ∧ VolatileOnly u t ∧ RegsKept u t [] := by
  refine ⟨_, exec_mbxRecv_of_full hi hv hroom rd hf, Dev.chan_setChan .., ?sram, fun hrd => ?answer, fun x hx => ?others,
    VolatileOnly.onDev .., fun _ _ => rfl⟩
  case sram =>
    rw [State.onDev_dev, Dev.core_modCore, Dev.core_modCore]
    exact Core.setX_sram ..
  case answer =>
    rw [State.onDev_dev, Dev.core_modCore]
    exact Core.getX_setX_self _ _ hrd
  case others => exact (Dev.core_modCore_ne _ _ _ _ hx).trans (Dev.core_modCore_ne _ _ _ _ hx)

theorem mbxRecv_empty (hf : (u.dev.chan (u.mailbox c) (fld v 28 24)).full = false) :
    Completes (.mbxRecv c rd v) s fun t => OnlyCore u t c ((u.dev.core c).setX rd 1).retire :=
  ⟨_, exec_mbxRecv_of_empty hi hv hroom rd hf, OnlyCore.modCore ..⟩

end

/-- MBX_STAT of a channel of this device that does not clear DISCARDED reads MBX_CH. -/
theorem mbxStat_reads (hi : Issues s c 4 u) (hn : fld v 43 32 < 1024) (hl : bit v 47 = false) (hd : bit v 23 = false) (rd : RegNum) :
    Completes (.mbxStat c rd v) s fun t =>
      OnlyCore u t c ((u.dev.core c).setX rd (u.dev.mbxWord (fld v 43 32) (fld v 28 24))).retire := by
  refine ⟨u.onDev fun d => d.modCore c fun k => (k.setX rd (u.dev.mbxWord (fld v 43 32) (fld v 28 24))).retire, ?_, OnlyCore.modCore ..⟩
  show execMbxStat c rd v s = _
  unfold execMbxStat
  rw [State.issue_of hi]
  dsimp only
  rw [if_neg fun h => Bool.false_ne_true (hl.symm.trans h.1)]
  refine congrArg Host.Outcome.next (State.onDev_congr ?_)
  rw [if_pos hn, if_neg fun h => Bool.false_ne_true (hd.symm.trans h.1)]

-- MBX_DB and MBX_MASK

/-- An instruction that changes each channel of its core's mailbox in turn, and nothing else. -/
theorem mailboxChans_change {i : Instr} {f : Chan → Nat → Chan} {g : Dev → Nat → Dev}
    (hx : exec i s = .next (u.onDev fun d => ((List.range 32).foldl g d).modCore c fun k => k.retire))
    (hg : ∀ (d : Dev) j, g d j = d ∧ f (d.chan (u.mailbox c) j) j = d.chan (u.mailbox c) j ∨
      g d j = d.setChan (u.mailbox c) j (f (d.chan (u.mailbox c) j) j)) :
    Completes i s fun t => (∀ j < 32, t.dev.chan (u.mailbox c) j = f (u.dev.chan (u.mailbox c) j) j) ∧
      (t.dev.core c).pc = (u.dev.core c).pc + 4 ∧ OtherCoresKept u t c ∧ VolatileOnly u t ∧ RegsKept u t [] := by
  have hself (d : Dev) (j : Nat) : (g d j).chan (u.mailbox c) j = f (d.chan (u.mailbox c) j) j := by
    rcases hg d j with ⟨h, hsame⟩ | h
    · rw [h, hsame]
    · rw [h, Dev.chan_setChan]
  have hne (d : Dev) (i j : Nat) (hij : i ≠ j) : (g d j).chan (u.mailbox c) i = d.chan (u.mailbox c) i := by
    rcases hg d j with ⟨h, -⟩ | h
    · rw [h]
    · rw [h, Dev.chan_setChan_ne hij]
  have honly (d : Dev) (j : Nat) : d.ChansOnly (g d j) := by
    rcases hg d j with ⟨h, -⟩ | h
    · exact ⟨_, h⟩
    · exact ⟨_, h⟩
  obtain ⟨l, hl⟩ := Dev.ChansOnly.foldl honly (List.range 32) u.dev
  refine ⟨_, hx, fun j hj => Dev.foldl_chan hself hne hj u.dev, ?pc, fun x hxc => ?others, VolatileOnly.onDev .., fun r _ => ?regs⟩
  case pc =>
    rw [State.onDev_dev, Dev.core_modCore, hl]
    rfl
  case others =>
    rw [State.onDev_dev, Dev.core_modCore_ne _ _ _ _ hxc, hl]
    rfl
  case regs =>
    rw [State.onDev_dev, Dev.reg_modCore, hl]
    rfl

/-- A bit of MBX_DB written 0 clears its channel's doorbell. -/
theorem mbxDbWrite_clears (hi : Issues s c 4 u) (v : Word) : Completes (.mbxDbWrite c v) s fun t =>
    (∀ j < 32, t.dev.chan (u.mailbox c) j =
      if bit v j then u.dev.chan (u.mailbox c) j else { u.dev.chan (u.mailbox c) j with db := false }) ∧
      (t.dev.core c).pc = (u.dev.core c).pc + 4 ∧ OtherCoresKept u t c ∧ VolatileOnly u t ∧ RegsKept u t [] := by
  have hx : exec (.mbxDbWrite c v) s = .next (u.onDev fun d => ((List.range 32).foldl (fun d j => if bit v j then d else
      d.setChan (u.mailbox c) j { d.chan (u.mailbox c) j with db := false }) d).modCore c fun k => k.retire) := by
    show execMbxDbWrite c v s = _
    unfold execMbxDbWrite
    rw [State.issue_of hi]
  refine mailboxChans_change (f := fun x j => if bit v j then x else { x with db := false }) hx fun d j => ?_
  by_cases hv : bit v j = true
  · exact .inl ⟨if_pos hv, if_pos hv⟩
  · exact .inr ((if_neg hv).trans (congrArg (d.setChan (u.mailbox c) j) (if_neg hv).symm))

/-- A bit of MBX_MASK is its channel's MASK. -/
theorem mbxMaskWrite_masks (hi : Issues s c 4 u) (v : Word) : Completes (.mbxMaskWrite c v) s fun t =>
    (∀ j < 32, t.dev.chan (u.mailbox c) j = { u.dev.chan (u.mailbox c) j with mask := bit v j }) ∧
      (t.dev.core c).pc = (u.dev.core c).pc + 4 ∧ OtherCoresKept u t c ∧ VolatileOnly u t ∧ RegsKept u t [] := by
  have hx : exec (.mbxMaskWrite c v) s = .next (u.onDev fun d => ((List.range 32).foldl (fun d j =>
      d.setChan (u.mailbox c) j { d.chan (u.mailbox c) j with mask := bit v j }) d).modCore c fun k => k.retire) := by
    show execMbxMaskWrite c v s = _
    unfold execMbxMaskWrite
    rw [State.issue_of hi]
  exact mailboxChans_change (f := fun x j => { x with mask := bit v j }) hx fun d j => .inr rfl

end Sys2Proof.Machine
end

section
/-! Mailboxes from the Host and Firmware (R279, R282, R285, R289, R290). -/

namespace Sys2Proof.Machine

variable {s : State} {o : Origin}

-- posts

theorem padTo_of_length {α : Type} {l : List α} {n : Nat} (a : α) (h : l.length = n) : padTo n a l = l := h ▸ padTo_length a l

theorem exec_hostMailboxPost_of (hup : s.dev.hubUp = true) (fn : Fin 2) (k : Fin 4) (ch : ChanIx) (v : Word) :
    exec (.hostMailboxPost fn k ch v) s = .next (s.post (0x3F8 + k.val) ch.val (idHost s.dev.devId fn.val)
      (s.dev.epochOf (idHost s.dev.devId fn.val))
      (((List.range 6).map fun i => s.dev.bar4.get 0 (bar4Key fn.val (0x800 * k.val + 64 * ch.val + 8 * (i + 1)))) ++ [v])).2 := by
  show execHostMailboxPost fn k ch v s = _
  unfold execHostMailboxPost
  rw [if_neg (by rw [hup]; decide)]

/-- A hub mailbox can always be posted to. -/
theorem State.hasReceiver_hub (s : State) (k : Fin 4) : s.hasReceiver (0x3F8 + k.val) = true := by
  unfold State.hasReceiver
  rw [decide_eq_true (by omega), Bool.true_or]

theorem hostMailboxPost_posts {fn : Fin 2} {k : Fin 4} {ch : ChanIx} (hup : s.dev.hubUp = true)
    (hb : s.dev.bindOf (0x3F8 + k.val) ch.val = idHost s.dev.devId fn.val) (hf : (s.dev.chan (0x3F8 + k.val) ch.val).full = false)
    (v : Word) : Completes (.hostMailboxPost fn k ch v) s fun t => t.dev.chan (0x3F8 + k.val) ch.val =
      (s.dev.chan (0x3F8 + k.val) ch.val).posted (idHost s.dev.devId fn.val) (s.dev.epochOf (idHost s.dev.devId fn.val))
        (((List.range 6).map fun i => s.dev.bar4.get 0 (bar4Key fn.val (0x800 * k.val + 64 * ch.val + 8 * (i + 1)))) ++ [v]) ∧
      VolatileOnly s t ∧ RegsKept s t [] := by
  refine ⟨_, exec_hostMailboxPost_of hup fn k ch v, ?_⟩
  rw [State.post_of_room (s.hasReceiver_hub k) hb hf]
  exact ⟨Dev.putChan_chan .., VolatileOnly.onDev .., fun r _ => (Dev.putChan_reg ..).trans rfl⟩

-- reads of the words of a hub mailbox

/-- The offset in BAR4 of a word of a channel of a hub mailbox, with the mailbox, channel and word it is read as. -/
def hubOffset (k : Fin 8) (ch : ChanIx) (w : Fin 8) : Nat := 64 * (32 * k.val + ch.val) + 8 * w.val

theorem hubOffset_lt (k : Fin 8) (ch : ChanIx) (w : Fin 8) : hubOffset k ch w < 0x4000 := by
  unfold hubOffset
  omega

theorem hubOffset_mailbox (k : Fin 8) (ch : ChanIx) (w : Fin 8) : hubOffset k ch w / 0x800 = k.val := by
  unfold hubOffset
  omega

theorem hubOffset_chan (k : Fin 8) (ch : ChanIx) (w : Fin 8) : hubOffset k ch w / 64 % 32 = ch.val := by
  unfold hubOffset
  omega

theorem hubOffset_word (k : Fin 8) (ch : ChanIx) (w : Fin 8) : hubOffset k ch w % 64 / 8 = w.val := by
  unfold hubOffset
  omega

/-- The message of a channel of a hub mailbox has been taken by its receiver. -/
def Dev.hubTaken (d : Dev) (k : Fin 8) (ch : ChanIx) : Dev :=
  if k.val < 4 then d.firmwareTook k.val ch.val
  else d.setChan (0x3F8 + k.val) ch.val (d.chan (0x3F8 + k.val) ch.val).take

theorem Dev.hubTaken_frame (d : Dev) (k : Fin 8) (ch : ChanIx) : ∃ e, d.hubTaken k ch =
    { d.setChan (0x3F8 + k.val) ch.val (d.chan (0x3F8 + k.val) ch.val).take with early := e } := by
  unfold Dev.hubTaken
  split
  · exact ⟨_, rfl⟩
  · exact ⟨_, rfl⟩

theorem Dev.bar4Read_hub (d : Dev) (o : Origin) (k : Fin 8) (ch : ChanIx) (w : Fin 8) : d.bar4Read o (hubOffset k ch w) =
    if receives o k.val && (d.chan (0x3F8 + k.val) ch.val).full then
      ((d.chan (0x3F8 + k.val) ch.val).words.getD w.val 0, if w.val ≠ 7 then d else d.hubTaken k ch)
    else (0, d) := by
  unfold Dev.bar4Read
  rw [if_pos (hubOffset_lt k ch w)]
  simp only [hubOffset_mailbox, hubOffset_chan, hubOffset_word]
  rfl

section
variable {k : Fin 8} {ch : ChanIx} (hup : s.dev.hubUp = true) (hfw : o = .firmware → s.dev.firmwareTakes k.val ch.val = true)

include hup hfw

theorem exec_hostMailboxTake_of (w : Fin 8) : exec (.hostMailboxTake o (32 * k.val + ch.val) w) s = .next (s.onDev fun d =>
    (d.bar4Read o (hubOffset k ch w)).2.emit (.read (originFn o) (bar4Base + hubOffset k ch w) (d.bar4Read o (hubOffset k ch w)).1)) := by
  have hturn : ¬(o = .firmware ∧ hubOffset k ch w < 0x4000 ∧
      (!s.dev.firmwareTakes (hubOffset k ch w / 0x800) (hubOffset k ch w / 64 % 32)) = true) := by
    rintro ⟨ho, -, hn⟩
    rw [hubOffset_mailbox, hubOffset_chan, hfw ho] at hn
    exact Bool.false_ne_true hn
  show execHostMailboxTake o (32 * k.val + ch.val) w s = _
  unfold execHostMailboxTake
  rw [← hubOffset]
  dsimp only
  rw [if_neg hturn, if_neg (by rw [hup]; decide)]
  exact congrArg Host.Outcome.next (State.onDev_congr rfl)

/-- The receiver's read of the last word returns it and takes the message. -/
theorem hostMailboxTake_takes (hr : receives o k.val = true) (hf : (s.dev.chan (0x3F8 + k.val) ch.val).full = true) :
    Completes (.hostMailboxTake o (32 * k.val + ch.val) 7) s fun t =>
      t.dev.out = s.dev.out ++ [.read (originFn o) (bar4Base + hubOffset k ch 7) ((s.dev.chan (0x3F8 + k.val) ch.val).words.getD 7 0)] ∧
      t.dev.chan (0x3F8 + k.val) ch.val = (s.dev.chan (0x3F8 + k.val) ch.val).take ∧ VolatileOnly s t ∧ RegsKept s t [] := by
  have hread : s.dev.bar4Read o (hubOffset k ch 7) = ((s.dev.chan (0x3F8 + k.val) ch.val).words.getD 7 0, s.dev.hubTaken k ch) := by
    rw [Dev.bar4Read_hub, hr, hf]
    rfl
  obtain ⟨e, he⟩ := s.dev.hubTaken_frame k ch
  rw [he] at hread
  refine ⟨_, (exec_hostMailboxTake_of hup hfw 7).trans (congrArg _ (State.onDev_congr (g := fun d => Dev.emit
    { d.setChan (0x3F8 + k.val) ch.val (s.dev.chan (0x3F8 + k.val) ch.val).take with early := e } _) ?_)),
    rfl, Dev.chan_setChan .., VolatileOnly.onDev .., fun _ _ => rfl⟩
  rw [hread]

/-- The receiver reads the other words of a message without taking it. -/
theorem exec_hostMailboxTake_of_word (hr : receives o k.val = true) (hf : (s.dev.chan (0x3F8 + k.val) ch.val).full = true) {w : Fin 8}
    (hw : w ≠ 7) : exec (.hostMailboxTake o (32 * k.val + ch.val) w) s = .next (s.onDev fun d =>
      d.emit (.read (originFn o) (bar4Base + hubOffset k ch w) ((s.dev.chan (0x3F8 + k.val) ch.val).words.getD w.val 0))) := by
  have hread : s.dev.bar4Read o (hubOffset k ch w) = ((s.dev.chan (0x3F8 + k.val) ch.val).words.getD w.val 0, s.dev) := by
    rw [Dev.bar4Read_hub, hr, hf]
    exact congrArg (Prod.mk _) (if_pos fun e => hw (Fin.ext e))
  rw [exec_hostMailboxTake_of hup hfw]
  refine congrArg _ (State.onDev_congr ?_)
  rw [hread]

/-- Another reader, and a reader of an empty channel, reads zero and takes nothing. -/
theorem exec_hostMailboxTake_of_other (hn : receives o k.val = false ∨ (s.dev.chan (0x3F8 + k.val) ch.val).full = false) (w : Fin 8) :
    exec (.hostMailboxTake o (32 * k.val + ch.val) w) s = .next (s.onDev fun d =>
      d.emit (.read (originFn o) (bar4Base + hubOffset k ch w) 0)) := by
  have hread : s.dev.bar4Read o (hubOffset k ch w) = (0, s.dev) := by
    rw [Dev.bar4Read_hub]
    refine if_neg fun h => ?_
    obtain ⟨hr, hf⟩ := Bool.and_eq_true_iff.1 h
    exact hn.elim (fun hn => Bool.false_ne_true (hn.symm.trans hr)) fun hn => Bool.false_ne_true (hn.symm.trans hf)
  rw [exec_hostMailboxTake_of hup hfw]
  refine congrArg _ (State.onDev_congr ?_)
  rw [hread]

end

/-- Before READY Firmware takes nothing (R354). -/
theorem exec_hostMailboxTake_of_not_ready (hn : s.dev.ready = false) (k : Fin 4) (ch : ChanIx) :
    exec (.hostMailboxTake .firmware (32 * k.val + ch.val) 7) s = .next s := by
  have hturn : s.dev.firmwareTakes ((64 * (32 * k.val + ch.val) + 8 * (7 : Fin 8).val) / 0x800)
      ((64 * (32 * k.val + ch.val) + 8 * (7 : Fin 8).val) / 64 % 32) = false := by
    rw [Dev.firmwareTakes, hn, Bool.false_and]
  show execHostMailboxTake .firmware (32 * k.val + ch.val) 7 s = _
  unfold execHostMailboxTake
  refine congrArg Host.Outcome.next (if_pos ⟨rfl, ?_, by rw [hturn]; rfl⟩)
  have h7 : (7 : Fin 8).val = 7 := rfl
  omega

-- MBX_CH (R282, R289)

/-- A write of MBX_CH by Firmware or function 1 while the channel is empty stores BIND and MASK and keeps the words. -/
theorem Dev.mbxChWrite_of_empty {d : Dev} {n c : Nat} (ho : o ≠ .fn0) (hf : (d.chan n c).full = false) (v : Word) :
    ∃ x : Chan, d.mbxChWrite o n c v = d.putChan n c x ∧ x.bind.getD (bindAfterReset d.devId n c) = fld v 63 32 ∧
      x.mask = bit v 2 ∧ x.words = (d.chan n c).words := by
  have hboss : (o != .fn0) = true := bne_iff_ne.2 ho
  unfold Dev.mbxChWrite
  extract_lets x rcv boss b y z y' z'
  have hbind : y.bind.getD (bindAfterReset d.devId n c) = fld v 63 32 := by
    by_cases hb : fld v 63 32 = d.bindOf n c
    · have hy : y = x := if_neg (by simp [b, hb])
      rw [hy]
      exact hb.symm
    · have hy : y = { x with bind := some b } := if_pos (by simp [boss, b, hboss, hb])
      rw [hy]
      rfl
  have hwords : y.words = x.words := by
    dsimp -zeta only [y]
    split <;> rfl
  have hz : z = { y with mask := bit v 2 } := if_pos (by simp [boss, hboss])
  have hkept : z'.bind = z.bind ∧ z'.mask = z.mask ∧ z'.words = z.words := by
    dsimp -zeta only [z', y']
    split <;> split <;> exact ⟨rfl, rfl, rfl⟩
  obtain ⟨kbind, kmask, kwords⟩ := hkept
  refine ⟨z', if_neg (by simp [x, hf]), ?_, ?_, ?_⟩
  · rw [kbind, hz]
    exact hbind
  · rw [kmask, hz]
  · rw [kwords, hz]
    exact hwords

theorem exec_mbxBindWrite_of {n : Fin 1024} {ch : ChanIx} (hm : s.mayWrite o (.mbxCh n ch)) (v : Word) :
    exec (.mbxBindWrite o n ch v) s = .next (s.onDev fun d => d.mbxChWrite o n.val ch.val v) :=
  congrArg Host.Outcome.next (State.regWrite_may hm _)

theorem mbxBindWrite_stores {n : Fin 1024} {ch : ChanIx} (hm : s.mayWrite o (.mbxCh n ch)) (ho : o ≠ .fn0)
    (hf : (s.dev.chan n.val ch.val).full = false) (v : Word) : Completes (.mbxBindWrite o n ch v) s fun t =>
      t.dev.bindOf n.val ch.val = fld v 63 32 ∧ (t.dev.chan n.val ch.val).mask = bit v 2 ∧
        (t.dev.chan n.val ch.val).words = (s.dev.chan n.val ch.val).words ∧ VolatileOnly s t ∧ RegsKept s t [] := by
  obtain ⟨x, hx, hbind, hmask, hwords⟩ := Dev.mbxChWrite_of_empty ho hf v
  refine ⟨_, (exec_mbxBindWrite_of hm v).trans (congrArg _ (State.onDev_congr (g := fun d => d.putChan n.val ch.val x) hx)),
    ?bind, ?mask, ?words, VolatileOnly.onDev .., fun r _ => Dev.putChan_reg ..⟩
  case bind =>
    have hid : (s.dev.putChan n.val ch.val x).devId = s.dev.devId := congrArg (fld · 63 48) (Dev.putChan_reg ..)
    rw [State.onDev_dev, Dev.bindOf, Dev.putChan_chan, hid]
    exact hbind
  case mask =>
    rw [State.onDev_dev, Dev.putChan_chan]
    exact hmask
  case words =>
    rw [State.onDev_dev, Dev.putChan_chan]
    exact hwords

/-- While the channel holds a message a write with another BIND is refused whole. -/
theorem exec_mbxBindWrite_of_full {n : Fin 1024} {ch : ChanIx} (hm : s.mayWrite o (.mbxCh n ch)) (ho : o ≠ .fn0)
    (hf : (s.dev.chan n.val ch.val).full = true) {v : Word} (hb : fld v 63 32 ≠ s.dev.bindOf n.val ch.val) :
    exec (.mbxBindWrite o n ch v) s = .next s := by
  have hrefused : s.dev.mbxChWrite o n.val ch.val v = s.dev := if_pos (by simp [hf, hb, ho])
  exact (exec_mbxBindWrite_of hm v).trans (congrArg _ ((State.onDev_congr (g := id) hrefused).trans rfl))

theorem exec_mbxChRead_of {n : Fin 1024} {ch : ChanIx} (ha : s.dev.answers o (.mbxCh n ch) = true) :
    exec (.mbxChRead o n ch) s = .next (s.onDev fun d =>
      (d.setChan n.val ch.val { d.chan n.val ch.val with refused := 0 }).emit
        (.read (originFn o) (Reg.offset (.mbxCh n ch)) (d.mbxWord n.val ch.val))) := by
  show execMbxChRead o n ch s = _
  unfold execMbxChRead
  rw [if_neg (by rw [ha]; decide)]

end Sys2Proof.Machine
end

section
/-! The statement of the mailboxes, settled. -/

namespace Sys2Proof.Machine

/-- Settles O48: the instructions of a core one by one, then the accesses of the Host and Firmware. -/
theorem mailboxesComplete : Obligations.MailboxesComplete := by
  refine ⟨fun s u c rd v hi => ⟨fun hbad hroom hread hv hr => ⟨fun hb hf => ?posts, fun hb hf => ?full, fun hb => ?unbound⟩,
      fun hv hroom => ⟨mbxRecv_takes hi hv hroom rd, mbxRecv_empty hi hv hroom rd⟩,
      fun hn hl hd => mbxStat_reads hi hn hl hd rd, mbxDbWrite_clears hi v, mbxMaskWrite_masks hi v⟩,
    fun s fn k4 k8 ch v o n => ⟨fun hup => ⟨fun hb hf => ?host, fun hfw => ⟨fun hr hf => ⟨?take, fun w hw =>
      exec_hostMailboxTake_of_word hup hfw hr hf hw⟩, fun hn w => exec_hostMailboxTake_of_other hup hfw hn w⟩⟩,
      fun k hn => exec_hostMailboxTake_of_not_ready hn k ch,
      fun hm ho => ⟨fun hf => mbxBindWrite_stores hm ho hf v, fun hf hb => exec_mbxBindWrite_of_full hm ho hf hb⟩,
      fun ha => ⟨_, exec_mbxChRead_of ha, rfl, Dev.chan_setChan .., VolatileOnly.onDev .., fun _ _ => rfl⟩⟩⟩
  case posts =>
    refine (mbxSend_posts hi hbad hroom hread hv hr rd hb hf).imp fun t ⟨hchan, hans⟩ => ?_
    rw [hchan]
    exact ⟨rfl, rfl, rfl, hans.pc, hans.answer, hans.others, hans.volatile, hans.regs⟩
  case full =>
    exact (mbxSend_full hi hbad hroom hread hv hr rd hb hf).imp fun t ⟨hchan, hans⟩ => ⟨hchan, hans.answer, hans.volatile, hans.regs⟩
  case unbound =>
    exact (mbxSend_unbound hi hbad hroom hread hv hr rd hb).imp fun t ⟨hchan, hans⟩ => ⟨hchan, hans.answer, hans.volatile, hans.regs⟩
  case host =>
    refine (hostMailboxPost_posts hup hb hf v).imp fun t ⟨hchan, hvol, hregs⟩ => ?_
    rw [hchan]
    exact ⟨congrArg (List.cons _) (padTo_of_length 0 (List.length_append ..)), rfl, hvol, hregs⟩
  case take =>
    refine (hostMailboxTake_takes hup hfw hr hf).imp fun t ⟨hout, hchan, hvol, hregs⟩ => ?_
    rw [hchan]
    exact ⟨hout, rfl, rfl, hvol, hregs⟩

end Sys2Proof.Machine
end
